-- ==== Sys2Proof/Word.lean ====
section
/-! DEFINITION. The word types of the Zhevlos Z9 (R3, R4) and their plainest arithmetic. -/

namespace Sys2Proof

/-- One byte of a memory space (R4). -/
abbrev Byte := BitVec 8

/-- A 16-bit code unit of a line (R28). -/
abbrev Unit16 := BitVec 16

/-- A 32-bit lane, count or program counter. -/
abbrev Word32 := BitVec 32

/-- A 64-bit scalar register value (R65). -/
abbrev Word := BitVec 64

/-- A 128-bit mask register value (R183). -/
abbrev Mask128 := BitVec 128

/-- A 4,096-bit vector register value (R163). -/
abbrev VWord := BitVec 4096

end Sys2Proof
end

