-- ==== Sys2Proof/Syntax.lean ====
section
/-! DEFINITION. The whole instruction and event syntax: one constructor of Instr for every row of the table of
operations and events (spec/opcode_table.json), with the operand kinds of R35 and R50 and the data that arriving
events carry. -/

namespace Sys2Proof

/-! ## Operand kinds (R35) and modifiers (R50, R53) -/

/-- A g register code. -/
abbrev GReg := BitVec 7
/-- A mask register m0 to m7. -/
abbrev MReg := BitVec 3
/-- A shared register c0 to c31. -/
abbrev CReg := BitVec 5
/-- A loop counter lc0 or lc1. -/
abbrev LReg := BitVec 1
/-- A stream register q0 to q7. -/
abbrev QReg := BitVec 3
/-- The signed 16-bit byte offset OFF16 (R51). -/
abbrev Off16 := BitVec 16
/-- A V-side mask operand: MK and MR of the VCW (R56). -/
abbrev VMask := Option MReg

/-- A v-kind operand field: a register of the window, or a stream register (R35). -/
inductive VOp where
  | v (i : BitVec 6)
  | q (i : QReg)
  deriving DecidableEq, Repr

/-- Scheme INT. -/
inductive IntTy where
  | i8 | i16 | i32 | i64 | n8 | n16 | n32 | n64
  deriving DecidableEq, Repr

/-- Scheme WID. -/
inductive Wid where
  | w8 | w16 | w32 | w64
  deriving DecidableEq, Repr

/-- The float types of scheme FV. -/
inductive FTy where
  | f32 | f16 | bf16
  deriving DecidableEq, Repr

/-- Rounding modes of scheme FV. -/
inductive RMode where
  | rne | rtz | rdn | rup
  deriving DecidableEq, Repr

/-- Integer element widths of the VCW field IW. -/
inductive IWid where
  | b8 | b16 | b32
  deriving DecidableEq, Repr

/-- The element type of a vector operation (R182): scheme FV with the VCW fields IW, U and SAT. -/
inductive VElt where
  | flt (f : FTy) (md : RMode)
  | int (w : IWid) (unsigned sat : Bool)
  deriving DecidableEq, Repr

/-- Scheme COND. -/
inductive Cond where
  | eq | ne | lt | le | gt | ge | lo | ls | hi | hs
  deriving DecidableEq, Repr

/-- Conditions of VCMP (VCW AUX). -/
inductive VCond where
  | eq | ne | lt | le
  deriving DecidableEq, Repr

/-- Types that VCMP accepts (R188, R193). -/
inductive VCmpTy where
  | f32 | i32 | n32
  deriving DecidableEq, Repr

/-- Scheme SCOPE. -/
inductive Scope where
  | core | die | pkg | sys
  deriving DecidableEq, Repr

/-- MCW field SP. -/
inductive Space where
  | dm | ulm | wb | ab
  deriving DecidableEq, Repr

/-- MCW fields KIND and SCOPE. -/
inductive Order where
  | plain | acq (s : Scope) | rel (s : Scope) | sc
  deriving DecidableEq, Repr

/-- The memory control word (R54), less SG and AW, which the constructors carry themselves. -/
structure Mcw where
  sp : Space
  order : Order
  rx : Bool
  ord : Bool
  deriving DecidableEq, Repr

/-- Scheme AOP. -/
inductive AOp where
  | add | and | or | xor | minS | maxS | minU | maxU | swap
  deriving DecidableEq, Repr

/-- The operations of AMOF. -/
inductive FOp where
  | add | min | max
  deriving DecidableEq, Repr

/-- Scheme CPF: the copy shadow registers (R284). -/
inductive CpField where
  | from | to | len | len1 | len2 | str1 | str2 | str3 | qsel | act | arg
  deriving DecidableEq, Repr

/-- Scheme GT: element formats of a grid (R266). -/
inductive GFmt where
  | f32 | bf16 | f16 | i32
  deriving DecidableEq, Repr

/-- Scheme CVT (R178), with the mode and SAT where the form takes them. -/
inductive CvtOp where
  | f32_i32 | i32_f32 (md : RMode) (sat : Bool) | f32_n32 | n32_f32 (md : RMode) (sat : Bool)
  | f16_f32 (md : RMode) | bf16_f32 (md : RMode) | f32_f16 | f32_bf16
  deriving DecidableEq, Repr

/-- Operations of VRED and VSCAN (VCW AUX). -/
inductive RedOp where
  | add | min | max
  deriving DecidableEq, Repr

/-- Selector .a or .b. -/
inductive Ab where
  | a | b
  deriving DecidableEq, Repr

/-- VPACK and VUNPK width. -/
inductive PkW where
  | w16 | w8
  deriving DecidableEq, Repr

/-- Operation of CRRS with its element type FT (R325): quasi-mean merging takes no type. -/
inductive CrOp where
  | add | max | min
  deriving DecidableEq, Repr
inductive CrFt where
  | f32 | f16 | bf16 | i32
  deriving DecidableEq, Repr
inductive CrrsOp where
  | arith (op : CrOp) (ft : CrFt)
  | qm
  deriving DecidableEq, Repr

/-- Gang sizes (R99). -/
inductive GangSize where
  | two | four | eight
  deriving DecidableEq, Repr

/-! ## Data that crosses between units and packages -/

/-- The place of a thread: package (ROW * 16 + COL), die, core and thread (R17, R343). -/
structure Loc where
  pkg : Nat
  die : Nat
  core : Nat
  thread : Nat
  deriving DecidableEq, Repr

/-- What an atomic engine or a ULM port performs (R106, R144, R92). -/
inductive AtomicOp where
  | amo (op : AOp) (w64 : Bool) (b : Word)
  | cas (w64 : Bool) (expected new : Word)
  | amof (op : FOp) (b : Word32)
  | join
  | leave
  | arrive (bytes : Option Word32)
  | waitgen (target : Word32)
  | copyArrive (bytes : Nat)
  | decrement (index : Nat)
  deriving DecidableEq, Repr

/-- The answer to an atomic or conjunction operation: a value for the destination, "continue", or the CONJ failure. -/
inductive AtomicAns where
  | value (w : Word)
  | ok
  | fail
  | prot
  /-- off: the distance of the bad word from the aligned 8-byte word that the operation's address lies in -/
  | bad (poison : Bool) (off : Nat)
  deriving DecidableEq, Repr

/-- A contribution (R225): handle, interval, mode, NaN indicator, tenant and 1,024 values, with its sender,
and the place and the register of its receipt. -/
structure Contribution where
  handle : Word
  klo : Nat
  kn : Nat
  intMode : Bool
  /-- TCONT takes the mode of the target tile (R235) -/
  anyMode : Bool
  nan : Bool
  tenant : Nat
  vals : List Word32
  /-- the core whose matrix unit sends it -/
  unit : Loc
  src : Loc
  reg : Nat
  deriving DecidableEq, Repr

/-- A command block of MCMD (R217) as sent, with the sender's CAPT and the place of its receipt. -/
structure MCommand where
  kind : Nat
  fmtA : BitVec 4
  fmtB : BitVec 4
  scla : Word32
  sclb : Word32
  handle : Word
  interval : Word
  aaddr : Word
  bload : Word
  capt : Word
  tenant : Nat
  target : Loc
  src : Loc
  reg : Nat
  deriving DecidableEq, Repr

/-- A migrating thread (R306). -/
structure MigPacket where
  pc : Word32
  wl : Nat
  home : Loc
  tenant : Nat
  lc0 : Word32
  lc1 : Word32
  prog : Nat
  va : Word
  /-- true for FILL -/
  fill : Bool
  sub : BitVec 4
  reg : GReg
  order : Order
  rx : Bool
  count : Nat
  npc : Word32
  regs : List Word
  /-- the model's own: which departure of the thread from its home it is (DEDUCED, log entry 105) -/
  visit : Nat
  deriving DecidableEq, Repr

/-- Why a thread comes home (R310 to R313). -/
inductive HomeWhy where
  | home
  | load
  | recall
  | refused
  | fault (cause sub : BitVec 8) (faddr fprog : Word) (noBundle : Bool)
  | killed (cause : BitVec 8) (faddr : Word)
  | waiting (va : Word) (target : Word32)
  deriving DecidableEq, Repr

/-- A halo strip (R270): tenant, grid, receiving core, direction index k (R268) under which the receiver files it. -/
structure Strip where
  tenant : Nat
  gid : BitVec 16
  dst : Loc
  src : Loc
  dir : Nat
  tag : Nat
  fmt : GFmt
  cells : List Word32
  /-- cells read from uncorrectable or poisoned words -/
  bad : List Nat
  deriving DecidableEq, Repr

/-- A tagged collective message (R323). -/
structure CMsg where
  comm : BitVec 12
  /-- the model's own: the sender's registration under which it is sent (R323) -/
  reg : Nat
  rank : Nat
  /-- the rank it is sent to -/
  toRank : Nat
  inst : Nat
  step : Nat
  capt : Word
  /-- the sending tenant -/
  tenant : Nat
  src : Loc
  dst : Loc
  data : List Byte
  /-- byte offsets of words read uncorrectable or poisoned -/
  bad : List Nat
  deriving DecidableEq, Repr

/-- A raw message (R320). -/
structure RawMsg where
  capt : Word
  /-- the sending tenant -/
  tenant : Nat
  src : Loc
  dst : Loc
  words : List Word
  deriving DecidableEq, Repr

/-- A fault message or notice (R338). -/
structure FaultMsg where
  cause : BitVec 8
  sub : BitVec 8
  tenant : Nat
  killed : Bool
  notice : Bool
  thread : BitVec 8
  src : Loc
  faddr : Word
  fpc : Word32
  fprog : Word
  deriving DecidableEq, Repr

/-- What travels between units and packages. -/
inductive NetMsg where
  | store (src : Loc) (id : Nat) (gpa : Nat) (data : List Byte) (ord : Bool)
  /-- a store of the copy engine to some bytes of a block, whose others stay (R297) -/
  | masked (src : Loc) (id : Nat) (gpa : Nat) (data : List (Option Byte))
  | routeAck (dst : Loc) (id : Nat)
  | bankAck (dst : Loc) (id : Nat)
  /-- acq: the answer is held for the ingress horizon (R148); posted: the decrement of a `.sig` store (R303) -/
  | atomic (src : Loc) (id : Nat) (gpa : Nat) (op : AtomicOp) (acq posted : Bool)
  | atomicAns (dst : Loc) (id : Nat) (ans : AtomicAns) (reg : Nat)
  | contribution (c : Contribution)
  | receipt (dst : Loc) (reg : Nat) (value : Word)
  | mcmd (m : MCommand)
  | mig (dst : Nat) (p : MigPacket)
  | goHome (p : MigPacket) (why : HomeWhy)
  | recall (guest : Loc) (home : Loc) (visit : Nat)
  | strip (s : Strip)
  | cmsg (m : CMsg)
  | delivered (dst : Loc) (reg : Nat) (peer : Nat) (inst step : Nat)
  | credit (dst : Loc) (reg : Nat) (peer : Nat)
  | raw (m : RawMsg)
  | faultMsg (dst : Nat) (m : FaultMsg)
  | copyRead (src : Loc) (id : Nat) (gpa : Nat) (len : Nat)
  | copyData (dst : Loc) (id : Nat) (data : List Byte) (bad : Option Bool)
  deriving DecidableEq, Repr

/-- The five link classes (R303). -/
inductive LinkClass where
  | req | rsp | post | mig | msg
  deriving DecidableEq, Repr

/-- A packet on the Stewyn link (R302, R303): source and destination package, the packages it still passes after the peer it is sent
to, its destination the last, hop count, sequence number. -/
structure Packet where
  src : Nat
  dst : Nat
  route : List Nat
  seq : Nat
  cls : LinkClass
  hops : Nat
  ord : Bool
  msg : NetMsg
  deriving DecidableEq, Repr

/-- A segment (R314): counter, nonce, the number of the direction's key, first-under-key mark, whether its tag checks at the receiver,
packets, the part of a packet of more than 32 flits that it carries (with the part's number and the number of parts), and the counters of
ours whose tags the peer confirms. It stands in clear: SM4-GCM is an external standard (DESIGN CHOICE, log entry 120). -/
structure Segment where
  ctr : Nat
  nonce : BitVec 96
  key : Nat
  first : Bool
  tagOk : Bool
  packets : List Packet
  part : Option (Packet × Nat × Nat)
  /-- the counter of the failed segment whose content it repeats (R317) -/
  again : Option Nat
  confirm : List Nat
  /-- credits returned, each for a class and hop lane (R303) -/
  credit : List (LinkClass × Nat) := []
  deriving DecidableEq, Repr

/-- A request packet as it reaches the responder (R366, R368): `first` begins a message, whose address, key and length each of its packets
carries here; `data` are the bytes of this packet. -/
structure RdmaReq where
  psn : Nat
  first : Bool
  /-- an ECN mark (R366) -/
  ecn : Bool
  op : Nat
  raddr : Word
  rkey : Word32
  imm : Word32
  len : Nat
  data : List Byte
  deriving DecidableEq, Repr

/-- An acknowledgement, or a response packet of a READ with its bytes, as it reaches the initiator (R366, R368). -/
structure RdmaAck where
  psn : Nat
  ecn : Bool
  data : List Byte
  deriving DecidableEq, Repr

/-- What crosses to the neighbour for one tenant of an evicted package (R395): its descriptor (R380), the bytes of its device memory that are
not 0, by global physical address, and the control blocks of its queues by number. -/
structure EvictTenant where
  desc : List Byte
  dm : List (Nat × Byte)
  queues : List (Nat × List Byte)
  deriving DecidableEq, Repr

/-- What reaches the neighbour of an eviction (R395): the question, with the clusters, the quota and the bytes of memory of each tenant, and then
the tenants. -/
inductive EvictMsg where
  | ask (tenants : List (Nat × Nat × Nat))
  | move (tenants : List EvictTenant)
  deriving DecidableEq, Repr

/-- A message of an eviction, with the package that it comes from. -/
structure EvictRequest where
  pkg : Nat
  msg : EvictMsg
  deriving DecidableEq, Repr

/-- Debug states (R385). -/
inductive DebugState where
  | off | observe | control
  deriving DecidableEq, Repr

/-- What a debug access reads or writes (R385). -/
inductive DebugTarget where
  | gReg (core thread idx : Nat)
  | buffer (core : Nat) (space : Space) (off : Nat)
  | coreReg (core num : Nat)
  /-- word w of a vector or mask register of a thread's window -/
  | vReg (core thread idx w : Nat)
  | mReg (core thread idx w : Nat)
  /-- the diagnostic window, which is read only (R116) -/
  | acc (core off : Nat)
  /-- counters: a core's cycle counter, a port's segment counter -/
  | cycles (core : Nat)
  | segments (port : Nat)
  deriving DecidableEq, Repr

/-- A firmware image (R393). -/
structure FwImage where
  version : Nat
  body : List Byte
  signature : List Byte
  deriving DecidableEq, Repr

/-! ## Instructions and events -/

/-- Every row of the table of operations and events. Operands stand in assembly order: the destination first (R51).
An event that brings data from outside carries it. The events of the machine's own units have no operands: the unit they
happen at, or the item in transit that they concern, is State.subj, which the step sets as it sets State.cur for the
operations of a bundle (a core key is die * 512 + core, a thread key is core key * 64 + thread). -/
inductive Instr where
  -- events of the platform, the memory system and the scheduler
  | segmentArrival (port : Nat) (seg : Segment)
  | retransmitRequest (port ctr : Nat)
  -- host link, queues and tenants
  | apertureWrite (fn off : Nat) (data : List Byte) (relaxed : Bool)
  | apertureRead (fn off len : Nat)
  | queueKick (fn queue : Nat) (tail : Word32)
  | scaleoutDoorbell (fn qp : Nat)
  | mberrClear (fn : Nat) (value : Word)
  | tlbinvWrite (fn : Nat)
  | ethernetPortConfigWrite (port off : Nat) (data : List Byte)
  | regionTableWrite (region off : Nat) (data : List Byte)
  | bar0RegisterWrite (fn off : Nat) (data : List Byte)
  | rdmaRequestArrival (qp : Nat) (req : RdmaReq)
  | rdmaAckArrival (qp : Nat) (ack : RdmaAck)
  | warm (rs1 : BitVec 5)
  | wblk (rd : BitVec 5)
  | queueTableUe (queue : Nat) (blockReadable : Bool)
  -- power, security and management
  | debugauth (target : DebugState) (tenantMask : BitVec 16) (chal : List Byte) (signature : List Byte)
      (tenantSigs : List (Nat × List Byte))
  | attest (tenant : Nat) (key chal : List Byte)
  | idchal (chal : List Byte)
  | identityStoreRead (off : Nat)
  | pldmFirmwareUpdate (image : FwImage)
  | acceptmin (version : Nat)
  | evict (neighbour : Nat)
  -- system register forms with rows of their own
  | csrwFring (a : GReg)
  | csrwFrrd (a : GReg)
  | csrwTstate (a : GReg)
  | vlogsRead (a : GReg)
  -- integer (R69 to R79)
  | add (t : IntTy) (sat : Bool) (a b c : GReg)
  | sub (t : IntTy) (sat : Bool) (a b c : GReg)
  | addi (a b : GReg) (imm : Word32)
  | mul (t : IntTy) (sat : Bool) (a b c : GReg)
  | mulh (t : IntTy) (a b c : GReg)
  | div (t : IntTy) (a b c : GReg)
  | rem (t : IntTy) (a b c : GReg)
  | min (t : IntTy) (a b c : GReg)
  | max (t : IntTy) (a b c : GReg)
  | abs (t : IntTy) (sat : Bool) (a b : GReg)
  | neg (t : IntTy) (sat : Bool) (a b : GReg)
  | lea (a b : GReg) (imm : Word32)
  | sext (w : Wid) (a b : GReg)
  | zext (w : Wid) (a b : GReg)
  | and (a b c : GReg)
  | or (a b c : GReg)
  | xor (a b c : GReg)
  | andn (a b c : GReg)
  | orn (a b c : GReg)
  | shl (w : Wid) (a b c : GReg)
  | shr (w : Wid) (a b c : GReg)
  | sra (w : Wid) (a b c : GReg)
  | rol (w : Wid) (a b c : GReg)
  | shli (w : Wid) (a b : GReg) (imm : Word32)
  | shri (w : Wid) (a b : GReg) (imm : Word32)
  | srai (w : Wid) (a b : GReg) (imm : Word32)
  | bfx (a b : GReg) (pos lenM1 : BitVec 6)
  | bfi (a b : GReg) (pos lenM1 : BitVec 6)
  | clz (w : Wid) (a b : GReg)
  | ffs (w : Wid) (a b : GReg)
  | popc (w : Wid) (a b : GReg)
  | brev (w : Wid) (a b : GReg)
  | bswap (w : Wid) (a b : GReg)
  | cmpeq (t : IntTy) (a b c : GReg)
  | cmpne (t : IntTy) (a b c : GReg)
  | cmplt (t : IntTy) (a b c : GReg)
  | cmple (t : IntTy) (a b c : GReg)
  | sel (a b c d : GReg)
  | movi (a : GReg) (imm : Word32)
  | movhi (a : GReg) (imm : Word32)
  | mov (a b : GReg)
  | movToLc (l : LReg) (b : GReg)
  | movFromLc (a : GReg) (l : LReg)
  | movFromN1 (a : GReg)
  | movToN0 (b : GReg)
  -- threads, tasks and groups (R84 to R109)
  | tid (a : GReg)
  | cyc (a : GReg)
  | cget (a : GReg) (c : CReg)
  | cset (c : CReg) (b : GReg)
  | signal (a : GReg)
  | gang (n : GangSize)
  | join (m : Mcw) (a b : GReg) (off : Off16)
  | leave (m : Mcw) (a : GReg) (off : Off16)
  | arrive (m : Mcw) (a b : GReg) (off : Off16)
  | arriveBytes (m : Mcw) (a b : GReg) (off : Off16) (c : GReg)
  | waitgen (m : Mcw) (a : GReg) (off : Off16) (b : GReg)
  -- memory (R123 to R137)
  | ld (t : IntTy) (m : Mcw) (a b : GReg) (off : Off16)
  | st (t : IntTy) (m : Mcw) (a : GReg) (off : Off16) (b : GReg)
  | stSig (t : IntTy) (m : Mcw) (a : GReg) (off : Off16) (b c : GReg)
  | ldv (m : Mcw) (a : VOp) (b : GReg) (off : Off16)
  | stv (m : Mcw) (a : GReg) (off : Off16) (b : VOp)
  | ldx (t : IntTy) (m : Mcw) (a : VOp) (b : GReg) (off : Off16) (c : VOp)
  | stx (t : IntTy) (m : Mcw) (a : GReg) (off : Off16) (b c : VOp)
  | ldfe (a b : GReg) (off : Off16)
  | stfe (a : GReg) (off : Off16) (b : GReg)
  | ldff (a b : GReg) (off : Off16)
  | stff (a : GReg) (off : Off16) (b : GReg)
  | spillG (ulm : Bool) (a : GReg) (off : Off16) (b : GReg) (cntM1 : BitVec 7)
  | spillV (ulm : Bool) (a : GReg) (off : Off16) (b : BitVec 6) (cntM1 : BitVec 7)
  | fillG (ulm : Bool) (a b : GReg) (off : Off16) (cntM1 : BitVec 7)
  | fillV (ulm : Bool) (a : BitVec 6) (b : GReg) (off : Off16) (cntM1 : BitVec 7)
  | sbind (q : QReg) (b : GReg)
  | sfree (q : QReg)
  | sstatMask (m : MReg) (q : QReg)
  | sstatPosition (a : GReg) (q : QReg)
  -- atomics and fences (R143 to R146)
  | amo (op : AOp) (w64 : Bool) (m : Mcw) (a b : GReg) (off : Off16) (c : GReg)
  | cas (w64 : Bool) (m : Mcw) (a b : GReg) (off : Off16) (c : GReg)
  | amof (op : FOp) (m : Mcw) (a b : GReg) (off : Off16) (c : GReg)
  | fence (s : Scope)
  -- copies (R287 to R296)
  | cpset (f : CpField) (a : GReg)
  | cpgo (a : GReg)
  | cpqf (mask : BitVec 8)
  | cpstat (a b : GReg)
  | cpwait (a : GReg)
  | cpcan (a : GReg)
  -- grids (R274 to R280)
  | gdecl (a : GReg)
  | gld (f : GFmt) (a : VOp) (b c d : GReg)
  | gst (f : GFmt) (a b : GReg) (c : VOp)
  | gstep (a b : GReg)
  | gstat (a b : GReg)
  | gfree (a : GReg)
  -- collectives (R325 to R332)
  | cbegin (a : GReg)
  | csend (a b c : GReg)
  | crecv (a : GReg) (off : Off16) (b c : GReg)
  | crecvSig (a : GReg) (off : Off16) (b c : GReg)
  | crrs (op : CrrsOp) (a : GReg) (off : Off16) (b c : GReg)
  | ccopy (a b c : GReg)
  | cwait (a : GReg)
  | cpeer (a b c : GReg)
  | cend (a : GReg)
  -- system (R345 to R355)
  | trap (imm : BitVec 16)
  | csrr (a : GReg) (num : Word32)
  | csrw (num : Word32) (a : GReg)
  | rdwin (a b : GReg)
  | wrwin (a b : GReg)
  | resume (a : GReg)
  | susp (a : GReg)
  | kill (a : GReg)
  | cfgt (a b : GReg)
  | savec (a : GReg) (off : Off16) (b : GReg)
  | loadc (a : GReg) (off : Off16) (b : GReg)
  -- control (R80 to R83)
  | br (c : Cond) (a b : GReg) (disp : Word32)
  | jmp (disp : Word32)
  | jmpr (a : GReg)
  | call (a : GReg) (disp : Word32)
  | callr (a b : GReg)
  | ret (a : GReg)
  | loop (l : LReg) (disp : Word32)
  -- vector (R187 to R197)
  | vadd (e : VElt) (k : VMask) (a b c : VOp)
  | vsub (e : VElt) (k : VMask) (a b c : VOp)
  | vmul (e : VElt) (k : VMask) (a b c : VOp)
  | vfma (e : VElt) (k : VMask) (a b c : VOp)
  | vfms (e : VElt) (k : VMask) (a b c : VOp)
  | vmin (e : VElt) (k : VMask) (a b c : VOp)
  | vmax (e : VElt) (k : VMask) (a b c : VOp)
  | vabs (e : VElt) (k : VMask) (a b : VOp)
  | vneg (e : VElt) (k : VMask) (a b : VOp)
  | vdiv (md : RMode) (k : VMask) (a b c : VOp)
  | vsqrt (md : RMode) (k : VMask) (a b : VOp)
  | vrcp (md : RMode) (k : VMask) (a b : VOp)
  | vrsq (md : RMode) (k : VMask) (a b : VOp)
  | vexp2 (md : RMode) (k : VMask) (a b : VOp)
  | vlog2 (md : RMode) (k : VMask) (a b : VOp)
  | vsin (md : RMode) (k : VMask) (a b : VOp)
  | vcos (md : RMode) (k : VMask) (a b : VOp)
  | vand (k : VMask) (a b c : VOp)
  | vor (k : VMask) (a b c : VOp)
  | vxor (k : VMask) (a b c : VOp)
  | vshl (w : IWid) (k : VMask) (a b c : VOp)
  | vshr (w : IWid) (k : VMask) (a b c : VOp)
  | vsra (w : IWid) (k : VMask) (a b c : VOp)
  | vclz (w : IWid) (u : Bool) (k : VMask) (a b : VOp)
  | vffs (w : IWid) (u : Bool) (k : VMask) (a b : VOp)
  | vpopc (w : IWid) (u : Bool) (k : VMask) (a b : VOp)
  | vcmp (c : VCond) (t : VCmpTy) (m : MReg) (a b : VOp)
  | vsel (m : MReg) (a b c : VOp)
  | vmov (k : VMask) (a b : VOp)
  | vbcast (k : VMask) (a : VOp) (b : GReg)
  | vins (k : VMask) (a : VOp) (b c : GReg)
  | vext (a : GReg) (b : VOp) (c : GReg)
  | vperm (k : VMask) (a b c : VOp)
  | vrot (k : VMask) (a b : VOp) (c : GReg)
  | viota (k : VMask) (a : VOp)
  | vred (op : RedOp) (e : VElt) (k : VMask) (a b : VOp)
  | vscan (op : RedOp) (e : VElt) (k : VMask) (a b : VOp)
  | vcvt (op : CvtOp) (k : VMask) (a b : VOp)
  | vpack (w : PkW) (k : VMask) (a b c : VOp)
  | vunpk (w : PkW) (u : Bool) (k : VMask) (a b : VOp)
  | vdec (f : Ab) (k : VMask) (a b : VOp)
  | venc (f : Ab) (sat : Bool) (k : VMask) (a b : VOp)
  | dtld (tab : Ab) (a : GReg) (off : Off16)
  | mand (a b c : MReg)
  | mor (a b c : MReg)
  | mxor (a b c : MReg)
  | mnot (a b : MReg)
  | mpop (a : GReg) (b : MReg)
  | mfirst (a : GReg) (b : MReg)
  -- matrix and tiles (R208 to R242)
  | mmaStream (a b : GReg) (q : BitVec 2) (d : GReg)
  | mmaAb (a b c d : GReg)
  | mmasK16Stream (a b : GReg) (q : BitVec 2) (d e : GReg)
  | mmasK16Ab (a b c d e : GReg)
  | mmasK8Stream (a b : GReg) (q : BitVec 2) (d e : GReg)
  | mmasK8Ab (a b c d e : GReg)
  | bld (a : GReg)
  | swapt (a b : GReg)
  | ldt (a : BitVec 6) (b : GReg)
  | mcmd (a b c : GReg)
  | talloc (int34 : Bool) (a b : GReg)
  | tcont (a b : GReg) (c : BitVec 6) (d : GReg)
  | tstat (a b : GReg)
  | tread (fmt : BitVec 4) (sat wrap : Bool) (a : GReg) (off : Off16) (b : GReg)
  | twait (a : GReg)
  | taban (a : GReg)
  | tpeek (a : BitVec 6) (b : GReg)
  | tfree (a : GReg)
  -- means (R253 to R263)
  | qshape (imm : BitVec 16)
  | qtld (n : BitVec 2) (a : GReg) (off : Off16)
  | qclr (k : VMask) (a : BitVec 6)
  | qacc (q : Bool) (k : VMask) (a : BitVec 6) (b : VOp)
  | qmerge (k : VMask) (a b : BitVec 6)
  | qred (k : VMask) (a : BitVec 6)
  | qfin (q : Bool) (k : VMask) (a : BitVec 6) (b : VOp)
  -- rows added at the end of the table
  | unassignedOpcode (opc : BitVec 9) (sub : BitVec 4)
  | portSpareReplacement (port spare : Nat)
  | debugAccess (target : DebugTarget) (write : Option Word)
  | evictionRequestReceived (source : EvictRequest)
  | packageAbsentAcknowledge (position : Nat)
  | positionBroughtUp (position : Nat)
  -- rows without operands of their own: events at State.subj, and operations without operands
  | powerOn
  | lossOfMainPower
  | lineFetchComplete
  | resultReady
  | loadReply
  | portAcceptance
  | bankAcknowledgement
  | routeAcknowledgement
  | receiptArrival
  | atomicEngineTake
  | waitgenRepresent
  | graphWalkerReceive
  | copyNodeLaunch
  | pipeStageRelease
  | dispenserPlacement
  | taskStart
  | collectiveOccupancyUpdate
  | followerBundle
  | channelSlotPublish
  | streamVectorFetch
  | pageWalkComplete
  | tlbInvalidationComplete
  | stewynIngressAccept
  | rekeyStart
  | portStop
  | keyExchangeComplete
  | migArrival
  | migQueuePlacement
  | migReturn
  | guestReturnHome
  | recall
  | matrixQueueEntry
  | latchArrival
  | mcmdArrival
  | contributionExamine
  | tileAdditionsLand
  | swaptPairComplete
  | decodeTableReplace
  | meanPairReplace
  | copyOperationStart
  | copyCompletion
  | userInterruptTake
  | stripArrival
  | haloTimeout
  | messageSend
  | messageArrival
  | deliveryAcknowledgement
  | creditReturn
  | rawMessageArrival
  | faultMessageDelivery
  | meridianSend
  | qcmdEnable
  | qcmdDisable
  | activate
  | preempt
  | restore
  | destroy
  | invalidate
  | queuePairEnable
  | queuePairDisable
  | sendRingPoll
  | hartTakeSlot
  | nodeRetire
  | managerMap
  | queueAging
  | watchReread
  | imemUeRecovery
  | firmwareHalt
  | dieIdleEntry
  | dieWake
  | getstate
  | provision
  | setpowerRetention
  | setpowerActive
  | setpowerOff
  | debugchal
  | idread
  | pldmMonitor
  | evstat
  | clearEv
  | neighbourAccept
  | neighbourRefuse
  | drainingDone
  | moveConfirmation
  | routesDrained
  | evictionTimeout
  | evictionLinkFailure
  | windowRegisterWrite
  | wfw
  | doneOp
  | yield
  | disband
  | uiret
  | home
  | isync
  | nop
  | brot
  | packageReset
  | atomicResponse
  | rdmaNakArrival
  | debugHalt
  | slotUncorrectableError
  deriving DecidableEq, Repr

end Sys2Proof
end

