-- ==== Sys2Proof/WellFormed.lean ====
section
/-! DEFINITION. Which operations are well formed: the operand limits of R52, the memory control word limits of R55,
the vector control word limits of R57 and R188, and the immediate limits of R58 and R59, as far as they are not already
carried by the types. An operation that is not well formed faults with ILLEGAL (TAILFIELD) when its bundle issues. -/

namespace Sys2Proof

namespace VOp
/-- A v-kind source: a window register or q0 to q3 (R52). -/
def srcOk : VOp → Bool
  | .v _ => true
  | .q i => decide (i.toNat < 4)
/-- A v-kind destination: a window register or q4 to q7 (R52). -/
def dstOk : VOp → Bool
  | .v _ => true
  | .q i => decide (4 ≤ i.toNat)
/-- A field both read and written takes no stream register (R52). -/
def rwOk : VOp → Bool
  | .v _ => true
  | .q _ => false
end VOp

namespace Order
def isPlain : Order → Bool
  | .plain => true
  | _ => false
def isAcq : Order → Bool
  | .acq _ => true
  | _ => false
def isRel : Order → Bool
  | .rel _ => true
  | _ => false
end Order

namespace Space
def scalar : Space → Bool
  | .dm | .ulm => true
  | .wb | .ab => false
def isDm : Space → Bool
  | .dm => true
  | _ => false
end Space

namespace Mcw
/-- The constraints common to all forms: KIND, OR and the SP they need; RX needs a plain access (R55). -/
def common (m : Mcw) : Bool :=
  (m.sp.isDm || (m.order.isPlain && !m.ord)) && (!m.rx || m.order.isPlain)
def ldOk (m : Mcw) : Bool :=
  m.common && m.sp.scalar && (m.order.isPlain || m.order.isAcq) && !m.ord
def stOk (m : Mcw) : Bool :=
  m.common && m.sp.scalar && !m.order.isAcq
def stSigOk (m : Mcw) : Bool :=
  m.common && m.sp.isDm && !m.order.isAcq && !m.rx
def ldvOk (m : Mcw) : Bool :=
  m.common && (m.order.isPlain || m.order.isAcq) && !m.ord
def stvOk (m : Mcw) : Bool :=
  m.common && !m.order.isAcq
def gatherOk (m : Mcw) : Bool :=
  m.common && m.sp.scalar && m.order.isPlain && !m.ord
def amoOk (m : Mcw) : Bool :=
  m.common && m.sp.scalar && (m.order.isPlain || m.order.isAcq || m.order.isRel) && !m.rx && !m.ord
def conjOk (m : Mcw) : Bool :=
  m.sp.scalar && m.order.isPlain && !m.rx && !m.ord
end Mcw

def IntTy.width : IntTy → Nat
  | .i8 | .n8 => 8
  | .i16 | .n16 => 16
  | .i32 | .n32 => 32
  | .i64 | .n64 => 64

def Wid.bits : Wid → Nat
  | .w8 => 8
  | .w16 => 16
  | .w32 => 32
  | .w64 => 64

def IWid.bits : IWid → Nat
  | .b8 => 8
  | .b16 => 16
  | .b32 => 32

namespace VElt
def noSat : VElt → Bool
  | .flt _ _ => true
  | .int _ _ sat => !sat
end VElt

/-- The register numbers of R347. -/
def csrNumbers : List Nat :=
  [0x000, 0x001, 0x002, 0x010, 0x011, 0x012, 0x013, 0x014, 0x015, 0x020, 0x021, 0x022, 0x030, 0x031, 0x032, 0x033,
    0x040, 0x041, 0x042, 0x043, 0x044, 0x045, 0x046, 0x047, 0x048, 0x049]

/-- Reads of VLOGS have a row of their own. -/
def csrReadNumbers : List Nat := csrNumbers.filter fun n => !(n == 0x049)

/-- Writes of TSTATE, FRING and FRRD have rows of their own. -/
def csrWriteNumbers : List Nat := csrNumbers.filter fun n => !(n == 0x002 || n == 0x046 || n == 0x047)

def group8 (a : BitVec 6) : Bool := decide (a.toNat % 8 = 0)

def vvv (a b c : VOp) : Bool := a.dstOk && b.srcOk && c.srcOk
def vv (a b : VOp) : Bool := a.dstOk && b.srcOk

namespace Instr

/-- Well-formedness of an instruction as syntax. Events have no operands that could be ill formed. The source of QFIN may be q0 to q3, as any
source that admits v registers (R35; DESIGN CHOICE, log entry 118). -/
def wf : Instr → Bool
  | .shli w _ _ imm | .shri w _ _ imm | .srai w _ _ imm => decide (imm.toNat < w.bits)
  | .bfx _ _ pos l | .bfi _ _ pos l => decide (pos.toNat + l.toNat + 1 ≤ 64)
  | .join m _ _ _ | .leave m _ _ | .arrive m _ _ _ | .arriveBytes m _ _ _ _ | .waitgen m _ _ _ => m.conjOk
  | .ld _ m _ _ _ => m.ldOk
  | .st _ m _ _ _ => m.stOk
  | .stSig _ m _ _ _ _ => m.stSigOk
  | .ldv m a _ _ => m.ldvOk && a.dstOk
  | .stv m _ _ b => m.stvOk && b.srcOk
  | .ldx t m a _ _ c => m.gatherOk && a.dstOk && c.srcOk && decide (t.width < 64)
  | .stx t m _ _ b c => m.gatherOk && b.srcOk && c.srcOk && decide (t.width < 64)
  | .spillV _ _ _ _ n | .fillV _ _ _ _ n => decide (n.toNat < 64)
  | .amo _ _ m _ _ _ _ | .cas _ m _ _ _ _ | .amof _ m _ _ _ _ => m.amoOk
  | .cpqf mask => decide (mask.toNat ≠ 0)
  | .gld _ a _ _ _ => a.dstOk
  | .gst _ _ _ c => c.srcOk
  | .csrr _ n => csrReadNumbers.contains n.toNat
  | .csrw n _ => csrWriteNumbers.contains n.toNat
  | .vadd _ _ a b c | .vsub _ _ a b c | .vmul _ _ a b c => vvv a b c
  | .vfma _ _ a b c | .vfms _ _ a b c => a.rwOk && b.srcOk && c.srcOk
  | .vmin e _ a b c | .vmax e _ a b c => vvv a b c && e.noSat
  | .vabs _ _ a b | .vneg _ _ a b => vv a b
  | .vdiv _ _ a b c => vvv a b c
  | .vsqrt _ _ a b | .vrcp _ _ a b | .vrsq _ _ a b | .vexp2 _ _ a b | .vlog2 _ _ a b | .vsin _ _ a b
  | .vcos _ _ a b => vv a b
  | .vand _ a b c | .vor _ a b c | .vxor _ a b c => vvv a b c
  | .vshl _ _ a b c | .vshr _ _ a b c | .vsra _ _ a b c => vvv a b c
  | .vclz _ _ _ a b | .vffs _ _ _ a b | .vpopc _ _ _ a b => vv a b
  | .vcmp _ _ _ a b => a.srcOk && b.srcOk
  | .vsel _ a b c => vvv a b c
  | .vmov _ a b => vv a b
  | .vbcast _ a _ => a.dstOk
  | .vins _ a _ _ => a.rwOk
  | .vext _ b _ => b.srcOk
  | .vperm _ a b c => vvv a b c
  | .vrot _ a b _ => vv a b
  | .viota _ a => a.dstOk
  | .vred op e _ a b | .vscan op e _ a b => vv a b && (e.noSat || decide (op = .add))
  | .vcvt _ _ a b => vv a b
  | .vpack _ _ a b c => vvv a b c
  | .vunpk _ _ _ a b => vv a b
  | .vdec _ _ a b | .venc _ _ _ a b => vv a b
  | .ldt a _ | .tpeek a _ => group8 a
  | .tcont _ _ c _ => group8 c
  | .tread f sat wrap _ _ _ =>
    (!wrap || decide (f.toNat = 15)) && (!sat || decide (f.toNat < 14))
  | .qacc _ _ _ b => b.srcOk
  | .qfin _ _ _ b => b.srcOk
  | _ => true

/-- The instruction is an operation of a bundle (R58, R59), not an event and not a queue hart's instruction. -/
def isEvent : Instr → Bool
  | .add .. | .sub .. | .addi .. | .mul .. | .mulh .. | .div .. | .rem .. | .min .. | .max .. | .abs .. | .neg ..
  | .lea .. | .sext .. | .zext .. | .and .. | .or .. | .xor .. | .andn .. | .orn .. | .shl .. | .shr .. | .sra ..
  | .rol .. | .shli .. | .shri .. | .srai .. | .bfx .. | .bfi .. | .clz .. | .ffs .. | .popc .. | .brev .. | .bswap ..
  | .cmpeq .. | .cmpne .. | .cmplt .. | .cmple .. | .sel .. | .movi .. | .movhi .. | .mov .. | .movToLc ..
  | .movFromLc .. | .movFromN1 .. | .movToN0 .. | .tid .. | .cyc .. | .cget .. | .cset .. | .wfw | .doneOp | .yield
  | .signal .. | .gang .. | .disband | .join .. | .leave .. | .arrive .. | .arriveBytes .. | .waitgen .. | .ld ..
  | .st .. | .stSig .. | .ldv .. | .stv .. | .ldx .. | .stx .. | .ldfe .. | .stfe .. | .ldff .. | .stff .. | .spillG ..
  | .spillV .. | .fillG .. | .fillV .. | .sbind .. | .sfree .. | .sstatMask .. | .sstatPosition .. | .amo .. | .cas ..
  | .amof .. | .fence .. | .cpset .. | .cpgo .. | .cpqf .. | .cpstat .. | .cpwait .. | .cpcan .. | .uiret | .gdecl ..
  | .gld .. | .gst .. | .gstep .. | .gstat .. | .gfree .. | .cbegin .. | .csend .. | .crecv .. | .crecvSig .. | .crrs ..
  | .ccopy .. | .cwait .. | .cpeer .. | .cend .. | .home | .trap .. | .csrr .. | .csrw .. | .csrwFring .. | .csrwFrrd ..
  | .csrwTstate .. | .vlogsRead .. | .rdwin .. | .wrwin .. | .resume .. | .susp .. | .kill .. | .cfgt .. | .savec ..
  | .loadc .. | .br .. | .jmp .. | .jmpr .. | .call .. | .callr .. | .ret .. | .loop .. | .isync | .nop
  | .vadd .. | .vsub .. | .vmul .. | .vfma .. | .vfms .. | .vmin .. | .vmax .. | .vabs .. | .vneg .. | .vdiv ..
  | .vsqrt .. | .vrcp .. | .vrsq .. | .vexp2 .. | .vlog2 .. | .vsin .. | .vcos .. | .vand .. | .vor .. | .vxor ..
  | .vshl .. | .vshr .. | .vsra .. | .vclz .. | .vffs .. | .vpopc .. | .vcmp .. | .vsel .. | .vmov .. | .vbcast ..
  | .vins .. | .vext .. | .vperm .. | .vrot .. | .viota .. | .vred .. | .vscan .. | .vcvt .. | .vpack .. | .vunpk ..
  | .vdec .. | .venc .. | .dtld .. | .mand .. | .mor .. | .mxor .. | .mnot .. | .mpop .. | .mfirst .. | .mmaStream ..
  | .mmaAb .. | .mmasK16Stream .. | .mmasK16Ab .. | .mmasK8Stream .. | .mmasK8Ab .. | .bld .. | .brot | .swapt ..
  | .ldt .. | .mcmd .. | .talloc .. | .tcont .. | .tstat .. | .tread .. | .twait .. | .taban .. | .tpeek .. | .tfree ..
  | .qshape .. | .qtld .. | .qclr .. | .qacc .. | .qmerge .. | .qred .. | .qfin .. | .unassignedOpcode .. => false
  | _ => true

end Instr

end Sys2Proof
end

