-- ==== Sys2Proof/Decode.lean ====
section
/-! DEFINITION. The decoder and the encoder of bundle operations (R31 to R35, R49 to R60), of the queue harts' words
(R373), and the reading of a table word. A head's OPC, SUB and TL and its tail, as numbers, give an instruction or the
check of R38 that fails. -/

namespace Sys2Proof

/-- The decoding checks 1 to 3 of R38. -/
inductive DecErr where
  | opcode
  | subcode
  | tailfield
  deriving DecidableEq, Repr

namespace Dec

/-! Fields of the tail layouts (R33, R51). -/

def wa (t : Nat) : Nat := t / 0x2000000 % 128
def wb (t : Nat) : Nat := t / 0x40000 % 128
def wc (t : Nat) : Nat := t / 0x800 % 128
def we (t : Nat) : Nat := t % 0x800
def xa (t : Nat) : Nat := t / 0x20000000000 % 128
def xb (t : Nat) : Nat := t / 0x400000000 % 128
def xc (t : Nat) : Nat := t / 0x8000000 % 128
def xoff (t : Nat) : Nat := t / 0x800 % 0x10000
def xlow (t : Nat) : Nat := t % 0x800
def xd (t : Nat) : Nat := t / 0x100000 % 128
def xf (t : Nat) : Nat := t / 0x2000 % 128
def ximm (t : Nat) : Nat := t / 4 % 0x100000000
def e2 (t : Nat) : Nat := t % 4
def ha (t : Nat) : Nat := t / 0x200 % 128
def hb (t : Nat) : Nat := t / 4 % 128

/-! Register kinds (R35). -/

def g (n : Nat) : GReg := BitVec.ofNat 7 n
def vk (n : Nat) : Option VOp :=
  if n < 64 then some (.v (BitVec.ofNat 6 n)) else if n < 72 then some (.q (BitVec.ofNat 3 (n - 64))) else none
def vr (n : Nat) : Option (BitVec 6) := if n < 64 then some (BitVec.ofNat 6 n) else none
def mk (n : Nat) : Option MReg := if n < 8 then some (BitVec.ofNat 3 n) else none
def ck (n : Nat) : Option CReg := if n < 32 then some (BitVec.ofNat 5 n) else none
def lk (n : Nat) : Option LReg := if n < 2 then some (BitVec.ofNat 1 n) else none
def qk (n : Nat) : Option QReg := if 64 ≤ n ∧ n < 72 then some (BitVec.ofNat 3 (n - 64)) else none
def qin (n : Nat) : Option (BitVec 2) := if 64 ≤ n ∧ n < 68 then some (BitVec.ofNat 2 (n - 64)) else none
def nk (n want : Nat) : Option Unit := if n = want then some () else none

/-! SUB schemes (R53). -/

def int (s : Nat) : Option IntTy :=
  match s with
  | 0 => some .i8 | 1 => some .i16 | 2 => some .i32 | 3 => some .i64
  | 4 => some .n8 | 5 => some .n16 | 6 => some .n32 | 7 => some .n64
  | _ => none
/-- Scheme INT of LDX and STX: 3 and 7 are reserved (R127). -/
def intX (s : Nat) : Option IntTy := if s = 3 ∨ s = 7 then none else int s
def wid (s : Nat) : Option Wid :=
  match s with
  | 0 => some .w8 | 1 => some .w16 | 2 => some .w32 | 3 => some .w64
  | _ => none
def iwid (s : Nat) : Option IWid :=
  match s with
  | 0 => some .b8 | 1 => some .b16 | 2 => some .b32
  | _ => none
def rmode (n : Nat) : RMode :=
  match n % 4 with
  | 0 => .rne | 1 => .rtz | 2 => .rdn | _ => .rup
/-- Scheme FV: a float type with its mode, or integer. -/
def fv (s : Nat) : Option (Option (FTy × RMode)) :=
  match s / 4 with
  | 0 => some (some (.f32, rmode s))
  | 1 => some (some (.f16, rmode s))
  | 2 => some (some (.bf16, rmode s))
  | 3 => if s % 4 = 0 then some none else none
  | _ => none
def cond (s : Nat) : Option Cond :=
  match s with
  | 0 => some .eq | 1 => some .ne | 2 => some .lt | 3 => some .le | 4 => some .gt | 5 => some .ge
  | 6 => some .lo | 7 => some .ls | 8 => some .hi | 9 => some .hs
  | _ => none
def scope (s : Nat) : Option Scope :=
  match s with
  | 0 => some .core | 1 => some .die | 2 => some .pkg | 3 => some .sys
  | _ => none
def aop (s : Nat) : Option AOp :=
  match s with
  | 0 => some .add | 1 => some .and | 2 => some .or | 3 => some .xor | 4 => some .minS | 5 => some .maxS
  | 6 => some .minU | 7 => some .maxU | 8 => some .swap
  | _ => none
def fop (s : Nat) : Option FOp :=
  match s with
  | 0 => some .add | 1 => some .min | 2 => some .max
  | _ => none
def cpf (s : Nat) : Option CpField :=
  match s with
  | 0 => some .from | 1 => some .to | 2 => some .len | 3 => some .len1 | 4 => some .len2 | 5 => some .str1
  | 6 => some .str2 | 7 => some .str3 | 8 => some .qsel | 9 => some .act | 10 => some .arg
  | _ => none
def gt (s : Nat) : Option GFmt :=
  match s with
  | 0 => some .f32 | 1 => some .bf16 | 2 => some .f16 | 3 => some .i32
  | _ => none
def gangSize (s : Nat) : Option GangSize :=
  match s with
  | 1 => some .two | 2 => some .four | 3 => some .eight
  | _ => none
def zero (s : Nat) : Option Unit := if s = 0 then some () else none
def upTo (n s : Nat) : Option Nat := if s < n then some s else none
def ab (s : Nat) : Option Ab :=
  match s with
  | 0 => some .a | 1 => some .b
  | _ => none
def pkw (s : Nat) : Option PkW :=
  match s with
  | 0 => some .w16 | 1 => some .w8
  | _ => none
/-- SUB of VCMP: T 0 or 3 with [1:0] = 0; true for integer (R188). -/
def vcmpT (s : Nat) : Option Bool :=
  match s with
  | 0 => some false | 12 => some true
  | _ => none
def fv32 (s : Nat) : Option RMode := if s < 4 then some (rmode s) else none

/-! The memory control word (R54). -/

def spaceOf (n : Nat) : Space :=
  match n % 4 with
  | 0 => .dm | 1 => .ulm | 2 => .wb | _ => .ab
def scopeOf (n : Nat) : Scope :=
  match n % 4 with
  | 0 => .core | 1 => .die | 2 => .pkg | _ => .sys
/-- KIND with SCOPE, which must be 0 unless KIND is 1 or 2. -/
def orderOf (kind sc : Nat) : Option Order :=
  match kind % 4 with
  | 0 => if sc = 0 then some .plain else none
  | 1 => some (.acq (scopeOf sc))
  | 2 => some (.rel (scopeOf sc))
  | _ => if sc = 0 then some .sc else none
/-- MCW with the values of SG and AW that the form requires. -/
def mcw (sg aw e : Nat) : Option Mcw :=
  if e / 2 % 2 = 0 ∧ e / 4 % 2 = sg ∧ e % 2 = aw then
    (orderOf (e / 128 % 4) (e / 32 % 4)).map fun o => ⟨spaceOf (e / 512 % 4), o, e / 16 % 2 == 1, e / 8 % 2 == 1⟩
  else none

/-! The vector control word (R56). -/

def vmask (e : Nat) : Option VMask :=
  if e / 8 % 2 = 1 then some (some (BitVec.ofNat 3 (e % 8))) else if e % 8 = 0 then some none else none
/-- Only MK and MR. -/
def vcwM (e : Nat) : Option VMask := if e / 16 = 0 then vmask e else none
/-- Element type, AUX and mask, with Q = 0. -/
def vcwE (f : Option (FTy × RMode)) (e : Nat) : Option (VElt × Nat × VMask) :=
  if e / 64 % 2 = 0 then
    match f with
    | some (t, md) => if e / 128 = 0 then (vmask e).map fun k => (.flt t md, e / 16 % 4, k) else none
    | none =>
      match iwid (e / 512 % 4), vmask e with
      | some w, some k => some (.int w (e / 256 % 2 == 1) (e / 128 % 2 == 1), e / 16 % 4, k)
      | _, _ => none
  else none
def vcwE0 (f : Option (FTy × RMode)) (e : Nat) : Option (VElt × VMask) :=
  match vcwE f e with
  | some (t, 0, k) => some (t, k)
  | _ => none
/-- U and the mask. -/
def vcwU (e : Nat) : Option (Bool × VMask) :=
  if e / 512 = 0 ∧ e / 16 % 16 = 0 then (vmask e).map fun k => (e / 256 % 2 == 1, k) else none
/-- SAT and the mask. -/
def vcwS (e : Nat) : Option (Bool × VMask) :=
  if e / 256 = 0 ∧ e / 16 % 8 = 0 then (vmask e).map fun k => (e / 128 % 2 == 1, k) else none
/-- Q and the mask. -/
def vcwQ (e : Nat) : Option (Bool × VMask) :=
  if e / 128 = 0 ∧ e / 16 % 4 = 0 then (vmask e).map fun k => (e / 64 % 2 == 1, k) else none
def redOp (n : Nat) : Option RedOp :=
  match n with
  | 0 => some .add | 1 => some .min | 2 => some .max
  | _ => none

def cvt (s e : Nat) : Option (CvtOp × VMask) :=
  if e / 256 = 0 ∧ e / 64 % 2 = 0 then
    let md := rmode (e / 16)
    let sat := e / 128 % 2 == 1
    let plain := decide (e / 16 % 4 = 0) && !sat
    (vmask e).bind fun k =>
      match s with
      | 0 => if plain then some (.f32_i32, k) else none
      | 1 => some (.i32_f32 md sat, k)
      | 2 => if plain then some (.f32_n32, k) else none
      | 3 => some (.n32_f32 md sat, k)
      | 4 => if sat then none else some (.f16_f32 md, k)
      | 5 => if sat then none else some (.bf16_f32 md, k)
      | 6 => if plain then some (.f32_f16, k) else none
      | 7 => if plain then some (.f32_bf16, k) else none
      | _ => none
  else none

/-! Building a result: the SUB check, then the layout, then the fields and the limits of WellFormed. -/

def fin (want tl : Nat) (r : Option Instr) : Except DecErr Instr :=
  if tl = want then
    match r with
    | some i => if i.wf then .ok i else .error .tailfield
    | none => .error .tailfield
  else .error .tailfield

def row {α : Type} (s : Option α) (want tl : Nat) (k : α → Option Instr) : Except DecErr Instr :=
  match s with
  | none => .error .subcode
  | some x => fin want tl (k x)

def chk (c : Bool) (i : Instr) : Option Instr := if c then some i else none

/-! Forms by layout. -/

def none0 (s tl : Nat) (i : Instr) := row (zero s) 0 tl fun _ => some i
def hrGG (s tl t : Nat) (k : GReg → GReg → Instr) :=
  row (zero s) 1 tl fun _ => chk (e2 t == 0) (k (g (ha t)) (g (hb t)))
def hrG (s tl t : Nat) (k : GReg → Instr) :=
  row (zero s) 1 tl fun _ => chk (e2 t == 0 && hb t == 0) (k (g (ha t)))
def hrWid (s tl t : Nat) (k : Wid → GReg → GReg → Instr) :=
  row (wid s) 1 tl fun w => chk (e2 t == 0) (k w (g (ha t)) (g (hb t)))
def hrIntSat (s tl t : Nat) (k : IntTy → Bool → GReg → GReg → Instr) :=
  row (int s) 1 tl fun w => chk (e2 t < 2) (k w (e2 t == 1) (g (ha t)) (g (hb t)))
def wGGG (s tl t : Nat) (k : GReg → GReg → GReg → Instr) :=
  row (zero s) 2 tl fun _ => chk (we t == 0) (k (g (wa t)) (g (wb t)) (g (wc t)))
def wInt (s tl t : Nat) (k : IntTy → GReg → GReg → GReg → Instr) :=
  row (int s) 2 tl fun w => chk (we t == 0) (k w (g (wa t)) (g (wb t)) (g (wc t)))
def wIntSat (s tl t : Nat) (k : IntTy → Bool → GReg → GReg → GReg → Instr) :=
  row (int s) 2 tl fun w => chk (we t < 2) (k w (we t == 1) (g (wa t)) (g (wb t)) (g (wc t)))
def wWid (s tl t : Nat) (k : Wid → GReg → GReg → GReg → Instr) :=
  row (wid s) 2 tl fun w => chk (we t == 0) (k w (g (wa t)) (g (wb t)) (g (wc t)))
def xiGG (s tl t : Nat) (k : GReg → GReg → Word32 → Instr) :=
  row (zero s) 3 tl fun _ => chk (e2 t == 0) (k (g (xa t)) (g (xb t)) (BitVec.ofNat 32 (ximm t)))
def xiWid (s tl t : Nat) (k : Wid → GReg → GReg → Word32 → Instr) :=
  row (wid s) 3 tl fun w => chk (e2 t == 0) (k w (g (xa t)) (g (xb t)) (BitVec.ofNat 32 (ximm t)))
def xiG (s tl t : Nat) (k : GReg → Word32 → Instr) :=
  row (zero s) 3 tl fun _ => chk (e2 t == 0 && xb t == 0) (k (g (xa t)) (BitVec.ofNat 32 (ximm t)))
/-- X.r with OFF16 and nothing in e27[10:0]; fc as given. -/
def xrOff (s tl t : Nat) (k : GReg → GReg → GReg → Off16 → Option Instr) :=
  row (zero s) 3 tl fun _ =>
    if xlow t = 0 then k (g (xa t)) (g (xb t)) (g (xc t)) (BitVec.ofNat 16 (xoff t)) else none
def xrOff2 (s tl t : Nat) (k : GReg → GReg → Off16 → Instr) :=
  row (zero s) 3 tl fun _ =>
    chk (xlow t == 0 && xc t == 0) (k (g (xa t)) (g (xb t)) (BitVec.ofNat 16 (xoff t)))
/-- V-side W forms with an element type. -/
def vE3 (s tl t : Nat) (k : VElt → VMask → VOp → VOp → VOp → Instr) :=
  row (fv s) 2 tl fun f =>
    match vcwE0 f (we t), vk (wa t), vk (wb t), vk (wc t) with
    | some (e, m), some a, some b, some c => some (k e m a b c)
    | _, _, _, _ => none
def vE2 (s tl t : Nat) (k : VElt → VMask → VOp → VOp → Instr) :=
  row (fv s) 2 tl fun f =>
    match vcwE0 f (we t), vk (wa t), vk (wb t) with
    | some (e, m), some a, some b => chk (wc t == 0) (k e m a b)
    | _, _, _ => none
def vR2 (s tl t : Nat) (k : RedOp → VElt → VMask → VOp → VOp → Instr) :=
  row (fv s) 2 tl fun f =>
    match vcwE f (we t), vk (wa t), vk (wb t) with
    | some (e, x, m), some a, some b =>
      match redOp x with
      | some o => chk (wc t == 0) (k o e m a b)
      | none => none
    | _, _, _ => none
def vF2 (s tl t : Nat) (k : RMode → VMask → VOp → VOp → Instr) :=
  row (fv32 s) 2 tl fun md =>
    match vcwM (we t), vk (wa t), vk (wb t) with
    | some m, some a, some b => chk (wc t == 0) (k md m a b)
    | _, _, _ => none
def vZ3 (s tl t : Nat) (k : VMask → VOp → VOp → VOp → Instr) :=
  row (zero s) 2 tl fun _ =>
    match vcwM (we t), vk (wa t), vk (wb t), vk (wc t) with
    | some m, some a, some b, some c => some (k m a b c)
    | _, _, _, _ => none
def vW3 (s tl t : Nat) (k : IWid → VMask → VOp → VOp → VOp → Instr) :=
  row (iwid s) 2 tl fun w =>
    match vcwM (we t), vk (wa t), vk (wb t), vk (wc t) with
    | some m, some a, some b, some c => some (k w m a b c)
    | _, _, _, _ => none
def vW2 (s tl t : Nat) (k : IWid → Bool → VMask → VOp → VOp → Instr) :=
  row (iwid s) 2 tl fun w =>
    match vcwU (we t), vk (wa t), vk (wb t) with
    | some (u, m), some a, some b => chk (wc t == 0) (k w u m a b)
    | _, _, _ => none
def mMMM (s tl t : Nat) (k : MReg → MReg → MReg → Instr) :=
  row (zero s) 2 tl fun _ =>
    match mk (wa t), mk (wb t), mk (wc t) with
    | some a, some b, some c => chk (we t == 0) (k a b c)
    | _, _, _ => none
def hrMM (s tl t : Nat) (k : MReg → MReg → Instr) :=
  row (zero s) 1 tl fun _ =>
    match mk (ha t), mk (hb t) with
    | some a, some b => chk (e2 t == 0) (k a b)
    | _, _ => none
def hrGM (s tl t : Nat) (k : GReg → MReg → Instr) :=
  row (zero s) 1 tl fun _ =>
    match mk (hb t) with
    | some b => chk (e2 t == 0) (k (g (ha t)) b)
    | none => none

def vcond (n : Nat) : VCond :=
  match n % 4 with
  | 0 => .eq | 1 => .ne | 2 => .lt | _ => .le

/-- VCMP: the type from T and U, the condition from AUX; no mask (R57, R188, R193). -/
def vcmpOf (int : Bool) (t : Nat) : Option Instr :=
  let e := we t
  match mk (wa t), vk (wb t), vk (wc t) with
  | some m, some a, some b =>
    if e % 16 = 0 ∧ e / 64 % 4 = 0 then
      if int then
        if e / 512 = 2 then some (.vcmp (vcond (e / 16)) (if e / 256 % 2 = 1 then .n32 else .i32) m a b) else none
      else if e / 256 = 0 then some (.vcmp (vcond (e / 16)) .f32 m a b) else none
    else none
  | _, _, _ => none

/-- MOV by SUB (R79). -/
def movOf (s tl t : Nat) : Except DecErr Instr :=
  row (upTo 5 s) 1 tl fun s =>
    if e2 t = 0 then
      match s with
      | 0 => some (.mov (g (ha t)) (g (hb t)))
      | 1 => (lk (ha t)).map fun l => .movToLc l (g (hb t))
      | 2 => (lk (hb t)).map fun l => .movFromLc (g (ha t)) l
      | 3 => (nk (hb t) 1).map fun _ => .movFromN1 (g (ha t))
      | _ => (nk (ha t) 0).map fun _ => .movToN0 (g (hb t))
    else none

def ccFt (n : Nat) : Option CrFt :=
  match n with
  | 0 => some .f32 | 1 => some .f16 | 2 => some .bf16 | 3 => some .i32
  | _ => none

def crrsOf (s t : Nat) : Option CrrsOp :=
  let ft := xlow t / 256
  if xlow t % 256 = 0 then
    match s with
    | 0 => (ccFt ft).map (CrrsOp.arith .add)
    | 1 => (ccFt ft).map (CrrsOp.arith .max)
    | 2 => (ccFt ft).map (CrrsOp.arith .min)
    | _ => if ft = 0 then some .qm else none
  else none

/-- SPILL and FILL: e27[10:9] SP, e27[8:2] CNT - 1, e27[1:0] = 0. -/
def spCtl (t : Nat) : Option (Bool × BitVec 7) :=
  let e := xlow t
  if e % 4 = 0 ∧ e / 512 < 2 then some (e / 512 == 1, BitVec.ofNat 7 (e / 4 % 128)) else none

/-- CSRR and CSRW: some numbers have rows of their own. -/
def csrwOf (a : GReg) (n : Nat) : Instr :=
  if n = 0x002 then .csrwTstate a
  else if n = 0x046 then .csrwFring a
  else if n = 0x047 then .csrwFrrd a
  else .csrw (BitVec.ofNat 32 n) a
def csrrOf (a : GReg) (n : Nat) : Instr :=
  if n = 0x049 then .vlogsRead a else .csrr a (BitVec.ofNat 32 n)

/-- I-side opcodes 0x010 to 0x042 (R58). -/
def decInt (opc s tl t : Nat) : Except DecErr Instr :=
  match opc with
  | 0x010 => wIntSat s tl t .add
  | 0x011 => wIntSat s tl t .sub
  | 0x012 => xiGG s tl t .addi
  | 0x013 => wIntSat s tl t .mul
  | 0x014 => wInt s tl t .mulh
  | 0x015 => wInt s tl t .div
  | 0x016 => wInt s tl t .rem
  | 0x017 => wInt s tl t .min
  | 0x018 => wInt s tl t .max
  | 0x019 => hrIntSat s tl t .abs
  | 0x01A => hrIntSat s tl t .neg
  | 0x01B => xiGG s tl t .lea
  | 0x01C => hrWid s tl t .sext
  | 0x01D => hrWid s tl t .zext
  | 0x020 => wGGG s tl t .and
  | 0x021 => wGGG s tl t .or
  | 0x022 => wGGG s tl t .xor
  | 0x023 => wGGG s tl t .andn
  | 0x024 => wGGG s tl t .orn
  | 0x025 => wWid s tl t .shl
  | 0x026 => wWid s tl t .shr
  | 0x027 => wWid s tl t .sra
  | 0x028 => wWid s tl t .rol
  | 0x029 => xiWid s tl t .shli
  | 0x02A => xiWid s tl t .shri
  | 0x02B => xiWid s tl t .srai
  | 0x02C => row (zero s) 3 tl fun _ =>
      chk (xc t == 0 && t % 0x8000 == 0)
        (.bfx (g (xa t)) (g (xb t)) (BitVec.ofNat 6 (t / 0x200000 % 64)) (BitVec.ofNat 6 (t / 0x8000 % 64)))
  | 0x02D => row (zero s) 3 tl fun _ =>
      chk (xc t == 0 && t % 0x8000 == 0)
        (.bfi (g (xa t)) (g (xb t)) (BitVec.ofNat 6 (t / 0x200000 % 64)) (BitVec.ofNat 6 (t / 0x8000 % 64)))
  | 0x030 => hrWid s tl t .clz
  | 0x031 => hrWid s tl t .ffs
  | 0x032 => hrWid s tl t .popc
  | 0x033 => hrWid s tl t .brev
  | 0x034 => hrWid s tl t .bswap
  | 0x038 => wInt s tl t .cmpeq
  | 0x039 => wInt s tl t .cmpne
  | 0x03A => wInt s tl t .cmplt
  | 0x03B => wInt s tl t .cmple
  | 0x03C => row (zero s) 3 tl fun _ =>
      chk (t % 0x100000 == 0) (.sel (g (xa t)) (g (xb t)) (g (xc t)) (g (xd t)))
  | 0x040 => xiG s tl t .movi
  | 0x041 => xiG s tl t .movhi
  | 0x042 => movOf s tl t
  | _ => .error .opcode

/-- I-side opcodes 0x050 to 0x06E: threads, groups and memory (R58). -/
def decMem (opc s tl t : Nat) : Except DecErr Instr :=
  let off := BitVec.ofNat 16 (xoff t)
  match opc with
  | 0x050 => hrG s tl t .tid
  | 0x051 => hrG s tl t .cyc
  | 0x052 => row (zero s) 1 tl fun _ =>
      (ck (hb t)).bind fun c => chk (e2 t == 0) (.cget (g (ha t)) c)
  | 0x053 => row (zero s) 1 tl fun _ =>
      (ck (ha t)).bind fun c => chk (e2 t == 0) (.cset c (g (hb t)))
  | 0x054 => none0 s tl .wfw
  | 0x055 => none0 s tl .doneOp
  | 0x056 => none0 s tl .yield
  | 0x057 => hrG s tl t .signal
  | 0x058 => row (gangSize s) 0 tl fun n => some (.gang n)
  | 0x059 => none0 s tl .disband
  | 0x05A => row (zero s) 3 tl fun _ =>
      (mcw 0 0 (xlow t)).bind fun m => chk (xc t == 0) (.join m (g (xa t)) (g (xb t)) off)
  | 0x05B => row (zero s) 3 tl fun _ =>
      (mcw 0 0 (xlow t)).bind fun m => chk (xc t == 0 && xb t == 0) (.leave m (g (xa t)) off)
  | 0x05C => row (upTo 2 s) 3 tl fun s =>
      (mcw 0 0 (xlow t)).bind fun m =>
        if s = 0 then chk (xc t == 0) (.arrive m (g (xa t)) (g (xb t)) off)
        else some (.arriveBytes m (g (xa t)) (g (xb t)) off (g (xc t)))
  | 0x05D => row (zero s) 3 tl fun _ =>
      (mcw 0 0 (xlow t)).bind fun m => chk (xc t == 0) (.waitgen m (g (xa t)) off (g (xb t)))
  | 0x060 => row (int s) 3 tl fun ty =>
      (mcw 0 0 (xlow t)).bind fun m => chk (xc t == 0) (.ld ty m (g (xa t)) (g (xb t)) off)
  | 0x061 => row (int s) 3 tl fun ty =>
      if xlow t / 4 % 2 = 1 then
        (mcw 1 0 (xlow t)).map fun m => .stSig ty m (g (xa t)) off (g (xb t)) (g (xc t))
      else (mcw 0 0 (xlow t)).bind fun m => chk (xc t == 0) (.st ty m (g (xa t)) off (g (xb t)))
  | 0x062 => row (zero s) 3 tl fun _ =>
      match mcw 0 0 (xlow t), vk (xa t) with
      | some m, some a => chk (xc t == 0) (.ldv m a (g (xb t)) off)
      | _, _ => none
  | 0x063 => row (zero s) 3 tl fun _ =>
      match mcw 0 0 (xlow t), vk (xb t) with
      | some m, some b => chk (xc t == 0) (.stv m (g (xa t)) off b)
      | _, _ => none
  | 0x064 => row (intX s) 3 tl fun ty =>
      match mcw 0 0 (xlow t), vk (xa t), vk (xc t) with
      | some m, some a, some c => some (.ldx ty m a (g (xb t)) off c)
      | _, _, _ => none
  | 0x065 => row (intX s) 3 tl fun ty =>
      match mcw 0 0 (xlow t), vk (xb t), vk (xc t) with
      | some m, some b, some c => some (.stx ty m (g (xa t)) off b c)
      | _, _, _ => none
  | 0x066 => xrOff2 s tl t fun a b o => .ldfe a b o
  | 0x067 => xrOff2 s tl t fun a b o => .stfe a o b
  | 0x068 => xrOff2 s tl t fun a b o => .ldff a b o
  | 0x069 => xrOff2 s tl t fun a b o => .stff a o b
  | 0x06A => row (upTo 2 s) 3 tl fun s =>
      (spCtl t).bind fun (u, n) =>
        if s = 0 then chk (xc t == 0) (.spillG u (g (xa t)) off (g (xb t)) n)
        else (vr (xb t)).bind fun b => chk (xc t == 0) (.spillV u (g (xa t)) off b n)
  | 0x06B => row (upTo 2 s) 3 tl fun s =>
      (spCtl t).bind fun (u, n) =>
        if s = 0 then chk (xc t == 0) (.fillG u (g (xa t)) (g (xb t)) off n)
        else (vr (xa t)).bind fun a => chk (xc t == 0) (.fillV u a (g (xb t)) off n)
  | 0x06C => row (zero s) 1 tl fun _ =>
      (qk (ha t)).bind fun q => chk (e2 t == 0) (.sbind q (g (hb t)))
  | 0x06D => row (zero s) 1 tl fun _ =>
      (qk (ha t)).bind fun q => chk (e2 t == 0 && hb t == 0) (.sfree q)
  | 0x06E => row (upTo 2 s) 1 tl fun s =>
      (qk (hb t)).bind fun q =>
        if s = 0 then (mk (ha t)).bind fun m => chk (e2 t == 0) (.sstatMask m q)
        else chk (e2 t == 0) (.sstatPosition (g (ha t)) q)
  | _ => .error .opcode

/-- I-side opcodes 0x070 to 0x0AA: atomics, copies, grids, collectives and system (R58). -/
def decSys (opc s tl t : Nat) : Except DecErr Instr :=
  let off := BitVec.ofNat 16 (xoff t)
  match opc with
  | 0x070 => row (aop s) 3 tl fun o =>
      (mcw 0 (xlow t % 2) (xlow t)).map fun m => .amo o (xlow t % 2 == 1) m (g (xa t)) (g (xb t)) off (g (xc t))
  | 0x071 => row (zero s) 3 tl fun _ =>
      (mcw 0 (xlow t % 2) (xlow t)).map fun m => .cas (xlow t % 2 == 1) m (g (xa t)) (g (xb t)) off (g (xc t))
  | 0x072 => row (fop s) 3 tl fun o =>
      (mcw 0 0 (xlow t)).map fun m => .amof o m (g (xa t)) (g (xb t)) off (g (xc t))
  | 0x073 => row (scope s) 0 tl fun c => some (.fence c)
  | 0x078 => row (cpf s) 1 tl fun f => chk (e2 t == 0 && hb t == 0) (.cpset f (g (ha t)))
  | 0x079 => hrG s tl t .cpgo
  | 0x07A => row (zero s) 1 tl fun _ => chk (t / 256 == 0) (.cpqf (BitVec.ofNat 8 t))
  | 0x07B => hrGG s tl t .cpstat
  | 0x07C => hrG s tl t .cpwait
  | 0x07D => hrG s tl t .cpcan
  | 0x07E => none0 s tl .uiret
  | 0x080 => hrG s tl t .gdecl
  | 0x081 => row (gt s) 3 tl fun f =>
      (vk (xa t)).bind fun a => chk (t % 0x100000 == 0) (.gld f a (g (xb t)) (g (xc t)) (g (xd t)))
  | 0x082 => row (gt s) 2 tl fun f =>
      (vk (wc t)).bind fun c => chk (we t == 0) (.gst f (g (wa t)) (g (wb t)) c)
  | 0x083 => hrGG s tl t .gstep
  | 0x084 => hrGG s tl t .gstat
  | 0x085 => hrG s tl t .gfree
  | 0x088 => hrG s tl t .cbegin
  | 0x089 => wGGG s tl t .csend
  | 0x08A => row (upTo 2 s) 3 tl fun s =>
      if xlow t = 0 then
        if s = 0 then some (.crecv (g (xa t)) off (g (xb t)) (g (xc t)))
        else some (.crecvSig (g (xa t)) off (g (xb t)) (g (xc t)))
      else none
  | 0x08B => row (upTo 4 s) 3 tl fun s =>
      (crrsOf s t).map fun o => .crrs o (g (xa t)) off (g (xb t)) (g (xc t))
  | 0x08C => wGGG s tl t .ccopy
  | 0x08D => hrG s tl t .cwait
  | 0x08E => wGGG s tl t .cpeer
  | 0x08F => hrG s tl t .cend
  | 0x090 => none0 s tl .home
  | 0x0A0 => row (zero s) 1 tl fun _ => some (.trap (BitVec.ofNat 16 t))
  | 0x0A1 => row (zero s) 3 tl fun _ =>
      chk (e2 t == 0 && xb t == 0 && csrNumbers.contains (ximm t)) (csrrOf (g (xa t)) (ximm t))
  | 0x0A2 => row (zero s) 3 tl fun _ =>
      chk (e2 t == 0 && xb t == 0 && csrNumbers.contains (ximm t)) (csrwOf (g (xa t)) (ximm t))
  | 0x0A3 => hrGG s tl t .rdwin
  | 0x0A4 => hrGG s tl t .wrwin
  | 0x0A5 => hrG s tl t .resume
  | 0x0A6 => hrG s tl t .susp
  | 0x0A7 => hrG s tl t .kill
  | 0x0A8 => hrGG s tl t .cfgt
  | 0x0A9 => xrOff2 s tl t fun a b o => .savec a o b
  | 0x0AA => xrOff2 s tl t fun a b o => .loadc a o b
  | _ => .error .opcode

/-- I-side opcodes 0x0E0 to 0x0F0: control (R58, R80). -/
def decCtl (opc s tl t : Nat) : Except DecErr Instr :=
  let imm := BitVec.ofNat 32 (ximm t)
  match opc with
  | 0x0E0 => row (cond s) 3 tl fun c => chk (e2 t == 0) (.br c (g (xa t)) (g (xb t)) imm)
  | 0x0E1 => row (zero s) 3 tl fun _ => chk (e2 t == 0 && xa t == 0 && xb t == 0) (.jmp imm)
  | 0x0E2 => hrG s tl t .jmpr
  | 0x0E3 => xiG s tl t .call
  | 0x0E4 => hrGG s tl t .callr
  | 0x0E5 => hrG s tl t .ret
  | 0x0E6 => row (zero s) 3 tl fun _ =>
      (lk (xa t)).bind fun l => chk (e2 t == 0 && xb t == 0) (.loop l imm)
  | 0x0E7 => none0 s tl .isync
  | 0x0F0 => none0 s tl .nop
  | _ => .error .opcode

/-- V-side opcodes 0x100 to 0x155 (R59). -/
def decVec (opc s tl t : Nat) : Except DecErr Instr :=
  match opc with
  | 0x100 => vE3 s tl t .vadd
  | 0x101 => vE3 s tl t .vsub
  | 0x102 => vE3 s tl t .vmul
  | 0x103 => vE3 s tl t .vfma
  | 0x104 => vE3 s tl t .vfms
  | 0x105 => vE3 s tl t .vmin
  | 0x106 => vE3 s tl t .vmax
  | 0x107 => vE2 s tl t .vabs
  | 0x108 => vE2 s tl t .vneg
  | 0x110 => row (fv32 s) 2 tl fun md =>
      match vcwM (we t), vk (wa t), vk (wb t), vk (wc t) with
      | some m, some a, some b, some c => some (.vdiv md m a b c)
      | _, _, _, _ => none
  | 0x111 => vF2 s tl t .vsqrt
  | 0x112 => vF2 s tl t .vrcp
  | 0x113 => vF2 s tl t .vrsq
  | 0x114 => vF2 s tl t .vexp2
  | 0x115 => vF2 s tl t .vlog2
  | 0x116 => vF2 s tl t .vsin
  | 0x117 => vF2 s tl t .vcos
  | 0x120 => vZ3 s tl t .vand
  | 0x121 => vZ3 s tl t .vor
  | 0x122 => vZ3 s tl t .vxor
  | 0x123 => vW3 s tl t .vshl
  | 0x124 => vW3 s tl t .vshr
  | 0x125 => vW3 s tl t .vsra
  | 0x126 => vW2 s tl t .vclz
  | 0x127 => vW2 s tl t .vffs
  | 0x128 => vW2 s tl t .vpopc
  | 0x130 => row (vcmpT s) 2 tl fun i => vcmpOf i t
  | 0x131 => row (zero s) 2 tl fun _ =>
      match vcwM (we t), vk (wa t), vk (wb t), vk (wc t) with
      | some (some m), some a, some b, some c => some (.vsel m a b c)
      | _, _, _, _ => none
  | 0x132 => row (zero s) 2 tl fun _ =>
      match vcwM (we t), vk (wa t), vk (wb t) with
      | some m, some a, some b => chk (wc t == 0) (.vmov m a b)
      | _, _, _ => none
  | 0x133 => row (zero s) 2 tl fun _ =>
      match vcwM (we t), vk (wa t) with
      | some m, some a => chk (wc t == 0) (.vbcast m a (g (wb t)))
      | _, _ => none
  | 0x134 => row (zero s) 2 tl fun _ =>
      match vcwM (we t), vk (wa t) with
      | some m, some a => some (.vins m a (g (wb t)) (g (wc t)))
      | _, _ => none
  | 0x135 => row (zero s) 2 tl fun _ =>
      (vk (wb t)).bind fun b => chk (we t == 0) (.vext (g (wa t)) b (g (wc t)))
  | 0x136 => vZ3 s tl t .vperm
  | 0x137 => row (zero s) 2 tl fun _ =>
      match vcwM (we t), vk (wa t), vk (wb t) with
      | some m, some a, some b => some (.vrot m a b (g (wc t)))
      | _, _, _ => none
  | 0x138 => row (zero s) 2 tl fun _ =>
      match vcwM (we t), vk (wa t) with
      | some m, some a => chk (wb t == 0 && wc t == 0) (.viota m a)
      | _, _ => none
  | 0x140 => vR2 s tl t .vred
  | 0x141 => vR2 s tl t .vscan
  | 0x148 => row (upTo 8 s) 2 tl fun s =>
      match cvt s (we t), vk (wa t), vk (wb t) with
      | some (o, m), some a, some b => chk (wc t == 0) (.vcvt o m a b)
      | _, _, _ => none
  | 0x149 => row (pkw s) 2 tl fun w =>
      match vcwM (we t), vk (wa t), vk (wb t), vk (wc t) with
      | some m, some a, some b, some c => some (.vpack w m a b c)
      | _, _, _, _ => none
  | 0x14A => row (pkw s) 2 tl fun w =>
      match vcwU (we t), vk (wa t), vk (wb t) with
      | some (u, m), some a, some b => chk (wc t == 0) (.vunpk w u m a b)
      | _, _, _ => none
  | 0x14B => row (ab s) 2 tl fun f =>
      match vcwM (we t), vk (wa t), vk (wb t) with
      | some m, some a, some b => chk (wc t == 0) (.vdec f m a b)
      | _, _, _ => none
  | 0x14C => row (ab s) 2 tl fun f =>
      match vcwS (we t), vk (wa t), vk (wb t) with
      | some (sat, m), some a, some b => chk (wc t == 0) (.venc f sat m a b)
      | _, _, _ => none
  | 0x14D => row (ab s) 3 tl fun f =>
      chk (xb t == 0 && xc t == 0 && xlow t == 0) (.dtld f (g (xa t)) (BitVec.ofNat 16 (xoff t)))
  | 0x150 => mMMM s tl t .mand
  | 0x151 => mMMM s tl t .mor
  | 0x152 => mMMM s tl t .mxor
  | 0x153 => hrMM s tl t .mnot
  | 0x154 => hrGM s tl t .mpop
  | 0x155 => hrGM s tl t .mfirst
  | _ => .error .opcode

/-- V-side opcodes 0x160 to 0x186: matrix, tiles and means (R59). -/
def decMat (opc s tl t : Nat) : Except DecErr Instr :=
  match opc with
  | 0x160 => row (upTo 2 s) 3 tl fun s =>
      if t % 0x100000 = 0 then
        if s = 0 then (qin (xc t)).map fun q => .mmaStream (g (xa t)) (g (xb t)) q (g (xd t))
        else some (.mmaAb (g (xa t)) (g (xb t)) (g (xc t)) (g (xd t)))
      else none
  | 0x161 => row (upTo 4 s) 3 tl fun s =>
      if t % 0x2000 = 0 then
        match s with
        | 0 => (qin (xc t)).map fun q => .mmasK16Stream (g (xa t)) (g (xb t)) q (g (xd t)) (g (xf t))
        | 1 => some (.mmasK16Ab (g (xa t)) (g (xb t)) (g (xc t)) (g (xd t)) (g (xf t)))
        | 2 => (qin (xc t)).map fun q => .mmasK8Stream (g (xa t)) (g (xb t)) q (g (xd t)) (g (xf t))
        | _ => some (.mmasK8Ab (g (xa t)) (g (xb t)) (g (xc t)) (g (xd t)) (g (xf t)))
      else none
  | 0x162 => hrG s tl t .bld
  | 0x163 => none0 s tl .brot
  | 0x164 => hrGG s tl t .swapt
  | 0x165 => row (zero s) 1 tl fun _ =>
      (vr (ha t)).bind fun a => chk (e2 t == 0) (.ldt a (g (hb t)))
  | 0x166 => wGGG s tl t .mcmd
  | 0x170 => row (upTo 2 s) 1 tl fun s => chk (e2 t == 0) (.talloc (s == 1) (g (ha t)) (g (hb t)))
  | 0x171 => row (zero s) 3 tl fun _ =>
      (vr (xc t)).bind fun c => chk (t % 0x100000 == 0) (.tcont (g (xa t)) (g (xb t)) c (g (xd t)))
  | 0x172 => hrGG s tl t .tstat
  | 0x173 => row (upTo 16 s) 3 tl fun s =>
      chk (xc t == 0 && xlow t % 512 == 0)
        (.tread (BitVec.ofNat 4 s) (xlow t / 1024 == 1) (xlow t / 512 % 2 == 1) (g (xa t)) (BitVec.ofNat 16 (xoff t))
          (g (xb t)))
  | 0x174 => hrG s tl t .twait
  | 0x175 => hrG s tl t .taban
  | 0x176 => row (zero s) 2 tl fun _ =>
      (vr (wa t)).bind fun a => chk (we t == 0 && wc t == 0) (.tpeek a (g (wb t)))
  | 0x177 => hrG s tl t .tfree
  | 0x180 => row (zero s) 1 tl fun _ => some (.qshape (BitVec.ofNat 16 t))
  | 0x181 => row (upTo 4 s) 3 tl fun s =>
      chk (xb t == 0 && xc t == 0 && xlow t == 0)
        (.qtld (BitVec.ofNat 2 s) (g (xa t)) (BitVec.ofNat 16 (xoff t)))
  | 0x182 => row (zero s) 2 tl fun _ =>
      match vcwM (we t), vr (wa t) with
      | some m, some a => chk (wb t == 0 && wc t == 0) (.qclr m a)
      | _, _ => none
  | 0x183 => row (zero s) 2 tl fun _ =>
      match vcwQ (we t), vr (wa t), vk (wb t) with
      | some (q, m), some a, some b => chk (wc t == 0) (.qacc q m a b)
      | _, _, _ => none
  | 0x184 => row (zero s) 2 tl fun _ =>
      match vcwM (we t), vr (wa t), vr (wb t) with
      | some m, some a, some b => chk (wc t == 0) (.qmerge m a b)
      | _, _, _ => none
  | 0x185 => row (zero s) 2 tl fun _ =>
      match vcwM (we t), vr (wa t) with
      | some m, some a => chk (wb t == 0 && wc t == 0) (.qred m a)
      | _, _ => none
  | 0x186 => row (zero s) 2 tl fun _ =>
      match vcwQ (we t), vr (wa t), vk (wb t) with
      | some (q, m), some a, some b => chk (wc t == 0) (.qfin q m a b)
      | _, _, _ => none
  | _ => .error .opcode

end Dec

/-- Decode the operation with the given OPC, SUB, TL and tail (tail units joined little-endian by unit, R32). -/
def decodeOp (opc sub tl tail : Nat) : Except DecErr Instr :=
  if opc < 0x050 then Dec.decInt opc sub tl tail
  else if opc < 0x070 then Dec.decMem opc sub tl tail
  else if opc < 0x0E0 then Dec.decSys opc sub tl tail
  else if opc < 0x100 then Dec.decCtl opc sub tl tail
  else if opc < 0x160 then Dec.decVec opc sub tl tail
  else Dec.decMat opc sub tl tail

/-- The fields of a head (R31). -/
structure Head where
  tl : Nat
  pair : Bool
  opc : Nat
  sub : Nat
  deriving DecidableEq, Repr

def headOf (u : Nat) : Head := ⟨u / 0x4000 % 4, u / 0x2000 % 2 == 1, u / 16 % 512, u % 16⟩

/-- A head decoded with its tail. An unassigned OPC or a reserved SUB is itself an operation of the table, whose meaning
is the fault of R60. -/
def decodeHead (h : Head) (tail : Nat) : Except DecErr Instr :=
  match decodeOp h.opc h.sub h.tl tail with
  | .error .opcode | .error .subcode => .ok (.unassignedOpcode (BitVec.ofNat 9 h.opc) (BitVec.ofNat 4 h.sub))
  | r => r

/-! ## The queue harts' words (R373) -/

/-- WARM and WBLK: custom-0 with funct7 = 0 and rs2 = 0; any other word is refused. -/
def decodeHart (w : Nat) : Option Instr :=
  if w % 128 = 0b0001011 ∧ w / 0x100000 = 0 then
    if w / 0x1000 % 8 = 0 ∧ w / 128 % 32 = 0 then some (.warm (BitVec.ofNat 5 (w / 0x8000 % 32)))
    else if w / 0x1000 % 8 = 1 ∧ w / 0x8000 % 32 = 0 then some (.wblk (BitVec.ofNat 5 (w / 128 % 32)))
    else none
  else none

/-! ## A word of the opcode table

The table numbers a head with its one-unit tail as the head in the upper sixteen bits and the tail below them (TID is
0x4500_0000), a head alone as itself, and the queue harts' words as RISC-V words. DESIGN CHOICE, log entry 17. -/

/-- Head and tail of a table word of the given width. -/
def tableParts (nbits w : Nat) : Nat × Nat :=
  if nbits ≤ 16 then (w, 0) else if nbits ≤ 32 then (w / 0x10000 % 0x10000, w % 0x10000)
  else if nbits ≤ 48 then (w / 0x100000000 % 0x10000, w % 0x100000000)
  else (w / 0x1000000000000 % 0x10000, w % 0x1000000000000)

/-- The table word is a queue hart's word: its upper bits are a head with TL = 0, which has no tail unit. -/
def isHartWord (nbits w : Nat) : Bool := nbits == 32 && decide (w / 0x40000000 % 4 = 0)

/-- The instruction the decoder reads from a table word; a set P bit belongs to the line's framing, not to the
operation, and is ignored. -/
def decodeTableWord (nbits w : Nat) : Option Instr :=
  if isHartWord nbits w then decodeHart w
  else
    let (hd, tail) := tableParts nbits w
    let h := headOf hd
    if (nbits + 15) / 16 = h.tl + 1 then
      match decodeOp h.opc h.sub h.tl tail with
      | .ok i => some i
      | .error _ => none
    else none

/-! ## The encoder -/

/-- OPC, SUB, TL and tail of an operation. -/
structure Enc where
  opc : Nat
  sub : Nat
  tl : Nat
  tail : Nat
  deriving DecidableEq, Repr

/-- The head unit with P = 0 (R31). -/
def Enc.head (e : Enc) : Nat := e.tl * 0x4000 + e.opc * 16 + e.sub

namespace Encode

def tW (a b c e : Nat) : Nat := a * 0x2000000 + b * 0x40000 + c * 0x800 + e
def tX (a b c e : Nat) : Nat := a * 0x20000000000 + b * 0x400000000 + c * 0x8000000 + e
def tI (a b imm : Nat) : Nat := a * 0x20000000000 + b * 0x400000000 + imm * 4
def tH (a b e : Nat) : Nat := a * 0x200 + b * 4 + e

def v : VOp → Nat
  | .v i => i.toNat
  | .q i => 64 + i.toNat
def int : IntTy → Nat
  | .i8 => 0 | .i16 => 1 | .i32 => 2 | .i64 => 3 | .n8 => 4 | .n16 => 5 | .n32 => 6 | .n64 => 7
def wid : Wid → Nat
  | .w8 => 0 | .w16 => 1 | .w32 => 2 | .w64 => 3
def iwid : IWid → Nat
  | .b8 => 0 | .b16 => 1 | .b32 => 2
def rmode : RMode → Nat
  | .rne => 0 | .rtz => 1 | .rdn => 2 | .rup => 3
def fty : FTy → Nat
  | .f32 => 0 | .f16 => 1 | .bf16 => 2
def cond : Cond → Nat
  | .eq => 0 | .ne => 1 | .lt => 2 | .le => 3 | .gt => 4 | .ge => 5 | .lo => 6 | .ls => 7 | .hi => 8 | .hs => 9
def vcond : VCond → Nat
  | .eq => 0 | .ne => 1 | .lt => 2 | .le => 3
def scope : Scope → Nat
  | .core => 0 | .die => 1 | .pkg => 2 | .sys => 3
def space : Space → Nat
  | .dm => 0 | .ulm => 1 | .wb => 2 | .ab => 3
def aop : AOp → Nat
  | .add => 0 | .and => 1 | .or => 2 | .xor => 3 | .minS => 4 | .maxS => 5 | .minU => 6 | .maxU => 7 | .swap => 8
def fop : FOp → Nat
  | .add => 0 | .min => 1 | .max => 2
def cpf : CpField → Nat
  | .from => 0 | .to => 1 | .len => 2 | .len1 => 3 | .len2 => 4 | .str1 => 5 | .str2 => 6 | .str3 => 7 | .qsel => 8
  | .act => 9 | .arg => 10
def gt : GFmt → Nat
  | .f32 => 0 | .bf16 => 1 | .f16 => 2 | .i32 => 3
def gangSize : GangSize → Nat
  | .two => 1 | .four => 2 | .eight => 3
def ab : Ab → Nat
  | .a => 0 | .b => 1
def pkw : PkW → Nat
  | .w16 => 0 | .w8 => 1
def redOp : RedOp → Nat
  | .add => 0 | .min => 1 | .max => 2
def bit (b : Bool) : Nat := if b then 1 else 0
def order : Order → Nat
  | .plain => 0
  | .acq s => 128 + scope s * 32
  | .rel s => 256 + scope s * 32
  | .sc => 384
def mcw (m : Mcw) (sg aw : Nat) : Nat :=
  space m.sp * 512 + order m.order + bit m.rx * 16 + bit m.ord * 8 + sg * 4 + aw
def vmask : VMask → Nat
  | none => 0
  | some m => 8 + m.toNat
/-- SUB of scheme FV. -/
def fv : VElt → Nat
  | .flt f md => fty f * 4 + rmode md
  | .int _ _ _ => 12
/-- VCW of an element type. -/
def vcwE (e : VElt) (aux : Nat) (k : VMask) : Nat :=
  match e with
  | .flt _ _ => aux * 16 + vmask k
  | .int w u s => iwid w * 512 + bit u * 256 + bit s * 128 + aux * 16 + vmask k
def cvtSub : CvtOp → Nat
  | .f32_i32 => 0 | .i32_f32 _ _ => 1 | .f32_n32 => 2 | .n32_f32 _ _ => 3 | .f16_f32 _ => 4 | .bf16_f32 _ => 5
  | .f32_f16 => 6 | .f32_bf16 => 7
def cvtVcw : CvtOp → Nat
  | .i32_f32 md s | .n32_f32 md s => bit s * 128 + rmode md * 16
  | .f16_f32 md | .bf16_f32 md => rmode md * 16
  | _ => 0
def crFt : CrFt → Nat
  | .f32 => 0 | .f16 => 1 | .bf16 => 2 | .i32 => 3
def crOp : CrOp → Nat
  | .add => 0 | .max => 1 | .min => 2
def crrsSub : CrrsOp → Nat
  | .arith o _ => crOp o
  | .qm => 3
def crrsFt : CrrsOp → Nat
  | .arith _ f => crFt f
  | .qm => 0

def n0 (opc : Nat) : Option Enc := some ⟨opc, 0, 0, 0⟩
def hr (opc sub : Nat) (a b e : Nat) : Option Enc := some ⟨opc, sub, 1, tH a b e⟩
def w (opc sub : Nat) (a b c e : Nat) : Option Enc := some ⟨opc, sub, 2, tW a b c e⟩
def xi (opc sub : Nat) (a b imm : Nat) : Option Enc := some ⟨opc, sub, 3, tI a b imm⟩
def xr (opc sub : Nat) (a b c e : Nat) : Option Enc := some ⟨opc, sub, 3, tX a b c e⟩
def vE3 (opc : Nat) (e : VElt) (k : VMask) (a b c : VOp) := w opc (fv e) (v a) (v b) (v c) (vcwE e 0 k)
def vE2 (opc : Nat) (e : VElt) (k : VMask) (a b : VOp) := w opc (fv e) (v a) (v b) 0 (vcwE e 0 k)
def vF2 (opc : Nat) (md : RMode) (k : VMask) (a b : VOp) := w opc (rmode md) (v a) (v b) 0 (vmask k)
def vZ3 (opc : Nat) (k : VMask) (a b c : VOp) := w opc 0 (v a) (v b) (v c) (vmask k)
def off (o : Off16) : Nat := o.toNat * 0x800
def spCtl (ulm : Bool) (n : BitVec 7) : Nat := bit ulm * 512 + n.toNat * 4

end Encode

open Encode in
/-- The encoding of a bundle operation from the maps of R58 and R59. Events, the queue harts' words and unassigned heads
have none. -/
def encode : Instr → Option Enc
  | .add t s a b c => w 0x010 (int t) a.toNat b.toNat c.toNat (bit s)
  | .sub t s a b c => w 0x011 (int t) a.toNat b.toNat c.toNat (bit s)
  | .addi a b i => xi 0x012 0 a.toNat b.toNat i.toNat
  | .mul t s a b c => w 0x013 (int t) a.toNat b.toNat c.toNat (bit s)
  | .mulh t a b c => w 0x014 (int t) a.toNat b.toNat c.toNat 0
  | .div t a b c => w 0x015 (int t) a.toNat b.toNat c.toNat 0
  | .rem t a b c => w 0x016 (int t) a.toNat b.toNat c.toNat 0
  | .min t a b c => w 0x017 (int t) a.toNat b.toNat c.toNat 0
  | .max t a b c => w 0x018 (int t) a.toNat b.toNat c.toNat 0
  | .abs t s a b => hr 0x019 (int t) a.toNat b.toNat (bit s)
  | .neg t s a b => hr 0x01A (int t) a.toNat b.toNat (bit s)
  | .lea a b i => xi 0x01B 0 a.toNat b.toNat i.toNat
  | .sext x a b => hr 0x01C (wid x) a.toNat b.toNat 0
  | .zext x a b => hr 0x01D (wid x) a.toNat b.toNat 0
  | .and a b c => w 0x020 0 a.toNat b.toNat c.toNat 0
  | .or a b c => w 0x021 0 a.toNat b.toNat c.toNat 0
  | .xor a b c => w 0x022 0 a.toNat b.toNat c.toNat 0
  | .andn a b c => w 0x023 0 a.toNat b.toNat c.toNat 0
  | .orn a b c => w 0x024 0 a.toNat b.toNat c.toNat 0
  | .shl x a b c => w 0x025 (wid x) a.toNat b.toNat c.toNat 0
  | .shr x a b c => w 0x026 (wid x) a.toNat b.toNat c.toNat 0
  | .sra x a b c => w 0x027 (wid x) a.toNat b.toNat c.toNat 0
  | .rol x a b c => w 0x028 (wid x) a.toNat b.toNat c.toNat 0
  | .shli x a b i => xi 0x029 (wid x) a.toNat b.toNat i.toNat
  | .shri x a b i => xi 0x02A (wid x) a.toNat b.toNat i.toNat
  | .srai x a b i => xi 0x02B (wid x) a.toNat b.toNat i.toNat
  | .bfx a b p l => xr 0x02C 0 a.toNat b.toNat 0 (p.toNat * 0x200000 + l.toNat * 0x8000)
  | .bfi a b p l => xr 0x02D 0 a.toNat b.toNat 0 (p.toNat * 0x200000 + l.toNat * 0x8000)
  | .clz x a b => hr 0x030 (wid x) a.toNat b.toNat 0
  | .ffs x a b => hr 0x031 (wid x) a.toNat b.toNat 0
  | .popc x a b => hr 0x032 (wid x) a.toNat b.toNat 0
  | .brev x a b => hr 0x033 (wid x) a.toNat b.toNat 0
  | .bswap x a b => hr 0x034 (wid x) a.toNat b.toNat 0
  | .cmpeq t a b c => w 0x038 (int t) a.toNat b.toNat c.toNat 0
  | .cmpne t a b c => w 0x039 (int t) a.toNat b.toNat c.toNat 0
  | .cmplt t a b c => w 0x03A (int t) a.toNat b.toNat c.toNat 0
  | .cmple t a b c => w 0x03B (int t) a.toNat b.toNat c.toNat 0
  | .sel a b c d => xr 0x03C 0 a.toNat b.toNat c.toNat (d.toNat * 0x100000)
  | .movi a i => xi 0x040 0 a.toNat 0 i.toNat
  | .movhi a i => xi 0x041 0 a.toNat 0 i.toNat
  | .mov a b => hr 0x042 0 a.toNat b.toNat 0
  | .movToLc l b => hr 0x042 1 l.toNat b.toNat 0
  | .movFromLc a l => hr 0x042 2 a.toNat l.toNat 0
  | .movFromN1 a => hr 0x042 3 a.toNat 1 0
  | .movToN0 b => hr 0x042 4 0 b.toNat 0
  | .tid a => hr 0x050 0 a.toNat 0 0
  | .cyc a => hr 0x051 0 a.toNat 0 0
  | .cget a c => hr 0x052 0 a.toNat c.toNat 0
  | .cset c b => hr 0x053 0 c.toNat b.toNat 0
  | .wfw => n0 0x054
  | .doneOp => n0 0x055
  | .yield => n0 0x056
  | .signal a => hr 0x057 0 a.toNat 0 0
  | .gang n => some ⟨0x058, gangSize n, 0, 0⟩
  | .disband => n0 0x059
  | .join m a b o => xr 0x05A 0 a.toNat b.toNat 0 (off o + mcw m 0 0)
  | .leave m a o => xr 0x05B 0 a.toNat 0 0 (off o + mcw m 0 0)
  | .arrive m a b o => xr 0x05C 0 a.toNat b.toNat 0 (off o + mcw m 0 0)
  | .arriveBytes m a b o c => xr 0x05C 1 a.toNat b.toNat c.toNat (off o + mcw m 0 0)
  | .waitgen m a o b => xr 0x05D 0 a.toNat b.toNat 0 (off o + mcw m 0 0)
  | .ld t m a b o => xr 0x060 (int t) a.toNat b.toNat 0 (off o + mcw m 0 0)
  | .st t m a o b => xr 0x061 (int t) a.toNat b.toNat 0 (off o + mcw m 0 0)
  | .stSig t m a o b c => xr 0x061 (int t) a.toNat b.toNat c.toNat (off o + mcw m 1 0)
  | .ldv m a b o => xr 0x062 0 (v a) b.toNat 0 (off o + mcw m 0 0)
  | .stv m a o b => xr 0x063 0 a.toNat (v b) 0 (off o + mcw m 0 0)
  | .ldx t m a b o c => xr 0x064 (int t) (v a) b.toNat (v c) (off o + mcw m 0 0)
  | .stx t m a o b c => xr 0x065 (int t) a.toNat (v b) (v c) (off o + mcw m 0 0)
  | .ldfe a b o => xr 0x066 0 a.toNat b.toNat 0 (off o)
  | .stfe a o b => xr 0x067 0 a.toNat b.toNat 0 (off o)
  | .ldff a b o => xr 0x068 0 a.toNat b.toNat 0 (off o)
  | .stff a o b => xr 0x069 0 a.toNat b.toNat 0 (off o)
  | .spillG u a o b n => xr 0x06A 0 a.toNat b.toNat 0 (off o + spCtl u n)
  | .spillV u a o b n => xr 0x06A 1 a.toNat b.toNat 0 (off o + spCtl u n)
  | .fillG u a b o n => xr 0x06B 0 a.toNat b.toNat 0 (off o + spCtl u n)
  | .fillV u a b o n => xr 0x06B 1 a.toNat b.toNat 0 (off o + spCtl u n)
  | .sbind q b => hr 0x06C 0 (64 + q.toNat) b.toNat 0
  | .sfree q => hr 0x06D 0 (64 + q.toNat) 0 0
  | .sstatMask m q => hr 0x06E 0 m.toNat (64 + q.toNat) 0
  | .sstatPosition a q => hr 0x06E 1 a.toNat (64 + q.toNat) 0
  | .amo o x m a b f c => xr 0x070 (aop o) a.toNat b.toNat c.toNat (off f + mcw m 0 (bit x))
  | .cas x m a b f c => xr 0x071 0 a.toNat b.toNat c.toNat (off f + mcw m 0 (bit x))
  | .amof o m a b f c => xr 0x072 (fop o) a.toNat b.toNat c.toNat (off f + mcw m 0 0)
  | .fence s => some ⟨0x073, scope s, 0, 0⟩
  | .cpset f a => hr 0x078 (cpf f) a.toNat 0 0
  | .cpgo a => hr 0x079 0 a.toNat 0 0
  | .cpqf m => some ⟨0x07A, 0, 1, m.toNat⟩
  | .cpstat a b => hr 0x07B 0 a.toNat b.toNat 0
  | .cpwait a => hr 0x07C 0 a.toNat 0 0
  | .cpcan a => hr 0x07D 0 a.toNat 0 0
  | .uiret => n0 0x07E
  | .gdecl a => hr 0x080 0 a.toNat 0 0
  | .gld f a b c d => xr 0x081 (gt f) (v a) b.toNat c.toNat (d.toNat * 0x100000)
  | .gst f a b c => w 0x082 (gt f) a.toNat b.toNat (v c) 0
  | .gstep a b => hr 0x083 0 a.toNat b.toNat 0
  | .gstat a b => hr 0x084 0 a.toNat b.toNat 0
  | .gfree a => hr 0x085 0 a.toNat 0 0
  | .cbegin a => hr 0x088 0 a.toNat 0 0
  | .csend a b c => w 0x089 0 a.toNat b.toNat c.toNat 0
  | .crecv a o b c => xr 0x08A 0 a.toNat b.toNat c.toNat (off o)
  | .crecvSig a o b c => xr 0x08A 1 a.toNat b.toNat c.toNat (off o)
  | .crrs p a o b c => xr 0x08B (crrsSub p) a.toNat b.toNat c.toNat (off o + crrsFt p * 256)
  | .ccopy a b c => w 0x08C 0 a.toNat b.toNat c.toNat 0
  | .cwait a => hr 0x08D 0 a.toNat 0 0
  | .cpeer a b c => w 0x08E 0 a.toNat b.toNat c.toNat 0
  | .cend a => hr 0x08F 0 a.toNat 0 0
  | .home => n0 0x090
  | .trap i => some ⟨0x0A0, 0, 1, i.toNat⟩
  | .csrr a n => xi 0x0A1 0 a.toNat 0 n.toNat
  | .csrw n a => xi 0x0A2 0 a.toNat 0 n.toNat
  | .csrwTstate a => xi 0x0A2 0 a.toNat 0 0x002
  | .csrwFring a => xi 0x0A2 0 a.toNat 0 0x046
  | .csrwFrrd a => xi 0x0A2 0 a.toNat 0 0x047
  | .vlogsRead a => xi 0x0A1 0 a.toNat 0 0x049
  | .rdwin a b => hr 0x0A3 0 a.toNat b.toNat 0
  | .wrwin a b => hr 0x0A4 0 a.toNat b.toNat 0
  | .resume a => hr 0x0A5 0 a.toNat 0 0
  | .susp a => hr 0x0A6 0 a.toNat 0 0
  | .kill a => hr 0x0A7 0 a.toNat 0 0
  | .cfgt a b => hr 0x0A8 0 a.toNat b.toNat 0
  | .savec a o b => xr 0x0A9 0 a.toNat b.toNat 0 (off o)
  | .loadc a o b => xr 0x0AA 0 a.toNat b.toNat 0 (off o)
  | .br c a b d => xi 0x0E0 (cond c) a.toNat b.toNat d.toNat
  | .jmp d => xi 0x0E1 0 0 0 d.toNat
  | .jmpr a => hr 0x0E2 0 a.toNat 0 0
  | .call a d => xi 0x0E3 0 a.toNat 0 d.toNat
  | .callr a b => hr 0x0E4 0 a.toNat b.toNat 0
  | .ret a => hr 0x0E5 0 a.toNat 0 0
  | .loop l d => xi 0x0E6 0 l.toNat 0 d.toNat
  | .isync => n0 0x0E7
  | .nop => n0 0x0F0
  | .vadd e k a b c => vE3 0x100 e k a b c
  | .vsub e k a b c => vE3 0x101 e k a b c
  | .vmul e k a b c => vE3 0x102 e k a b c
  | .vfma e k a b c => vE3 0x103 e k a b c
  | .vfms e k a b c => vE3 0x104 e k a b c
  | .vmin e k a b c => vE3 0x105 e k a b c
  | .vmax e k a b c => vE3 0x106 e k a b c
  | .vabs e k a b => vE2 0x107 e k a b
  | .vneg e k a b => vE2 0x108 e k a b
  | .vdiv md k a b c => w 0x110 (rmode md) (v a) (v b) (v c) (vmask k)
  | .vsqrt md k a b => vF2 0x111 md k a b
  | .vrcp md k a b => vF2 0x112 md k a b
  | .vrsq md k a b => vF2 0x113 md k a b
  | .vexp2 md k a b => vF2 0x114 md k a b
  | .vlog2 md k a b => vF2 0x115 md k a b
  | .vsin md k a b => vF2 0x116 md k a b
  | .vcos md k a b => vF2 0x117 md k a b
  | .vand k a b c => vZ3 0x120 k a b c
  | .vor k a b c => vZ3 0x121 k a b c
  | .vxor k a b c => vZ3 0x122 k a b c
  | .vshl x k a b c => w 0x123 (iwid x) (v a) (v b) (v c) (vmask k)
  | .vshr x k a b c => w 0x124 (iwid x) (v a) (v b) (v c) (vmask k)
  | .vsra x k a b c => w 0x125 (iwid x) (v a) (v b) (v c) (vmask k)
  | .vclz x u k a b => w 0x126 (iwid x) (v a) (v b) 0 (bit u * 256 + vmask k)
  | .vffs x u k a b => w 0x127 (iwid x) (v a) (v b) 0 (bit u * 256 + vmask k)
  | .vpopc x u k a b => w 0x128 (iwid x) (v a) (v b) 0 (bit u * 256 + vmask k)
  | .vcmp c t m a b =>
    let e := match t with
      | .f32 => 0
      | .i32 => 1024
      | .n32 => 1280
    w 0x130 (match t with
      | .f32 => 0
      | _ => 12) m.toNat (v a) (v b) (e + vcond c * 16)
  | .vsel m a b c => w 0x131 0 (v a) (v b) (v c) (8 + m.toNat)
  | .vmov k a b => w 0x132 0 (v a) (v b) 0 (vmask k)
  | .vbcast k a b => w 0x133 0 (v a) b.toNat 0 (vmask k)
  | .vins k a b c => w 0x134 0 (v a) b.toNat c.toNat (vmask k)
  | .vext a b c => w 0x135 0 a.toNat (v b) c.toNat 0
  | .vperm k a b c => vZ3 0x136 k a b c
  | .vrot k a b c => w 0x137 0 (v a) (v b) c.toNat (vmask k)
  | .viota k a => w 0x138 0 (v a) 0 0 (vmask k)
  | .vred o e k a b => w 0x140 (fv e) (v a) (v b) 0 (vcwE e (redOp o) k)
  | .vscan o e k a b => w 0x141 (fv e) (v a) (v b) 0 (vcwE e (redOp o) k)
  | .vcvt o k a b => w 0x148 (cvtSub o) (v a) (v b) 0 (cvtVcw o + vmask k)
  | .vpack x k a b c => w 0x149 (pkw x) (v a) (v b) (v c) (vmask k)
  | .vunpk x u k a b => w 0x14A (pkw x) (v a) (v b) 0 (bit u * 256 + vmask k)
  | .vdec f k a b => w 0x14B (ab f) (v a) (v b) 0 (vmask k)
  | .venc f s k a b => w 0x14C (ab f) (v a) (v b) 0 (bit s * 128 + vmask k)
  | .dtld f a o => xr 0x14D (ab f) a.toNat 0 0 (off o)
  | .mand a b c => w 0x150 0 a.toNat b.toNat c.toNat 0
  | .mor a b c => w 0x151 0 a.toNat b.toNat c.toNat 0
  | .mxor a b c => w 0x152 0 a.toNat b.toNat c.toNat 0
  | .mnot a b => hr 0x153 0 a.toNat b.toNat 0
  | .mpop a b => hr 0x154 0 a.toNat b.toNat 0
  | .mfirst a b => hr 0x155 0 a.toNat b.toNat 0
  | .mmaStream a b q d => xr 0x160 0 a.toNat b.toNat (64 + q.toNat) (d.toNat * 0x100000)
  | .mmaAb a b c d => xr 0x160 1 a.toNat b.toNat c.toNat (d.toNat * 0x100000)
  | .mmasK16Stream a b q d e => xr 0x161 0 a.toNat b.toNat (64 + q.toNat) (d.toNat * 0x100000 + e.toNat * 0x2000)
  | .mmasK16Ab a b c d e => xr 0x161 1 a.toNat b.toNat c.toNat (d.toNat * 0x100000 + e.toNat * 0x2000)
  | .mmasK8Stream a b q d e => xr 0x161 2 a.toNat b.toNat (64 + q.toNat) (d.toNat * 0x100000 + e.toNat * 0x2000)
  | .mmasK8Ab a b c d e => xr 0x161 3 a.toNat b.toNat c.toNat (d.toNat * 0x100000 + e.toNat * 0x2000)
  | .bld a => hr 0x162 0 a.toNat 0 0
  | .brot => n0 0x163
  | .swapt a b => hr 0x164 0 a.toNat b.toNat 0
  | .ldt a b => hr 0x165 0 a.toNat b.toNat 0
  | .mcmd a b c => w 0x166 0 a.toNat b.toNat c.toNat 0
  | .talloc i a b => hr 0x170 (bit i) a.toNat b.toNat 0
  | .tcont a b c d => xr 0x171 0 a.toNat b.toNat c.toNat (d.toNat * 0x100000)
  | .tstat a b => hr 0x172 0 a.toNat b.toNat 0
  | .tread f s x a o b => xr 0x173 f.toNat a.toNat b.toNat 0 (off o + bit s * 1024 + bit x * 512)
  | .twait a => hr 0x174 0 a.toNat 0 0
  | .taban a => hr 0x175 0 a.toNat 0 0
  | .tpeek a b => w 0x176 0 a.toNat b.toNat 0 0
  | .tfree a => hr 0x177 0 a.toNat 0 0
  | .qshape i => some ⟨0x180, 0, 1, i.toNat⟩
  | .qtld n a o => xr 0x181 n.toNat a.toNat 0 0 (off o)
  | .qclr k a => w 0x182 0 a.toNat 0 0 (vmask k)
  | .qacc q k a b => w 0x183 0 a.toNat (v b) 0 (bit q * 64 + vmask k)
  | .qmerge k a b => w 0x184 0 a.toNat b.toNat 0 (vmask k)
  | .qred k a => w 0x185 0 a.toNat 0 0 (vmask k)
  | .qfin q k a b => w 0x186 0 a.toNat (v b) 0 (bit q * 64 + vmask k)
  | _ => none

/-- The RISC-V words of WARM and WBLK (R373). -/
def encodeHart : Instr → Option Nat
  | .warm r => some (r.toNat * 0x8000 + 0b0001011)
  | .wblk r => some (0x1000 + r.toNat * 128 + 0b0001011)
  | _ => none

end Sys2Proof
end

