-- ==== Sys2Proof/Machine/Real.lean ====
section
/-! DEFINITION. Exact arithmetic on the values of the number formats: signed dyadic numbers with the infinities and NaN,
the format parameters of R164, the rounding of R169 and the correctly rounded functions of R191. -/

namespace Sys2Proof.Num

/-- An exact value: NaN, an infinity, or (-1)^neg * m * 2^e (zero keeps its sign). -/
inductive Val where
  | nan
  | inf (neg : Bool)
  | fin (neg : Bool) (m : Nat) (e : Int)
  deriving DecidableEq, Repr

/-- A floating-point format (R164): exponent bits, mantissa bits, bias, whether it has infinities, its NaN code class
and its largest finite value maxM * 2^maxE. -/
structure Fmt where
  ebits : Nat
  p : Nat
  bias : Int
  hasInf : Bool
  hasNan : Bool
  nanCode : Nat
  maxM : Nat
  maxE : Int
  deriving DecidableEq, Repr

namespace Fmt
def emin (f : Fmt) : Int := 1 - f.bias
def width (f : Fmt) : Nat := 1 + f.ebits + f.p
end Fmt

def f32 : Fmt := ⟨8, 23, 127, true, true, 0x7FC00000, 2 ^ 24 - 1, 104⟩
def f16 : Fmt := ⟨5, 10, 15, true, true, 0x7E00, 2 ^ 11 - 1, 5⟩
def bf16 : Fmt := ⟨8, 7, 127, true, true, 0x7FC0, 2 ^ 8 - 1, 120⟩
def e8m10 : Fmt := ⟨8, 10, 127, true, true, 0x3FE00, 2 ^ 11 - 1, 117⟩
def e5m2 : Fmt := ⟨5, 2, 15, true, true, 0x7E, 7, 13⟩
def e4m3 : Fmt := ⟨4, 3, 7, false, true, 0x7F, 14, 5⟩
def e3m2 : Fmt := ⟨3, 2, 3, false, false, 0, 7, 2⟩
def e2m3 : Fmt := ⟨2, 3, 1, false, false, 0, 15, -1⟩
def e2m1 : Fmt := ⟨2, 1, 1, false, false, 0, 3, 1⟩

/-- The format of a vector float type. -/
def ofTy : FTy → Fmt
  | .f32 => f32
  | .f16 => f16
  | .bf16 => bf16

/-- The value of a code (R164). -/
def decode (f : Fmt) (c : Nat) : Val :=
  let m := c % 2 ^ f.p
  let e := c / 2 ^ f.p % 2 ^ f.ebits
  let s := decide (c / 2 ^ (f.p + f.ebits) % 2 = 1)
  if e = 2 ^ f.ebits - 1 ∧ f.hasInf then (if m = 0 then .inf s else .nan)
  else if e = 2 ^ f.ebits - 1 ∧ f.hasNan ∧ m = 2 ^ f.p - 1 then .nan
  else if e = 0 then .fin s m (f.emin - f.p)
  else .fin s (2 ^ f.p + m) (e - f.bias - f.p)

/-- m * 2^k for an integer k, rounding toward zero. -/
def shl (m : Nat) (k : Int) : Nat :=
  match k with
  | .ofNat n => m * 2 ^ n
  | .negSucc n => m / 2 ^ (n + 1)

/-- The code of a value the format represents, NaN and infinities included (R164); the largest finite code where the
format lacks the infinity. -/
def code (f : Fmt) (v : Val) : Nat :=
  let sgn (b : Bool) : Nat := if b then 2 ^ (f.p + f.ebits) else 0
  match v with
  | .nan => f.nanCode
  | .inf s => sgn s + (2 ^ f.ebits - 1) * 2 ^ f.p
  | .fin s m e =>
    if m = 0 then sgn s
    else
      let top : Int := (Nat.log2 m : Int) + e
      if top < f.emin then sgn s + shl m (e - (f.emin - f.p))
      else sgn s + (top + f.bias).toNat * 2 ^ f.p + (shl m (e - (top - f.p)) - 2 ^ f.p)

/-- Is m1 * 2^e1 greater than m2 * 2^e2? -/
def gtMag (m1 : Nat) (e1 : Int) (m2 : Nat) (e2 : Int) : Bool :=
  let e := min e1 e2
  decide (m2 * 2 ^ (e2 - e).toNat < m1 * 2 ^ (e1 - e).toNat)

/-- Compare magnitudes: is m1 * 2^e1 = m2 * 2^e2? -/
def eqMag (m1 : Nat) (e1 : Int) (m2 : Nat) (e2 : Int) : Bool :=
  let e := min e1 e2
  decide (m2 * 2 ^ (e2 - e).toNat = m1 * 2 ^ (e1 - e).toNat)

/-- Rounding of n = num / den, with a further positive part below one unit of num when sticky, to an integer, for a
value of sign neg (R169). -/
def roundInt (md : RMode) (neg : Bool) (num den : Nat) (sticky : Bool) : Nat :=
  let k := num / den
  let r := num % den
  let exact := r = 0 ∧ !sticky
  match md with
  | .rne =>
    if 2 * r > den ∨ (2 * r = den ∧ (sticky ∨ k % 2 = 1)) then k + 1 else k
  | .rtz => k
  | .rdn => if neg ∧ ¬exact then k + 1 else k
  | .rup => if !neg ∧ ¬exact then k + 1 else k

/-- RND of R169 for a non-zero magnitude m * 2^e, with a further positive part below one unit of m when sticky. -/
def rndMag (f : Fmt) (md : RMode) (neg : Bool) (m : Nat) (e : Int) (sticky : Bool) : Val :=
  let top : Int := (Nat.log2 m : Int) + e
  let q := max top f.emin - f.p
  let k := if q ≤ e then m * 2 ^ (e - q).toNat else roundInt md neg m (2 ^ (q - e).toNat) sticky
  if gtMag k q f.maxM f.maxE then
    match md with
    | .rne => .inf neg
    | .rup => if neg then .fin neg f.maxM f.maxE else .inf neg
    | .rdn => if neg then .inf neg else .fin neg f.maxM f.maxE
    | .rtz => .fin neg f.maxM f.maxE
  else .fin neg k q

/-- RND(x, f, m) of R169. -/
def rnd (f : Fmt) (md : RMode) (v : Val) : Val :=
  match v with
  | .nan => .nan
  | .inf s => .inf s
  | .fin s m e => if m = 0 then .fin s 0 0 else rndMag f md s m e false

/-- RNE(x) of R169. -/
def rne (v : Val) : Val := rnd f32 .rne v

/-- SAT(x, f) of R169. -/
def sat (f : Fmt) (v : Val) : Val :=
  match v with
  | .nan => .nan
  | .inf s => .fin s f.maxM f.maxE
  | .fin s m e => if gtMag m e f.maxM f.maxE then .fin s f.maxM f.maxE else .fin s m e

/-! ## Exact operations -/

def neg : Val → Val
  | .nan => .nan
  | .inf s => .inf (!s)
  | .fin s m e => .fin (!s) m e

def abs : Val → Val
  | .nan => .nan
  | .inf _ => .inf false
  | .fin _ m e => .fin false m e

def isNan : Val → Bool
  | .nan => true
  | _ => false

def isZero : Val → Bool
  | .fin _ 0 _ => true
  | _ => false

def isNeg : Val → Bool
  | .nan => false
  | .inf s => s
  | .fin s _ _ => s

/-- x * y: NaN for 0 * inf (R189). -/
def mul : Val → Val → Val
  | .nan, _ => .nan
  | _, .nan => .nan
  | .inf s, .inf t => .inf (s != t)
  | .inf s, .fin t m _ => if m = 0 then .nan else .inf (s != t)
  | .fin t m _, .inf s => if m = 0 then .nan else .inf (s != t)
  | .fin s m e, .fin t n d => .fin (s != t) (m * n) (e + d)

/-- The signed integer of a finite value in units of 2^e. -/
def units (e : Int) : Val → Int
  | .fin s m d => let k : Int := (shl m (d - e) : Nat); if s then -k else k
  | _ => 0

/-- The exponent of a finite value. -/
def expo : Val → Int
  | .fin _ _ d => d
  | _ => 0

/-- The value of an integer count of units of 2^e, not zero-signed. -/
def ofUnits (k e : Int) : Val := .fin (decide (k < 0)) k.natAbs e

/-- The exact sum of two or more terms with the sign of a zero sum as R169 states it for mode md. -/
def sum (md : RMode) (ts : List Val) : Val :=
  if ts.any isNan then .nan
  else
    let pinf := ts.any fun v => match v with | .inf false => true | _ => false
    let ninf := ts.any fun v => match v with | .inf true => true | _ => false
    if pinf && ninf then .nan
    else if pinf then .inf false
    else if ninf then .inf true
    else
      let e := (ts.map expo).foldl min ((ts.map expo).headD 0)
      let k := (ts.map (units e)).foldl (· + ·) 0
      if k = 0 then
        let allNeg := ts.all fun v => isZero v && isNeg v
        let allPos := ts.all fun v => isZero v && !isNeg v
        let s := if allNeg then true else if allPos then false else (match md with | .rdn => true | _ => false)
        .fin s 0 e
      else ofUnits k e

def add (md : RMode) (x y : Val) : Val := sum md [x, y]

/-- Order of two values that are not NaN, with -0 below +0: x < y. -/
def lt (x y : Val) : Bool :=
  match x, y with
  | .nan, _ => false
  | _, .nan => false
  | .inf s, .inf t => s && !t
  | .inf s, .fin _ _ _ => s
  | .fin _ _ _, .inf t => !t
  | .fin s m e, .fin t n d =>
    if m = 0 ∧ n = 0 then s && !t
    else
      let q := min e d
      decide (units q (.fin s m e) < units q (.fin t n d))

/-- Equality of values, -0 and +0 equal, NaN equal to nothing. -/
def eq (x y : Val) : Bool :=
  match x, y with
  | .nan, _ => false
  | _, .nan => false
  | .inf s, .inf t => s == t
  | .inf _, .fin _ _ _ => false
  | .fin _ _ _, .inf _ => false
  | .fin s m e, .fin t n d =>
    let q := min e d
    decide (units q (.fin s m e) = units q (.fin t n d))

/-- Less than with -0 equal to +0 (R193). -/
def ltCmp (x y : Val) : Bool := lt x y && !eq x y

def minV (x y : Val) : Val := if isNan x || isNan y then .nan else if lt y x then y else x
def maxV (x y : Val) : Val := if isNan x || isNan y then .nan else if lt x y then y else x

/-- An integer as an exact value (+0 for zero). -/
def ofInt (k : Int) : Val := .fin (decide (k < 0)) k.natAbs 0

/-- A finite value rounded to an integer by a mode (R178). -/
def toIntMode (md : RMode) : Val → Int
  | .fin s m e =>
    let k : Nat := match e with
      | .ofNat n => m * 2 ^ n
      | .negSucc n => roundInt md s m (2 ^ (n + 1)) false
    if s then -(k : Int) else k
  | _ => 0

/-! ## Division, roots and the transcendental functions (R191) -/

/-- Quotient of two finite non-zero magnitudes, rounded. -/
def divMag (f : Fmt) (md : RMode) (s : Bool) (m : Nat) (e : Int) (n : Nat) (d : Int) : Val :=
  let k := f.p + 4 + Nat.log2 n
  let num := m * 2 ^ k
  rndMag f md s (num / n) (e - d - k) (decide (num % n ≠ 0))

/-- VDIV: x / y (R191). -/
def div (f : Fmt) (md : RMode) (x y : Val) : Val :=
  match x, y with
  | .nan, _ => .nan
  | _, .nan => .nan
  | .inf _, .inf _ => .nan
  | .inf s, .fin t _ _ => .inf (s != t)
  | .fin s _ _, .inf t => .fin (s != t) 0 0
  | .fin s m e, .fin t n d =>
    if n = 0 then (if m = 0 then .nan else .inf (s != t))
    else if m = 0 then .fin (s != t) 0 0
    else divMag f md (s != t) m e n d

/-- One binary digit of the integer root per unit of fuel. -/
def isqrtGo (n : Nat) : Nat → Nat → Nat
  | 0, r => r
  | k + 1, r =>
    let r' := r + 2 ^ k
    isqrtGo n k (if r' * r' ≤ n then r' else r)

/-- The integer square root. -/
def isqrt (n : Nat) : Nat := isqrtGo n (Nat.log2 n / 2 + 1) 0

/-- The root of a positive magnitude, rounded. -/
def sqrtMag (f : Fmt) (md : RMode) (m : Nat) (e : Int) : Val :=
  let odd := e % 2 ≠ 0
  let m1 := if odd then 2 * m else m
  let e1 := if odd then e - 1 else e
  let k := f.p + 4
  let n := m1 * 2 ^ (2 * k)
  let r := isqrt n
  rndMag f md false r (e1 / 2 - k) (decide (r * r ≠ n))

def sqrt (f : Fmt) (md : RMode) : Val → Val
  | .nan => .nan
  | .inf s => if s then .nan else .inf false
  | .fin s m e => if m = 0 then .fin s 0 0 else if s then .nan else sqrtMag f md m e

/-- 1 / sqrt x (R191). -/
def rsqrt (f : Fmt) (md : RMode) : Val → Val
  | .nan => .nan
  | .inf s => if s then .nan else .fin false 0 0
  | .fin s m e =>
    if m = 0 then .inf s
    else if s then .nan
    else
      let odd := e % 2 ≠ 0
      let m1 := if odd then 2 * m else m
      let e1 := if odd then e - 1 else e
      -- 1 / sqrt (m1 * 2^e1) = sqrt (2^(2k) / m1) * 2^(-k - e1/2)
      let k := f.p + 6 + Nat.log2 m1
      let n := 2 ^ (2 * k) / m1
      let r := isqrt n
      rndMag f md false r (-(k : Int) - e1 / 2) (decide (r * r * m1 ≠ 2 ^ (2 * k)))

/-- floor (pi * 2^576) and floor (ln 2 * 2^576). -/
def piScaled : Nat := 777011372277319379760551044304721576357570401468367401332419668993315513568219913966833707518867750421784718580603851674214073316207047471152231174804351472944300570330135323
def ln2Scaled : Nat := 171436370447841751810397033449194206923863603888853761105325500776960719192244778072115017417183862947462110757002900991935266221463676335241802912555763396667947900633540805
def piAt (p : Nat) : Nat := piScaled / 2 ^ (576 - p)
def ln2At (p : Nat) : Nat := ln2Scaled / 2 ^ (576 - p)

/-- sum of t^i / i! from i on, in fixed point with p fraction bits, t and the running term in that scale. -/
def expSeries (p t : Nat) : Nat → Nat → Nat → Nat → Nat
  | 0, _, _, acc => acc
  | fuel + 1, i, term, acc =>
    let term' := term * t / 2 ^ p / i
    if term' = 0 then acc else expSeries p t fuel (i + 1) term' (acc + term')

/-- exp2 (f * 2^-d) for a fraction below 1, in units of 2^-256. -/
def exp2Frac (f d : Nat) : Nat :=
  let t := f * ln2At 288 / 2 ^ d
  (expSeries 288 t 120 1 (2 ^ 288) (2 ^ 288)) / 2 ^ 32

/-- VEXP2 (R191). -/
def exp2 (f : Fmt) (md : RMode) : Val → Val
  | .nan => .nan
  | .inf s => if s then .fin false 0 0 else .inf false
  | .fin s m e =>
    if m = 0 then .fin false 1 0
    else
      let x : Val := .fin s m e
      if gtMag m e 1024 0 then
        (if s then rndMag f md false 1 (-2000) true else rndMag f md false 1 2000 true)
      else
        match e with
        | .ofNat _ => rnd f md (.fin false 1 (units 0 x))
        | .negSucc d' =>
          let d := d' + 1
          let k := units e x
          let n := k / (2 ^ d : Nat)
          let fr := (k % (2 ^ d : Nat)).toNat
          if fr = 0 then rnd f md (.fin false 1 n)
          else rndMag f md false (exp2Frac fr d) (n - 256) true

/-- sum of z^(2i+1) / (2i+1), in fixed point with p fraction bits. -/
def atanhSeries (p z2 : Nat) : Nat → Nat → Nat → Nat → Nat
  | 0, _, _, acc => acc
  | fuel + 1, i, pw, acc =>
    let pw' := pw * z2 / 2 ^ p
    if pw' = 0 then acc else atanhSeries p z2 fuel (i + 2) pw' (acc + pw' / (i + 2))

/-- log2 of m / 2^(log2 m), in units of 2^-256. -/
def log2Frac (m : Nat) : Nat :=
  let p := 320
  let one := 2 ^ Nat.log2 m
  let z := (m - one) * 2 ^ p / (m + one)
  let ln := 2 * atanhSeries p (z * z / 2 ^ p) 200 1 z z
  ln * 2 ^ 256 / ln2At p

/-- VLOG2 (R191). -/
def log2 (f : Fmt) (md : RMode) : Val → Val
  | .nan => .nan
  | .inf s => if s then .nan else .inf false
  | .fin s m e =>
    if m = 0 then .inf true
    else if s then .nan
    else
      let k : Int := (Nat.log2 m : Int) + e
      if m = 2 ^ Nat.log2 m then rnd f md (ofInt k)
      else
        let r : Int := k * (2 ^ 256 : Nat) + (log2Frac m : Int)
        rndMag f md (decide (r < 0)) (if r < 0 then r.natAbs - 1 else r.natAbs) (-256) true

/-- Alternating series of sine (i starts at 1) or cosine (i starts at 0): term, next index, sign. -/
def trigSeries (p a2 : Nat) : Nat → Nat → Nat → Bool → Int → Int
  | 0, _, _, _, acc => acc
  | fuel + 1, i, term, sub, acc =>
    let term' := term * a2 / 2 ^ p / ((i + 1) * (i + 2))
    if term' = 0 then acc
    else trigSeries p a2 fuel (i + 2) term' (!sub) (if sub then acc - term' else acc + term')

/-- sin (pi/2 * v / 2^d) for 0 < v / 2^d ≤ 1/2: numerator and fraction bits. -/
def sinQ (v d : Nat) : Nat × Nat :=
  let p := 220 + (d - Nat.log2 v)
  let a := v * piAt p / 2 ^ (d + 1)
  ((trigSeries p (a * a / 2 ^ p) 100 1 a true a).toNat, p)

/-- cos (pi/2 * v / 2^d) for 0 < v / 2^d ≤ 1/2, below 1. -/
def cosQ (v d : Nat) : Nat × Nat :=
  let p := 320
  let a := v * piAt p / 2 ^ (d + 1)
  (min (trigSeries p (a * a / 2 ^ p) 100 0 (2 ^ p) true (2 ^ p : Nat)).toNat (2 ^ p - 1), p)

/-- The sine (or with cosine, the cosine) of k / 2^d turns, 0 ≤ k < 2^d; exact zeros are none. -/
def turn (f : Fmt) (md : RMode) (cosine : Bool) (k d : Nat) : Option Val :=
  let k4 := 4 * k + (if cosine then 2 ^ d else 0)
  let quad := k4 / 2 ^ d % 4
  let u := k4 % 2 ^ d
  -- value is sin of (quad + u / 2^d) quarter turns
  let s := decide (2 ≤ quad)
  let rising := quad % 2 = 0
  if u = 0 then (if rising then none else some (.fin s 1 0))
  else
    let useSin := if 2 * u ≤ 2 ^ d then rising else ¬rising
    let v := if 2 * u ≤ 2 ^ d then u else 2 ^ d - u
    let (n, p) := if useSin then sinQ v d else cosQ v d
    some (rndMag f md s n (-(p : Int)) true)

/-- VSIN and VCOS: x in turns (R191). -/
def trig (f : Fmt) (md : RMode) (cosine : Bool) : Val → Val
  | .nan => .nan
  | .inf _ => .nan
  | .fin s m e =>
    let zero : Val := .fin (s && !cosine) 0 0
    match e with
    | .ofNat _ => (turn f md cosine 0 0).getD zero
    | .negSucc d' =>
      let d := d' + 1
      let k := (units e (.fin s m e) % (2 ^ d : Nat)).toNat
      (turn f md cosine k d).getD zero

/-! ## Powers with a rational exponent (R402) -/

/-- The greatest k below 2^fuel times the starting value with k^n at most x, found bit by bit from the top. -/
def rootGo (n x : Nat) : Nat → Nat → Nat
  | 0, acc => acc
  | i + 1, acc => if (acc + 2 ^ i) ^ n ≤ x then rootGo n x i (acc + 2 ^ i) else rootGo n x i acc

/-- RNE of (m * 2^e)^(num/den), or of its reciprocal with inv, for a positive magnitude. -/
def powMag (num den : Nat) (inv : Bool) (m : Nat) (e : Int) : Val :=
  let mm := m ^ num
  let ee := e * num
  let b : Int := (Nat.log2 mm : Int) + ee
  let l : Int := (if inv then -b else b) / (den : Int)
  -- a result of about 64 bits, in units of 2^-t
  let t : Int := 64 - l
  let k := t * den
  let (x, exact) :=
    if inv then
      let sh := k - ee
      let nmr := if 0 ≤ sh then 2 ^ sh.toNat else 1
      let dnm := if 0 ≤ sh then mm else mm * 2 ^ (-sh).toNat
      (nmr / dnm, decide (nmr % dnm = 0))
    else
      let sh := k + ee
      if 0 ≤ sh then (mm * 2 ^ sh.toNat, true)
      else (mm / 2 ^ (-sh).toNat, decide (mm % 2 ^ (-sh).toNat = 0))
  let r := rootGo den x 68 0
  rndMag f32 .rne false r (-t) (!(exact && decide (r ^ den = x)))

/-- RNE(pow(r, num/den)), or of the negated exponent with inv; none for a negative base (R402). -/
def pow (num den : Nat) (inv : Bool) : Val → Option Val
  | .nan => some .nan
  | .inf s => if s then none else some (if inv then .fin false 0 0 else .inf false)
  | .fin s m e =>
    if m = 0 then some (if inv then .inf false else .fin false 0 0)
    else if s then none
    else some (powMag num den inv m e)

end Sys2Proof.Num
end

