-- ==== Sys2Proof/Config.lean ====
section
/-! DEFINITION. What the manual leaves to the implementation or leaves open: constants without a body, of which
nothing can be proved but that they exist. Each is named in the assumption log. -/

namespace Sys2Proof.Config

/-- The opaque wait-condition bytes that SAVEC writes at record bytes 232 to 255 (R355), 24 bytes; the argument is the
value of State.freeCount at the save. DESIGN CHOICE, log entry 11. -/
opaque waitBytes : Nat → BitVec 192

/-- The bytes in a save area that stand for what the manual gives no form of bytes: queues, registrations, slots, latches, tables, streams and
wait conditions (R357); the argument is the value of State.freeCount at the save. DESIGN CHOICE, log entry 70. -/
opaque saveImage : Nat → List (BitVec 8)

/-- SM2 signature check of the security processor: key, message, signature (R387, R388, R393). The algorithm is an
external standard. DESIGN CHOICE, log entry 12. -/
opaque sm2Verify : List (BitVec 8) → List (BitVec 8) → List (BitVec 8) → Bool

/-- SM2 signature made with the identity private key (R388, R392): message to 64 signature bytes. DESIGN CHOICE, log entry 12. -/
opaque sm2Sign : List (BitVec 8) → List (BitVec 8)

/-- SM3 digest (R387, R388, R393). DESIGN CHOICE, log entry 12. -/
opaque sm3 : List (BitVec 8) → List (BitVec 8)

/-- Challenge bytes issued by the security processor (R387); the argument counts challenges. DESIGN CHOICE, log entry 12. -/
opaque challenge : Nat → List (BitVec 8)

/-- The Oprid keys held in the fuses (R387, R393). DESIGN CHOICE, log entry 12. -/
opaque debugKey : List (BitVec 8)

/-- The Oprid image-signing key (R393). DESIGN CHOICE, log entry 12. -/
opaque imageKey : List (BitVec 8)

/-- The 512 bytes of the module's identity store, which differ from part to part (R392): the byte at each offset.
DESIGN CHOICE, log entry 13. -/
opaque identityByte : Nat → BitVec 8

/-- Oprid's SM2 signature, r then s, with which the identity store is made (R392): message to 64 signature bytes. DESIGN CHOICE, log entry
12. -/
opaque opridSign : List (BitVec 8) → List (BitVec 8)

/-- Die temperatures and rail powers that PLDM monitoring reports (R394); the argument is State.freeCount.
DESIGN CHOICE, log entry 14. -/
opaque sensor : Nat → Nat → BitVec 64

/-- The save bytes of an evicted queue's control block, "hart state, opaque" (R375). DESIGN CHOICE, log entry 15. -/
opaque queueSave : Nat → BitVec 320

/-- Where Finsin puts the control block of queue 0 (R375, R376): the block of 4,096 bytes of die 0's memory, counted modulo its
size. DESIGN CHOICE, log entry 32. -/
opaque qcbBlock : Nat


/-- What Finsin writes into the guest tables for a tenant (R307): the pairs of home package and home tenant accepted as the tenant, and the
packages that accept the tenant's threads. DESIGN CHOICE, log entry 106. -/
opaque guestAccept : Nat → List (Nat × Nat)
opaque guestOut : Nat → List Nat

/-- What the tables of other packages hold of third ones: home package, home tenant, accepting package (R306, R310). DESIGN CHOICE, log
entry 106. -/
opaque guestThird : List (Nat × Nat × Nat)

/-- What bring-up finds: the packages of the domain (R403), and the ports that Finsin sets to cut-through (R301). DESIGN CHOICE, log entry
34. -/
opaque present : List Nat
opaque cutThrough : Nat → Bool

/-- How many packets of one class and hop lane a receiver takes before it must return a credit (R303), at least one. DESIGN CHOICE, log entry
122. -/
opaque laneCredit : Nat

/-- The pace, in nanoseconds between packets, that a queue pair takes after an ECN mark (R366): the spec states no law of it. The argument is
State.freeCount. DESIGN CHOICE, log entry 124. -/
opaque ecnGap : Nat → Nat

/-- The bound within which what can complete does (R406), in nanoseconds. DESIGN CHOICE, log entry 46. -/
opaque latest : Nat

/-- The lanes of a vector appended to an outbound stream that a masked operation leaves unwritten: the spec states no
earlier value for them (R183, R138). The argument is State.freeCount. DESIGN CHOICE, log entry 16. -/
opaque freeVector : Nat → BitVec 4096

/-- How many of the additions still landing a read of a tile that is not complete shows for an element (R242): the
arguments are State.freeCount and the element. DESIGN CHOICE, log entry 18. -/
opaque landed : Nat → Nat → Nat

end Sys2Proof.Config
end

