-- ==== Sys2Proof/Machine/State.lean ====
section
/-! DEFINITION. The state of one Z9 package as plain data: everything the spec gives the machine, the accesses and messages in transit,
and the few fields of the model's own (State.sched, inbox, nextId, freeCount, cur, subj, snap, began, second, since and bar0Reads, the
threads' npc and visit, and the numbers of registrations), and the machine right after reset. -/

namespace Sys2Proof.Machine

open Sys2Proof

/-! ## Sparse tables -/

/-- A sparse table: keys strictly rising, one entry per key; a key not listed holds its reset value. -/
abbrev FMap (α : Type) := List (Nat × α)

/-- A memory: its bytes, and the 8-byte words whose content is uncorrectable (false) or poisoned (true). An address
not listed in cells reads 0 (DESIGN CHOICE, log entry 4). -/
structure Mem where
  cells : List Host.Cell
  bad : FMap Bool
  deriving DecidableEq, Repr

def Mem.empty : Mem := { cells := [], bad := [] }

/-! ## Threads (R84 to R112, R336) -/

/-- TSTATE.STATE (R86). -/
inductive TState where
  | off | run | parked | wfw | halted | suspended | away | empty
  deriving DecidableEq, Repr

/-- Which register file or register a mark or an operand names. -/
inductive RegRef where
  | g (i : Nat)
  | v (i : Nat)
  | m (i : Nat)
  | q (i : Nat)
  | lc (i : Nat)
  | c (i : Nat)
  /-- a system register, by its selector (R347) -/
  | csr (n : Nat)
  deriving DecidableEq, Repr

/-- A pending register (R62): readable from cycle `ready` of its core on, or, with none, when the reply or receipt
comes. -/
structure Mark where
  reg : RegRef
  ready : Option Nat
  deriving DecidableEq, Repr

/-- What a fault records (R334 to R336); `kill` marks the consumption of a bad word (R340). -/
structure FaultRec where
  cause : Nat
  sub : Nat
  faddr : Word
  fprog : Nat
  kill : Bool
  deriving DecidableEq, Repr

/-- What a thread that issues nothing waits for (R88, R124). -/
inductive Wait where
  /-- the line fetch of R64 -/
  | line
  /-- an operation in flight: its reply (parked), its acceptance at the port (held) or its acknowledgement (held) -/
  | reply (op : Nat)
  | accept (op : Nat)
  | ack (op : Nat)
  /-- the die's page walker, with the number of the request in order of arrival (R119) -/
  | walk (tenant : Nat) (va : Word) (n : Nat)
  /-- a condition of the bundle's own that does not hold yet; the bundle is executed when it does -/
  | again
  /-- the vector of a stream, a channel's room or an entry of the matrix queue, without which the bundle is not issued (R136, R138, R199) -/
  | issue
  /-- the bundle's place at the core's port: earlier accesses are still to be performed (R122) -/
  | port
  /-- a grid load: descriptor address and the cycle at which it parked (R272) -/
  | grid (desc since : Nat)
  /-- the ingress horizon of R148: every packet accepted up to this number, which is known at the end of the moment's cycle -/
  | horizon (n : Option Nat)
  /-- the message engine's reads of an extent at another package, after which the bundle goes on (R326) -/
  | reads
  /-- a receive of the message engine whose bytes are stored: its slot is still to free, and its result to send (R330, R331) -/
  | receive
  /-- a SUSP or KILL: the target's state is still to settle (R351, R353) -/
  | stop (target : Nat)
  /-- a CPCAN: the operation of this identifier is still to settle (R291) -/
  | cancel (xid : Nat)
  /-- the answer of a unit of the core: copy engine, matrix unit, halo engine, message engine, mean unit -/
  | unit (id : Nat)
  /-- the argument and format reads of its dispatch (R96) -/
  | dispatch
  deriving DecidableEq, Repr

/-! ## Stream registers (R132 to R139) -/

/-- The boundary rule of a CONV stream. -/
inductive ConvRule where
  | zero | const (w : Word32) | reflect | clamp
  deriving DecidableEq, Repr

/-- What a stream register is bound to. -/
inductive StreamDesc where
  | affine (out : Bool) (sp : Space) (len : Nat) (base : Word) (n0 n1 : Nat) (s0 s1 s2 : Word32)
  | conv (sp : Space) (rule : ConvRule) (base : Word) (n h w cw oh ow kh kw sh sw dh dw ph pw : Nat)
  /-- source end of a channel: sink core and q, slot size, allowance, ring base, bytes of the slot being filled, full
  slots still to publish, slots published in all, slots not yet released -/
  | chanOut (sink sinkQ size allow ring : Nat) (filling : List Byte) (ready : List (List Byte)) (published unreleased : Nat)
  /-- sink end: source core and q, slot size, allowance, ring base, slots visible, slots read, part of the slot -/
  | chanIn (source sourceQ size allow ring : Nat) (visible read part : Nat)
  deriving DecidableEq, Repr

/-- A vector fetched ahead with its tail bits, or the fault its consumer takes (R139). -/
structure Fetched where
  data : VWord
  tail : Mask128
  fault : Option FaultRec
  deriving DecidableEq, Repr

/-- A bound stream register. -/
structure Stream where
  thread : Nat
  desc : StreamDesc
  pos : Nat
  tail : Mask128
  fetched : List Fetched
  /-- vectors given to an operation of the matrix unit that has not been given all of its own: their tail bits (R210) -/
  lent : List Mask128
  /-- operation number at the binding: accesses of the core issued before it precede every fetch (R139) -/
  bound : Nat
  deriving DecidableEq, Repr

/-! ## The issue of a bundle -/

/-- A CSET of the last cycles (R66). -/
structure CsetRec where
  cycle : Nat
  reg : Nat
  val : Word
  deriving DecidableEq, Repr

inductive Rescale where
  | none | mult | add
  deriving DecidableEq, Repr

/-- A loaded table pair (R249, R250): points as FP32 bits, 257 each. -/
structure MeanPair where
  elo : Word32
  ehi : Word32
  xlo : Word32
  xhi : Word32
  rescale : Rescale
  f : List Word32
  g : List Word32
  deriving DecidableEq, Repr

/-- What a bundle that is executed after its issue keeps of it: the cycle, its place in the order of the core's operations, its
operations, and the decode tables, mean pairs, shared and stream registers that it reads (R27, R62, R66, R122, R138, R176). -/
structure Issue where
  cycle : Nat
  place : Nat
  ops : List Instr
  /-- the bundle is executed after its issue -/
  old : Bool
  q : FMap Stream
  tabA : FMap (BitVec 19)
  tabB : FMap (BitVec 19)
  pairs : FMap (Option MeanPair)
  c : FMap Word
  csets : List CsetRec
  deriving DecidableEq, Repr

/-- A result of a bundle whose other half has still to answer: register, value, and the cycle from which on it can be read, where it comes
with one (R62, R404). -/
structure Late where
  reg : RegRef
  val : VWord
  ready : Option Nat
  deriving DecidableEq, Repr

/-- The copy of a line that a thread holds (R42). -/
structure Line where
  base : Nat
  bytes : BitVec 512
  deriving DecidableEq, Repr

/-- One hardware thread. -/
structure Thread where
  wl : Nat
  gbase : Nat
  vl : Nat
  vbase : Nat
  node : Word32
  gangDis : Bool
  grole : Nat
  gsize : Nat
  st : TState
  pc : Word32
  /-- the model's own: the next PC of the bundle being executed (DESIGN CHOICE, log entry 8) -/
  npc : Word
  line : Option Line
  m : FMap Mask128
  lc0 : Word32
  lc1 : Word32
  fmta : BitVec 4
  fmtb : BitVec 4
  scla : Word32
  sclb : Word32
  tscl : Word32
  qsp : BitVec 16
  uipc : Word32
  uixid : BitVec 16
  uiIn : Bool
  uiHpc : Word32
  /-- pending user interrupts, oldest first: handler PC and identifier (R295) -/
  uiPend : List (Word32 × BitVec 16)
  fcause : BitVec 8
  fsub : BitVec 8
  faddr : Word
  fpc : Word32
  fprog : Word
  killed : Bool
  /-- the fault has no faulting bundle: line entry, transfer target or dispatch (R352) -/
  noBundle : Bool
  /-- the fault was a dispatch fault (R96) -/
  dispatch : Bool
  /-- copy shadow registers FROM to ARG (R284) -/
  cp : FMap Word
  pend : List Mark
  wait : List Wait
  /-- the half whose effects wait for the other half's answer (R404) -/
  withheld : Option Instr
  /-- the results of the bundle's own halves that are written as it retires (R404) -/
  late : List Late
  /-- the vectors that the bundle takes as it retires: stream registers with their positions at its issue (R138) -/
  takes : List (Nat × Nat)
  /-- the SWAPT or MMA of the bundle, by its number, whose effects wait for the other half's answer (R404) -/
  holding : Option Nat
  /-- the blocks of ULM that the withheld half has read at the bundle's place: address, bytes, the bad word among them (R398, R404) -/
  blocks : List (Nat × List Byte × Option (Bool × Nat))
  /-- the base address of a FILL whose first blocks have been filled (R130) -/
  fillBase : Option Word
  /-- a fault taken whose pending results are still to be written (R335) -/
  halting : Option FaultRec
  /-- the bundle that is to be executed, or of which a half is, after its issue -/
  issue : Option Issue
  lastIssue : Option Nat
  holdUntil : Nat
  /-- gang: the leader of a follower, the followers of a leader, those that have still to execute the last bundle,
  whether a member has trapped on it, and the bundles forwarded to a follower with their arrival cycles (R100, R103) -/
  leader : Option Nat
  members : List Nat
  gangLeft : List Nat
  gangTrap : Bool
  forwarded : List (Nat × List Instr)
  /-- a follower's bundle that has arrived and executes in this step; a leader's DISBAND or DONE ends the gang when every
  member has executed its bundle (R102) -/
  due : List Instr
  gangEnd : Bool
  /-- migration: the home of a guest with its tenant, the place of a thread that is away (R306 to R313) -/
  home : Option (Loc × Nat)
  awayAt : Option Loc
  /-- a SUSP (false) or a KILL (true) waits for the thread's next bundle boundary (R351, R353) -/
  stopAsk : Option Bool
  /-- a recall has been sent for this home slot (R313) -/
  recalled : Bool
  /-- the supervisor's thread whose instruction takes effect as soon as this thread is home (R313, R344) -/
  wanted : Option Nat
  /-- the migration packet of a guest whose access is still to be made on arrival -/
  arrived : Option MigPacket
  /-- a guest's line read at its home core, sent and not answered (R309) -/
  fetch : Option Nat
  /-- a wait condition to re-arm at home: address and target of a WAITGEN (R313) -/
  rearm : Option (Word × Word32)
  /-- the model's own: how often the thread has left its home (DEDUCED, log entry 105) -/
  visit : Nat
  deriving DecidableEq, Repr

/-- Copy shadow reset values (R284): LEN1 and LEN2 are 1. -/
def cpReset (i : Nat) : Word := if i = 3 ∨ i = 4 then 1 else 0

/-- Thread n of a core right after reset (R85, R86). -/
def Thread.reset (n : Nat) : Thread :=
  { wl := if n = 63 then 4 else if 56 ≤ n then 2 else 0
    gbase := if n = 63 then 0 else if 56 ≤ n then 4 + 2 * (n - 56) else 0
    vl := if n = 63 then 2 else 0
    vbase := 0
    node := 0xFFFFFFFF#32
    gangDis := false, grole := 0, gsize := 0
    st := if n = 63 then .wfw else if 56 ≤ n then .empty else .off
    pc := 0, npc := 0, line := none, m := [], lc0 := 0, lc1 := 0
    fmta := 8, fmtb := 8, scla := 0, sclb := 0, tscl := 0x3F800000#32, qsp := 0x0010#16
    uipc := 0, uixid := 0, uiIn := false, uiHpc := 0, uiPend := []
    fcause := 0, fsub := 0, faddr := 0, fpc := 0, fprog := 0, killed := false, noBundle := false, dispatch := false
    cp := [], pend := [], wait := [], withheld := none, late := [], takes := [], holding := none, blocks := [], fillBase := none
    halting := none, issue := none, lastIssue := none, holdUntil := 0
    leader := none, members := [], gangLeft := [], gangTrap := false, forwarded := [], due := [], gangEnd := false
    home := none, awayAt := none, stopAsk := none, recalled := false, wanted := none, arrived := none, fetch := none, rearm := none, visit := 0 }

/-! ## Memory places, accesses in flight, translation -/

/-- Where a physical access goes (R17, R18, R115). -/
inductive Place where
  /-- device memory of the package: die << 45 | die offset -/
  | dm (a : Nat)
  /-- a local buffer of a core -/
  | buf (core : Nat) (sp : Space) (off : Nat)
  /-- the ACC diagnostic window -/
  | acc (core off : Nat)
  /-- the core system register area -/
  | csr (core off : Nat)
  /-- another package: the global physical address -/
  | remote (gpa : Nat)
  /-- unpopulated -/
  | hole
  deriving DecidableEq, Repr

/-- What an access does at its bank. -/
inductive AccKind where
  | load (n : Nat)
  | store (data : List Byte)
  /-- a store of the copy engine to some bytes of a block, whose others stay (R297) -/
  | masked (data : List (Option Byte))
  | atomic (op : AtomicOp)
  deriving DecidableEq, Repr

/-- What becomes of an operation's answers. -/
inductive OpWhat where
  | ld (t : IntTy) (a : Nat)
  | ldv (a : VOp)
  | ldx (t : IntTy) (a : VOp) (lanes : List Nat)
  | fillG (first : Nat)
  | fillV (first : Nat)
  | store
  | atomic (a : Option Nat)
  | loadc (target : Nat)
  | dtld (b : Bool)
  | qtld (n : Nat)
  | none
  deriving DecidableEq, Repr

/-- One access between its issue and its performance (R124, R147). -/
structure Access where
  id : Nat
  /-- its place in the issue order of its core: that of its bundle (R122) -/
  turn : Nat := id
  /-- the operation it is a piece of, and which piece; of a packet from the link, its acceptance number -/
  op : Nat := 0
  part : Nat := 0
  /-- issuing thread key, or none for a unit -/
  thr : Option Nat := none
  /-- core key whose port it leaves through; 4096 + d for the other units of die d, 4104 for those of the I/O die -/
  core : Nat
  tenant : Nat
  /-- virtual address (or offset) for FADDR -/
  va : Word
  place : Place
  kind : AccKind
  relaxed : Bool := false
  ord : Bool := false
  /-- release: not sent before the thread's earlier stores are acknowledged at this scope -/
  rel : Option Scope := none
  /-- node to decrement after the bank acknowledgement (.sig) -/
  sig : Option Nat := none
  /-- a decrement: the home of the thread that has issued it (R142), and whether it goes with a `.sig` store (R303) -/
  asker : Option Loc := none
  posted : Bool := false
  /-- an atomic that is an acquire at system scope, performed at another package (R148) -/
  acq : Bool := false
  /-- at another package: sent over the link; its route acknowledgement has come -/
  routeAck : Bool := false
  /-- the port it left through, and the packages on its way -/
  via : Option (Nat × List Nat) := none
  /-- WAITGEN held at the engine: cycle of its next presentation -/
  held : Option Nat := none
  /-- a request of another package: where the answer goes, with the requester's number -/
  back : Option (Loc × Nat) := none
  /-- performed: the answer on its way back -/
  ans : Option AtomicAns := none
  /-- the ingress horizon that the answer to another package waits for, as in Wait.horizon -/
  horizon : Option (Option Nat) := none
  /-- a store that a cut-through port has passed on: port and segment counter, until the tag has checked (R316) -/
  unchecked : Option (Nat × Nat) := none
  /-- a packet from the link: its source and number -/
  pkt : Option (Nat × Nat) := none
  deriving DecidableEq, Repr

/-- An operation of a thread that has pieces in flight: what to do with the answers, the pieces still out, the data
that came. -/
structure MemOp where
  id : Nat
  thr : Nat
  what : OpWhat
  left : Nat
  got : FMap (List Byte)
  relaxed : Bool
  acqSys : Bool
  badWord : Option (Bool × Word)
  deriving DecidableEq, Repr

/-- A translation held in a TLB (R117 to R120). -/
structure TlbEntry where
  tenant : Nat
  base : Nat
  size : Nat
  phys : Nat
  at' : Bool
  wr : Bool
  rd : Bool
  deriving DecidableEq, Repr

/-! ## Decode tables (R172 to R176) -/

/-- A DTLD whose table has been read and is not yet replaced. -/
structure TabLoad where
  thread : Nat
  b : Bool
  entries : FMap (BitVec 19)
  /-- its place in issue order: MMA and MMAS entries of the matrix queue with an id below this one still decode with the old table -/
  issued : Nat
  /-- the cycle in which the table is built (R175) -/
  due : Nat
  deriving DecidableEq, Repr

/-- Decode tables A and B: entries not listed are +0. -/
structure VecTables where
  a : FMap (BitVec 19)
  b : FMap (BitVec 19)
  loading : List TabLoad
  deriving DecidableEq, Repr

def VecTables.reset : VecTables := { a := [], b := [], loading := [] }

/-! ## Matrix unit (R198 to R219) -/

/-- A latch: 256 contraction rows of 32 E8M10 values (element j of a row at bits 19j); rows not listed hold +0. A
marked row was filled from a bad word: poisoned or not, and its address (R219). -/
structure Latch where
  rows : FMap (BitVec 608)
  kind : Bool
  marks : FMap (Bool × Word)
  deriving DecidableEq, Repr

def Latch.reset : Latch := { rows := [], kind := false, marks := [] }

inductive IncState where
  | empty | filling | received
  deriving DecidableEq, Repr

/-- Where the A operand of a contribution comes from. -/
inductive ASource where
  | ab (addr : Nat)
  /-- a stream register: vectors needed and delivered so far, tail bits of the last, first fault -/
  | stream (q need : Nat) (got : List VWord)
  deriving DecidableEq, Repr

/-- An operation in the command queue. -/
inductive MxOp where
  | mma (src : ASource) (n : Nat) (metaAt : Option Nat) (fmta : BitVec 4) (intMode : Bool) (scla sclb : Word32)
      (handle : Word) (loff klo kn : Nat)
  | bld (addr n : Nat) (fmtb : BitVec 4)
  | brot (sent : Bool)
  | tcont (handle : Word) (klo kn : Nat) (vals : List Word32)
  deriving DecidableEq, Repr

/-- A queue entry: its number (in issue order with the accesses of the core), the thread that waits for its stream, the
tenant, where its receipt goes, and the decode tables as at issue (R176). -/
structure MxEntry where
  id : Nat
  thr : Option Nat
  tenant : Nat
  rcpt : Loc
  reg : Nat
  op : MxOp
  tabA : FMap (BitVec 19)
  tabB : FMap (BitVec 19)
  /-- a bad word among the vectors its stream delivered: poisoned or not, and its address -/
  bad : Option (Bool × Word)
  /-- the other half of its bundle may still fault: the entry is not performed (R404) -/
  hold : Bool := false
  /-- the codes of its vector scales, read at the bundle's place before the other half writes to ULM, with a bad word among them (R27) -/
  scl : Option (List Nat × List Nat × Option (Bool × Word)) := none
  deriving DecidableEq, Repr

/-- A SWAPT that waits for its partner (R215). -/
structure Swap where
  id : Nat
  thread : Nat
  addr : Nat
  len : Nat
  /-- the other half of its bundle may still fault; and it has met its partner, of the same length (R404) -/
  hold : Bool := false
  met : Bool := false
  deriving DecidableEq, Repr

structure MatrixUnit where
  active : Latch
  incoming : Latch
  inc : IncState
  queue : List MxEntry
  swaps : List Swap
  /-- cycles of the core: from which on the entries performed no longer occupy the unit (R212); in which the rows of the BLD that fills
  the incoming latch have come (R213); in which the latch of the BROT at the head has gone to the next core (R214) -/
  free : Nat
  filled : Nat
  moved : Option Nat
  /-- what the drain holds, with the cycle in which it is sent (R212) -/
  drain : List (Nat × NetMsg)
  deriving DecidableEq, Repr

def MatrixUnit.reset : MatrixUnit :=
  { active := Latch.reset, incoming := Latch.reset, inc := .empty, queue := [], swaps := [], free := 0, filled := 0, moved := none
    drain := [] }

/-! ## Accumulator tiles (R220 to R245) -/

inductive TileState where
  | free | open | complete | abandoned
  deriving DecidableEq, Repr

/-- A tile slot: elements and guard bits not listed are 0. -/
structure TileSlot where
  data : FMap Word32
  guard : FMap (BitVec 2)
  k : Nat
  gen : BitVec 16
  poison : Bool
  nan : Bool
  int34 : Bool
  st : TileState
  govf : Bool
  accepted : Nat
  refused : Nat
  tenant : Nat
  frags : List (Nat × Nat)
  /-- accepted contributions whose values still land, oldest first -/
  landing : List (List Word32)
  /-- the thread whose TALLOC has picked the slot and waits for its last additions (R234) -/
  taker : Option Nat
  deriving DecidableEq, Repr

def TileSlot.reset : TileSlot :=
  { data := [], guard := [], k := 0, gen := 0, poison := false, nan := false, int34 := false, st := .free, govf := false
    accepted := 0, refused := 0, tenant := 0, frags := [], landing := [], taker := none }

/-- The tile owner of a core: its slots. Contributions that have arrived stand in State.net, in arrival order: the first
five of a core in its staging area, the others at its ingress (R220). -/
structure TileUnit where
  slots : FMap TileSlot
  deriving DecidableEq, Repr

def TileUnit.reset : TileUnit := { slots := [] }

/-! ## Mean unit (R246 to R264) -/

/-- A QTLD whose block has been read and whose pair is not yet replaced (R263). -/
structure MeanLoad where
  /-- number in issue order with the accesses of the core -/
  id : Nat
  thread : Nat
  n : Nat
  pair : MeanPair
  /-- the cycle in which the pair is replaced -/
  due : Nat
  deriving DecidableEq, Repr

structure MeanUnit where
  pairs : FMap (Option MeanPair)
  loading : List MeanLoad
  /-- the first cycle in which a QRED no longer occupies the unit (R254) -/
  free : Nat
  deriving DecidableEq, Repr

def MeanUnit.reset : MeanUnit := { pairs := [], loading := [], free := 0 }

/-! ## Grids (R265 to R282) -/

inductive Rule where
  | none | periodic | reflect | clamp | constant
  deriving DecidableEq, Repr

/-- One dimension of a descriptor: block extent, global extent, origin, low and high rules. -/
structure GDim where
  b : Nat
  g : Nat
  o : Nat
  lo : Rule
  hi : Rule
  deriving DecidableEq, Repr

/-- A grid descriptor as copied at GDECL (R266). -/
structure GDesc where
  dims : Nat
  fmt : GFmt
  inUlm : Bool
  w : Nat
  rad : Nat
  depth : Nat
  base : Nat
  gid : BitVec 16
  x : GDim
  y : GDim
  z : GDim
  const : Word32
  last0 : Nat
  nbr : List Nat
  deriving DecidableEq, Repr

/-- A registered grid: LAST, installed tags by direction index k of R268, staged strips by direction. -/
structure GridReg where
  addr : Nat
  desc : GDesc
  tenant : Nat
  last : Nat
  tags : FMap (Option Nat)
  staged : FMap (Option Strip)
  deriving DecidableEq, Repr

structure GridUnit where
  regs : List GridReg
  haloto : Nat
  deriving DecidableEq, Repr

def GridUnit.reset : GridUnit := { regs := [], haloto := 0x00100000 }

/-! ## Copy engine (R283 to R299) -/

inductive CopyState where
  | queued | running | done | faulted | cancelled
  deriving DecidableEq, Repr

/-- A status entry (R289). -/
structure CopyStat where
  xid : Nat
  offset : Nat
  cause : Nat
  queue : Nat
  st : CopyState
  /-- the source or the destination has bytes at another package: the copy's scope is .sys (R158) -/
  far : Bool
  deriving DecidableEq, Repr

/-- A byte that the copy engine has read and not yet written: its number in the copy order, its destination, the place there, its value. -/
structure CopyByte where
  ord : Nat
  dst : Word
  place : Place
  byte : Byte
  deriving DecidableEq, Repr

/-- A queued operation or fence entry. -/
structure CopyOp where
  /-- number in issue order with the accesses of the core -/
  id : Nat
  xid : Nat
  /-- queue mask of a fence entry, none for a transfer -/
  fence : Option (BitVec 8)
  thread : Option Nat
  tenant : Nat
  shadows : List Word
  offset : Nat
  started : Bool
  /-- the reads at other packages that the next block awaits: request, place in the block, bytes -/
  await : List (Nat × Nat × Nat)
  /-- stores to other packages that are out, each with the offset of its first byte in the copy order -/
  out : List (Nat × Nat)
  /-- bytes whose destination word still gets bytes at higher numbers of the copy order: they are written with its last one (R297) -/
  kept : List CopyByte := []
  /-- a store to a package that has become absent has stopped the operation: its address (R293, R396) -/
  stop : Option Word := none
  far : Bool
  /-- accesses that the port had accepted before the launch (R158) -/
  after : List Nat
  /-- a CPCAN has stopped it; its writes in flight are still to reach their banks (R291) -/
  cancel : Bool
  /-- the state is settled (DONE) and only the action is outstanding (a full interrupt list, R295) -/
  settled : Bool
  /-- COPY node: its index (R298) -/
  node : Option Nat
  deriving DecidableEq, Repr

structure CopyUnit where
  queues : FMap (List CopyOp)
  table : FMap (Option CopyStat)
  counter : Nat
  deriving DecidableEq, Repr

def CopyUnit.reset : CopyUnit := { queues := [], table := [], counter := 0 }

/-! ## Message engine of thread 63 (R319 to R333) -/

/-- A message standing in a slot of the comm buffer (R323); slots of one source are numbered 0 to 7. -/
structure CSlot where
  src : Nat
  slot : Nat
  inst : Nat
  step : Nat
  sender : Loc
  /-- the sender's registration under which it was sent -/
  reg : Nat
  deriving DecidableEq, Repr

/-- A message sent and not yet known delivered (R327, R332). -/
structure CSent where
  dst : Nat
  inst : Nat
  step : Nat
  deriving DecidableEq, Repr

/-- A registered communicator (R321, R322): the descriptor's fields, INST, credits per destination rank, messages in
the slots in order of arrival, messages sent and not delivered. -/
structure CommReg where
  /-- the model's own: a number of the registration, which its messages and their credits carry (R323) -/
  id : Nat
  addr : Nat
  comm : BitVec 12
  size : Nat
  rank : Nat
  space : Space
  msz : Nat
  inst : Nat
  buf : Nat
  table : Nat
  src : List Nat
  dst : List Nat
  credits : FMap Nat
  sent : FMap Nat
  slots : List CSlot
  outstanding : List CSent
  deriving DecidableEq, Repr

/-- A CSEND handed to the engine whose payload is still to be read (R329). -/
structure CSendOp where
  addr : Nat
  tenant : Nat
  payload : Word
  dst : Loc
  rank : Nat
  inst : Nat
  step : Nat
  /-- the engine's reads of a payload at another package -/
  reads : Option (List Nat)
  deriving DecidableEq, Repr

/-- A receive whose bytes are on their way to their banks: the registration and the slot, which is then freed, and, for CRRS, the send
that follows: place, rank, step and address (R330, R331). -/
structure CReceive where
  addr : Nat
  slot : Option CSlot
  send : Option (Loc × Nat × Nat × Word)
  deriving DecidableEq, Repr

/-- The message engine of a core: registrations, the communicator whose instance is open, sends in hand, raw outbound
words and inbound words with a mark for bad ones, uncorrectable (false) or poisoned (true) (R320, R333), the reads of an extent at another
package that thread 63 waits for (R326), and its receive in progress. Messages that wait for a slot, for room or for a registration stand
in State.net. -/
structure CommUnit where
  regs : List CommReg
  current : Option Nat
  sends : List CSendOp
  out : List Word
  inb : List (Word × Option Bool)
  reading : Option (List Nat)
  receive : Option CReceive
  deriving DecidableEq, Repr

def CommUnit.reset : CommUnit :=
  { regs := [], current := none, sends := [], out := [], inb := [], reading := none, receive := none }

/-- The engine without what thread 63 had under way. -/
def CommUnit.idle (c : CommUnit) : CommUnit := { c with reading := none, receive := none }

/-! ## Cores -/

/-- A VLOG entry (R349). -/
structure VlogEntry where
  addr : Word
  kind : Nat
  tenant : Nat
  src : Nat
  lost : Nat
  deriving DecidableEq, Repr

/-- What a thread waits to do at a full/empty word (R108). -/
inductive FeOp where
  | ldfe (a : Nat) | stfe (w : Word) | ldff (a : Nat)
  deriving DecidableEq, Repr

/-- An entry of a core's full/empty wait list (R109). -/
structure FeWait where
  thread : Nat
  off : Nat
  op : FeOp
  count : Nat
  deriving DecidableEq, Repr

/-- What a defective shadow unit forms in place of the sign, the exponent field and the top three mantissa bits of a rounded result
(R185). -/
structure ShadowRes where
  sign : Bool
  exp : Nat
  top : Nat
  deriving DecidableEq, Repr

/-- Physical defects of a core, given by the environment (DEDUCED, log entry 10). -/
structure Defects where
  /-- the defective shadow units: of the vector pipe by lane (R185), of the drain by element of the contribution (R207), of the mean
  unit by lane (R261) -/
  vector : FMap ShadowRes
  drain : FMap ShadowRes
  mean : FMap ShadowRes
  /-- scalar (false) and vector (true) file entries whose content is uncorrectable (R340) -/
  regs : List (Bool × Nat)
  /-- c registers whose content is uncorrectable (R341) -/
  cregs : List Nat
  deriving DecidableEq, Repr

def Defects.none : Defects := { vector := [], drain := [], mean := [], regs := [], cregs := [] }

/-- One core. -/
structure Core where
  gfile : FMap Word
  vfile : FMap VWord
  c : FMap Word
  csets : List CsetRec
  lastThread : Nat
  /-- the last cycle in which the core issued a bundle (R61) -/
  issuedAt : Option Nat
  threads : FMap Thread
  ulm : Mem
  wb : Mem
  ab : Mem
  /-- full/empty bits: the full words, by ULM word index (R108) -/
  full : FMap Bool
  feWait : List FeWait
  felim : Nat
  utlb : List TlbEntry
  q : FMap Stream
  tabs : VecTables
  means : MeanUnit
  mx : MatrixUnit
  tiles : TileUnit
  grid : GridUnit
  copy : CopyUnit
  comm : CommUnit
  capt : Word
  sv : Bool
  assigned : Bool
  tenant : Nat
  fringEn : Bool
  fringWr : Nat
  fringBase : Nat
  frrd : Nat
  vlog : List VlogEntry
  vlogLost : Nat
  defects : Defects
  deriving DecidableEq, Repr

def Core.reset : Core :=
  { gfile := [], vfile := [], c := [], csets := [], lastThread := 62, issuedAt := none, threads := []
    ulm := Mem.empty, wb := Mem.empty, ab := Mem.empty, full := [], feWait := [], felim := 16, utlb := []
    q := [], tabs := VecTables.reset, means := MeanUnit.reset, mx := MatrixUnit.reset, tiles := TileUnit.reset
    grid := GridUnit.reset, copy := CopyUnit.reset, comm := CommUnit.reset
    capt := 0, sv := false, assigned := false, tenant := 0
    fringEn := false, fringWr := 0, fringBase := 0, frrd := 0, vlog := [], vlogLost := 0
    defects := Defects.none }

/-! ## Dies -/

/-- A ready node at a graph walker (R93, R401), a COPY or WAIT node that waits for its unit (R298, R374), or a node that has
retired (R378); `after` are the decrements to be performed first. -/
structure ReadyNode where
  tenant : Nat
  index : Nat
  after : List Nat
  deriving DecidableEq, Repr

/-- What a dispenser places on a thread: a COMPUTE or COMM node, or a stage thread of a PIPE node on one core (R94,
R112). -/
structure DispItem where
  tenant : Nat
  index : Nat
  prio : Nat
  light : Bool
  comm : Bool
  w : Nat
  v : Nat
  entry : Word
  args : Word
  fmt : Word
  /-- a pipeline stage: the launch, the stage and the core key it must run on -/
  stage : Option (Nat × Nat × Nat)
  deriving DecidableEq, Repr

/-- A channel of a PIPE launch (R110). -/
structure PipeChannel where
  source : Nat
  sink : Nat
  sourceQ : Nat
  sinkQ : Nat
  size : Nat
  allow : Nat
  ring : Nat
  deriving DecidableEq, Repr

/-- A stage of a PIPE launch (R110). -/
structure PipeStage where
  entry : Word
  cluster : Nat
  mask : BitVec 16
  w : Nat
  v : Nat
  args : Word
  deriving DecidableEq, Repr

/-- A PIPE launch in progress (R112): the next stage to release, the stage threads placed (stage, core key, thread) and
not done. -/
structure PipeLaunch where
  id : Nat
  tenant : Nat
  index : Nat
  prio : Nat
  light : Bool
  fmt : Word
  stages : List PipeStage
  channels : List PipeChannel
  /-- stages below this one are still to be released -/
  toRelease : Nat
  placed : List (Nat × Nat × Nat)
  running : List (Nat × Nat × Nat)
  deriving DecidableEq, Repr

/-- A task handed to a thread whose argument and format reads are under way (R96). -/
structure TaskStart where
  thread : Nat
  item : DispItem
  deriving DecidableEq, Repr

/-- One compute die. -/
structure Die where
  /-- the core cycle counter: cycles in which the die's clocks ran (R61, R89) -/
  cyc : Nat
  gated : Bool
  collth : Nat
  occ : Nat
  occAt : Nat
  /-- slot-0 cycles of communication threads since the last occupancy update (R95) -/
  slot0 : Nat
  tlb : FMap (List TlbEntry)
  /-- by cluster: the queue from which its atomic engine last took an operation, and the time at which it did (R141) -/
  lastQueue : FMap Nat
  lastTake : FMap Nat
  disp : FMap (List DispItem)
  starts : List TaskStart
  walker : List ReadyNode
  pipes : List PipeLaunch
  /-- COPY nodes waiting for a status entry or a queue (R298) -/
  copyNodes : List ReadyNode
  /-- COPY nodes whose copy is done, with the operations of its action that are still to be performed (R298) -/
  copyDone : List ReadyNode
  /-- MIG ingress queue (R308) -/
  mig : List MigPacket
  /-- cycle since which no copy, tile addition or strip has been pending (R390) -/
  idleSince : Nat
  deriving DecidableEq, Repr

def Die.reset : Die :=
  { cyc := 0, gated := false, collth := 0x80, occ := 0, occAt := 4096, slot0 := 0, tlb := [], lastQueue := [], lastTake := [], disp := []
    starts := [], walker := [], pipes := [], copyNodes := [], copyDone := [], mig := [], idleSince := 0 }

/-! ## Link, tenants, host link, firmware, platform -/

inductive PortState where
  | down | up | stopped | spare
  deriving DecidableEq, Repr

/-- A port (R301, R303, R314 to R318): table entry, send queue, segments not yet confirmed, tag failures in a row at the
receiver, segments received whose tag is still unchecked. -/
structure Port where
  segctr : Nat
  /-- the number of keys that exchanges have installed for sending (R314) -/
  key : Nat
  prow : Nat
  pcol : Nat
  cut : Bool
  st : PortState
  rekey : Bool
  first : Bool
  queue : List Packet
  /-- parts of the packet at the head of the queue that have been sent (R314) -/
  sent : Nat
  unconfirmed : List Segment
  failures : Nat
  /-- retransmissions asked of this sender in a row (R318) -/
  resends : Nat
  /-- segments handed to the wire, oldest first: what the peer receives -/
  wire : List Segment
  /-- segments that a cut-through port has received and whose tag is still to check (R316) -/
  checking : List Segment
  /-- segments received from the first that has failed on: its counter, none while it is missing, and those that wait behind it (R317) -/
  order : List (Nat × Option Segment)
  /-- parts received of packets of more than 32 flits: source, sequence number, part (R314) -/
  parts : List (Nat × Nat × Nat)
  /-- class and lane of the packets sent for which the peer has returned no credit (R303) -/
  owed : List (LinkClass × Nat) := []
  /-- message payloads that a cut-through port has written before their tag has checked: source and number of the packet, place, length
  (R316) -/
  early : List (Nat × Nat × Place × Nat) := []
  deriving DecidableEq, Repr

def Port.reset : Port :=
  { segctr := 0, key := 0, prow := 0, pcol := 0, cut := false, st := .down, rekey := false, first := false, queue := [], sent := 0
    unconfirmed := [], failures := 0, resends := 0, wire := [], checking := [], order := [], parts := [] }

/-- A tenant as ACTIVATE configures it (R380), with its state. -/
structure Tenant where
  active : Bool
  preempted : Bool
  root : Nat
  nodeBase : Nat
  nodeLen : Nat
  supDie : Nat
  supCore : Nat
  quota : Nat
  capt : Word
  clusters : List (BitVec 32)
  windows : List (Nat × Nat)
  saveArea : Nat
  /-- attested execution: the key given (R388) -/
  attestKey : Option (List Byte)
  /-- a pre-emption under way (R357): 0 none, 1 threads come home, 2 issue stopped and draining; and one that the eviction handshake
  asked for (R395) -/
  stopping : Nat
  byEvict : Bool
  /-- a queue of the tenant is to be mapped (R377) -/
  pending : Bool := false
  /-- the package from which the tenant has crossed, until the move is confirmed (R395) -/
  movedFrom : Option Nat := none
  deriving DecidableEq, Repr

def Tenant.reset : Tenant :=
  { active := false, preempted := false, root := 0, nodeBase := 0, nodeLen := 0, supDie := 0, supCore := 0, quota := 0
    capt := 0, clusters := [], windows := [], saveArea := 0, attestKey := none, stopping := 0, byEvict := false }

/-- The Advanced Error Reporting registers of a function (R358), as PCI Express lays them out and resets them (PRESUMED, log entry 73). -/
structure Aer where
  uncStatus : Word32
  uncMask : Word32
  uncSeverity : Word32
  corStatus : Word32
  corMask : Word32
  deriving DecidableEq, Repr

def Aer.reset : Aer := { uncStatus := 0, uncMask := 0x00400000, uncSeverity := 0x00462030, corStatus := 0, corMask := 0xE000 }

/-- A function of the endpoint: 0 the PF, n the VF of tenant n - 1 (R358 to R362). -/
structure Fn where
  apbase : Word32
  mberr : BitVec 4
  /-- translation invalidations started and not complete (R362) -/
  inval : Nat
  /-- the MSI-X table, by offset; the mask bits, which are 1 at reset, are held inverted (PRESUMED, log entry 73) -/
  msix : Mem
  /-- vectors signalled while masked: the set bits of the pending bit array -/
  pending : List Nat
  /-- Advanced Error Reporting -/
  aer : Aer
  /-- the time at which the Meridian may apply the function's next write (R364) -/
  writeAt : Nat
  deriving DecidableEq, Repr

def Fn.reset : Fn := { apbase := 0, mberr := 0, inval := 0, msix := Mem.empty, pending := [], aer := Aer.reset, writeAt := 0 }

/-- What waits at the Meridian, in order of arrival of its function (R364). -/
inductive HostOp where
  | write (gpa : Nat) (data : List Byte) (relaxed : Bool)
  /-- a read of the aperture at an offset, as the parts that it is split into -/
  | read (off : Nat) (parts : List (Nat × Nat))
  /-- a read of n bytes of BAR0 -/
  | regs (off n : Nat)
  | kick (queue : Nat) (tail : Word32)
  | tlbinv
  | qcmd (value : Word)
  /-- a write of another register or entry of BAR0 -/
  | reg (off : Nat) (data : List Byte)
  /-- a read of the aperture of which a part has failed: it is completed with Completer Abort (R365) -/
  | abort
  deriving DecidableEq, Repr

structure HostItem where
  fn : Nat
  op : HostOp
  /-- of a read: its reads at other packages, once they are sent -/
  reads : Option (List Nat) := none
  deriving DecidableEq, Repr

/-- What the event trace of OBSERVE records (R385): the launch of a node, the cause of a fault, the state of a port, a change of power, of the
package or of a die. -/
inductive TraceItem where
  | launch (tenant node : Nat)
  | fault (cause sub : Nat)
  | port (port : Nat) (st : PortState)
  | power (die : Option Nat) (state : Nat)
  deriving DecidableEq, Repr

/-- The fields of a packet's headers that a queue pair and its port give it (R369, R370): the addresses as they stand there. -/
structure RoceHeader where
  ipv6 : Bool
  dscp : Nat
  localIp : List Byte
  localMac : List Byte
  peerIp : List Byte
  nextHop : List Byte
  udpSrc : List Byte
  peerQpn : Nat
  deriving DecidableEq, Repr

/-- Why a responder answers with a NAK: a packet is missing, the request is invalid (R366), or the region table does not permit it (R371). -/
inductive NakKind where
  | sequence | invalid | access
  deriving DecidableEq, Repr

/-- What the package sends to the outside: completions, interrupts, management answers, RDMA packets. -/
inductive Output where
  | completion (fn : Nat) (data : Option (List Byte))
  /-- the message of a vector: the address and the data that its table entry holds -/
  | msix (fn vector : Nat) (addr : Word) (data : Word32)
  | reply (code : Nat) (data : List Byte)
  /-- an error message of a function: 0 correctable, 1 non-fatal, 2 fatal (R358) -/
  | pcieError (fn kind : Nat)
  | rdmaRequest (qp : Nat) (hdr : RoceHeader) (req : RdmaReq)
  | rdmaAck (qp : Nat) (hdr : RoceHeader) (ack : RdmaAck)
  | rdmaNak (qp : Nat) (hdr : RoceHeader) (psn : Nat) (kind : NakKind)
  | finsinLog (fn : Nat) (addr : Word)
  | retransmit (port ctr : Nat)
  | confirmed (port ctr : Nat)
  /-- a credit returned to the peer of a port, for a class and hop lane (R303) -/
  | credit (port : Nat) (cls : LinkClass) (lane : Nat)
  | portDown (port : Nat)
  | fatal
  | debugData (w : Word)
  | evictRequest (neighbour : Nat) (needs : List (Nat × Nat × Nat))
  | moveTenants (neighbour : Nat) (tenants : List EvictTenant)
  /-- the confirmation of the neighbour, which is the commit point (R396) -/
  | moveConfirmed (source : Nat)
  | absent (pkg : Nat)
  | evictAnswer (pkg : Nat) (accept : Bool)
  | trace (item : TraceItem)
  deriving DecidableEq, Repr

inductive QpState where
  | reset | ready | error
  deriving DecidableEq, Repr

/-- An access of the Ethernet engine in progress: its parts, as physical address and length, and its accesses at other packages. -/
structure EthIo where
  parts : List (Nat × Nat)
  ids : List Nat
  deriving DecidableEq, Repr

/-- What a queue pair has received and not yet performed. -/
inductive EthPacket where
  /-- a request packet that has passed its checks, with the address that its bytes go to or come from -/
  | request (r : RdmaReq) (addr : Word) (last : Bool)
  /-- a response packet of a READ -/
  | response (data : List Byte)
  deriving DecidableEq, Repr

/-- A queue pair (R370): the 64 bytes of its entry, state, HEAD, the entry in progress, next poll, and the engine's sequence numbers,
pace and packets (R366). -/
structure Qp where
  bytes : List Byte
  st : QpState
  head : Nat
  /-- the request sent and not acknowledged: address and bytes of its ring entry -/
  busy : Option (Word × List Byte)
  pollAt : Nat
  /-- ENABLE has been cleared and the entry in progress is not done -/
  stopping : Bool
  /-- the tail word as last read -/
  tail : Nat
  /-- of the entry in progress: the bytes sent, and those that a READ has brought and written -/
  sent : Nat
  got : Nat
  /-- the sequence numbers of the next packet to send and of the next request expected -/
  spsn : Nat
  rpsn : Nat
  /-- the pace of sending, and when the next packet may go -/
  gap : Nat
  sendAt : Nat
  /-- the message being received: operation, next address, bytes to come -/
  message : Option (Nat × Word × Nat)
  rx : List EthPacket
  rxIo : Option EthIo
  txIo : Option EthIo
  deriving DecidableEq, Repr

def Qp.reset : Qp :=
  { bytes := [], st := .reset, head := 0, busy := none, pollAt := 0, stopping := false, tail := 0, sent := 0, got := 0, spsn := 0
    rpsn := 0, gap := 0, sendAt := 0, message := none, rx := [], rxIo := none, txIo := none }

inductive QState where
  | disabled | idle | pending | mapped | broken
  deriving DecidableEq, Repr

/-- Finsin's queue-table view of a queue (R375, R383): the fields of its control block as read at ENABLE, its retired
nodes above HEAD, since when it is pending. -/
structure Queue where
  first : Nat
  log2n : Nat
  prio : Nat
  tenant : Nat
  st : QState
  tail : Nat
  head : Nat
  taken : Nat
  ivec : Nat
  since : Nat
  /-- full 100 microseconds pending (R379) -/
  age : Nat
  retired : List Nat
  /-- node indices that a decrement has made ready before the hart took their slot -/
  early : List Nat
  /-- those of them that have retired before it (R378) -/
  gone : List Nat := []
  deriving DecidableEq, Repr

def Queue.reset : Queue :=
  { first := 0, log2n := 0, prio := 0, tenant := 0, st := .disabled, tail := 0, head := 0, taken := 0, ivec := 0
    since := 0, age := 0, retired := [], early := [] }

/-- An armed watch (R373) or the condition of a WAIT node (R374): physical address, operation, width, value, mask. -/
structure Watch where
  addr : Nat
  op : Nat
  wide : Bool
  value : Word
  mask : Word
  deriving DecidableEq, Repr

/-- A hart: registers x1 to x31, pc, its mapped queue (queue harts), armed watch, what it blocks on, the WAIT node it
serves and the next re-read of the watch. -/
structure Hart where
  x : FMap Word
  pc : Word
  running : Bool
  queue : Option Nat
  watch : Option Watch
  /-- WBLK: destination register, and whether a kick has come -/
  blocked : Option (BitVec 5)
  kicked : Bool
  waitNode : Option (Nat × Nat × Watch)
  rereadAt : Nat
  /-- the reservation of LR: address and the bytes it read (PRESUMED, log entry 26) -/
  resv : Option (Nat × List Byte)
  /-- the machine-mode registers of the base architecture (PRESUMED, log entry 26) -/
  mie : Word
  mscratch : Word
  mtvec : Word
  mepc : Word
  mcause : Word
  mtval : Word
  mstatus : Word
  deriving DecidableEq, Repr

def Hart.reset : Hart :=
  { x := [], pc := 0, running := false, queue := none, watch := none, blocked := none, kicked := false
    waitNode := none, rereadAt := 0, resv := none, mie := 0, mscratch := 0, mtvec := 0, mepc := 0, mcause := 0, mtval := 0
    mstatus := 0x1800 }

/-- The firmware complex (R372 to R384). -/
structure Firmware where
  harts : FMap Hart
  /-- the hart whose instruction is executed: the model's own -/
  curHart : Nat
  imem : Mem
  /-- addresses at which the first and the second copy of instruction memory hold errors -/
  imemBad : List (Nat × Bool)
  fatal : Bool
  ready : Bool
  qcbBase : Nat
  /-- OP and QUEUE of QCMD as last written; the command that runs, and the result of the last -/
  qcmdVal : Word
  qcmdBusy : Option Word
  qcmdResult : Nat
  tcmdBusy : Option Word
  tcmdResult : Nat
  queues : FMap Queue
  wakeManager : Bool
  /-- ready WAIT nodes that their queue's hart has still to take (R374) -/
  waits : List ReadyNode
  /-- the cycle in which a hart last issued (R372) -/
  issuedAt : Nat
  /-- nodes that have retired, in order, for the queues' HEAD (R378) -/
  retiring : List ReadyNode
  deriving DecidableEq, Repr

def Firmware.reset : Firmware :=
  { harts := [], curHart := 0, imem := Mem.empty, imemBad := [], fatal := false, ready := false, qcbBase := 0, qcmdVal := 0
    qcmdBusy := none, qcmdResult := 0, tcmdBusy := none, tcmdResult := 0, queues := [], wakeManager := false, waits := [], issuedAt := 0, retiring := [] }

inductive Security where
  | open | secure | attested
  deriving DecidableEq, Repr

inductive Power where
  | active | retention | off
  deriving DecidableEq, Repr

inductive Evict where
  | normal | evictReq | draining | moving | routesDrained | safe | failed
  deriving DecidableEq, Repr

/-- The security processor's state (R385 to R397). -/
structure Platform where
  security : Security
  debug : DebugState
  debugMask : BitVec 16
  power : Power
  /-- a SETPOWER RETENTION in progress -/
  changing : Bool
  evict : Evict
  evictTo : Nat
  evictAt : Nat
  /-- FAILED on the neighbour side (R395) -/
  neighbourSide : Bool
  latch : Bool
  minVersion : Nat
  image : Option FwImage
  /-- the image that the harts run (R388) -/
  running : Option FwImage
  /-- the package whose tenants this one has agreed to take (R395) -/
  incoming : Option Nat
  challenges : List (List Byte)
  issued : Nat
  linkKeys : Bool
  idKey : Bool
  /-- windows whose tenants the neighbour has taken over, to be zeroed (R395) -/
  leaving : List (Nat × Nat)
  deriving DecidableEq, Repr

def Platform.reset : Platform :=
  { security := .open, debug := .off, debugMask := 0, power := .active, changing := false, evict := .normal, evictTo := 0
    evictAt := 0, neighbourSide := false, latch := false, minVersion := 0, image := none, running := none, incoming := none, challenges := [], issued := 0
    linkKeys := false, idKey := true, leaving := [] }

/-! ## The package -/

/-- A message on its way to a unit of this package: its number and the message; messages from other packages carry the
ingress (die) they entered and their acceptance number. -/
structure NetItem where
  id : Nat
  msg : NetMsg
  ingress : Option (Nat × Nat)
  /-- source and number of the packet that it came in -/
  pkt : Option (Nat × Nat) := none
  deriving DecidableEq, Repr

/-- A packet that a port has released to its die's ingress and that is not accepted yet (R147, R316). -/
structure IngressItem where
  id : Nat
  port : Nat
  pkt : Packet
  /-- passed on by a cut-through port before its tag has checked: the segment's counter (R316) -/
  unchecked : Option Nat
  deriving DecidableEq, Repr

/-- The guest tables (R307): accepted (package, tenant) and the local tenant; packages that accept our tenants; what the tables of other
packages hold of third ones (package, tenant, accepting package); and, the model's own, the package that each guest last left for, with the
number of its departure from home (R313). -/
structure GuestTable where
  accept : List (Nat × Nat × Nat)
  out : List (Nat × Nat)
  third : List (Nat × Nat × Nat)
  moved : List (Loc × Nat × Nat)
  deriving DecidableEq, Repr

/-- What PREEMPT saves of one tenant (R357): its cores by key, saved tenant-wide items. -/
structure SavedTenant where
  tenant : Nat
  cores : FMap Core
  strips : List Strip
  deriving DecidableEq, Repr

/-- One package, with the inputs that the outside has prepared and the outputs it has produced. -/
structure State where
  /-- ROW * 16 + COL (R17) -/
  pkg : Nat
  now : Nat
  /-- the model's own: choices among enabled events (DESIGN CHOICE, log entry 2), inputs in order of arrival (DESIGN CHOICE, log entry 9), the next
  number and the counter of free values (DESIGN CHOICE, log entry 99) -/
  sched : List Nat
  inbox : List (Nat × Instr)
  nextId : Nat
  freeCount : Nat
  /-- the model's own: the thread key whose bundle is executed, the unit or item an event is about, the core as it was
  when the bundle issued (DEDUCED, log entry 7) -/
  cur : Nat
  subj : Nat
  snap : Option Core
  /-- the model's own: the issue of the bundle that is executed, where that is not this moment; and whether the second half of a pair
  is executed, for which every condition has been found to hold (DEDUCED, log entry 7) -/
  began : Option Issue
  second : Bool
  /-- the model's own: the events that can happen, each with the time since when it can (DESIGN CHOICE, log entry 46) -/
  since : List ((Nat × Instr) × Nat)
  dm : Mem
  dies : FMap Die
  cores : FMap Core
  issued : List Access
  flight : List Access
  ops : List MemOp
  net : List NetItem
  /-- packets taken back from ports that have stopped or failed, which have still to find another way, in order (R315, R318) -/
  stranded : List Packet
  /-- bytes written from segments whose tag has failed, each with source and number of its packet, until that packet's write is repeated
  (R317) -/
  spoilt : List (Nat × Nat × Place)
  /-- strips that no registered grid takes yet, in order (R270) -/
  heldStrips : List Strip
  /-- answers to reads at other packages, by request number, with the bad word they end at -/
  replies : FMap (List Byte × Option Bool)
  ingress : List IngressItem
  ingressSeq : Nat
  ports : FMap Port
  present : List Nat
  guests : GuestTable
  tenants : FMap Tenant
  fns : FMap Fn
  host : List HostItem
  /-- reads of BAR0 that the host has sent: function, offset, length (an input; DESIGN CHOICE, log entry 75) -/
  bar0Reads : List (Nat × Nat × Nat)
  /-- Ethernet port configuration, region table and tenant descriptors, by offset (R369, R371, R380) -/
  ethBytes : Mem
  qps : FMap Qp
  regions : Mem
  tdesc : Mem
  fw : Firmware
  plat : Platform
  saved : List SavedTenant
  out : List Output
  deriving DecidableEq, Repr

/-- The package right after reset (R61, R85, R301, R361, R389): every field at the value the spec states; the values it
does not state are those of DESIGN CHOICE, log entries 4 to 6. -/
def State.reset : State :=
  { pkg := 0, now := 0, sched := [], inbox := [], nextId := 1, freeCount := 0, cur := 0, subj := 0, snap := none, began := none, second := false, since := []
    dm := Mem.empty, dies := [], cores := [], issued := [], flight := [], ops := [], net := [], stranded := [], spoilt := [], heldStrips := []
    replies := [], ingress := [], ingressSeq := 0, ports := [], present := [0], guests := { accept := [], out := [], third := [], moved := [] }, tenants := []
    fns := [], host := [], bar0Reads := [], ethBytes := Mem.empty, qps := [], regions := Mem.empty, tdesc := Mem.empty, fw := Firmware.reset
    plat := Platform.reset, saved := [], out := [] }

/-! ## Why a step ends -/

/-- Faults of the model: a step without a next state. There is none: the part's own faults are next states (R335), and an event that
cannot happen changes nothing (DESIGN CHOICE, log entry 9). -/
inductive Fault where
  deriving DecidableEq, Repr

/-- Refusals. -/
inductive Refusal where
  /-- raised by exec for an instruction that has no meaning in this model. Safe. -/
  | notModelled (mnemonic : String)
  deriving DecidableEq, Repr

end Sys2Proof.Machine
end

