-- ==== Sys2Proof/Machine/Ops.lean ====
section
/-! DEFINITION. The named operations over the state: sparse tables and memories, cores and threads, register windows,
messages and logs, taking a fault (R334 to R340), retiring a bundle and entering a line (R36 to R42, R82). -/

namespace Sys2Proof.Machine

open Sys2Proof

/-! ## Sparse tables -/

namespace FMap
variable {α : Type}

/-- The entry of a key, if listed. -/
def find? : FMap α → Nat → Option α
  | [], _ => none
  | (k', v) :: r, k => if k = k' then some v else find? r k

/-- The entry of a key, or the value of an unlisted key. -/
def get (d : α) (m : FMap α) (k : Nat) : α := (find? m k).getD d

/-- Insert or replace, keeping keys rising. -/
def set : FMap α → Nat → α → FMap α
  | [], k, v => [(k, v)]
  | (k', w) :: r, k, v =>
    if k < k' then (k, v) :: (k', w) :: r
    else if k = k' then (k, v) :: r
    else (k', w) :: set r k v

/-- Remove a key. -/
def erase (m : FMap α) (k : Nat) : FMap α := m.filter fun e => e.1 != k

end FMap

/-- The lowest i below n with p i, counting from i0. -/
def firstFrom (p : Nat → Bool) : Nat → Nat → Option Nat
  | 0, _ => none
  | n + 1, i => if p i then some i else firstFrom p n (i + 1)

def firstBelow (n : Nat) (p : Nat → Bool) : Option Nat := firstFrom p n 0

/-! ## Bytes, little-endian (R4) -/

/-- The number whose little-endian bytes are given. -/
def leNat : List Byte → Nat
  | [] => 0
  | b :: r => b.toNat + 256 * leNat r

/-- The n little-endian bytes of a number. -/
def leBytes : Nat → Nat → List Byte
  | 0, _ => []
  | n + 1, v => BitVec.ofNat 8 v :: leBytes n (v / 256)

/-- Bytes i to i + n - 1 of a list, missing bytes 0. -/
def slice (l : List Byte) (i n : Nat) : List Byte := (List.range n).map fun j => (l[i + j]?).getD 0

/-- The little-endian number in bytes i to i + n - 1. -/
def field (l : List Byte) (i n : Nat) : Nat := leNat (slice l i n)

/-- A list with bytes i onward replaced. -/
def splice (l : List Byte) (i : Nat) (d : List Byte) : List Byte :=
  (List.range (max l.length (i + d.length))).map fun j =>
    if i ≤ j ∧ j < i + d.length then (d[j - i]?).getD 0 else (l[j]?).getD 0

/-! ## Memories -/

namespace Mem

/-- The canonical form: addresses strictly rising from above lo, no entry 0. -/
def okFrom : Option Nat → List Host.Cell → Bool
  | _, [] => true
  | lo, (a, b) :: r => decide (lo.all (· < a)) && decide (b ≠ 0) && okFrom (some a) r

/-- The memory lists no address twice, in rising order, and no byte that an unlisted address reads as. -/
def wf (m : Mem) : Bool := okFrom none m.cells

def getCell : List Host.Cell → Nat → Byte
  | [], _ => 0
  | (a', b) :: r, a => if a = a' then b else getCell r a

/-- One byte (DESIGN CHOICE, log entry 4: 0 where nothing has been written). -/
def byte (m : Mem) (a : Nat) : Byte := getCell m.cells a

def putCell : List Host.Cell → Nat → Byte → List Host.Cell
  | [], a, b => if b = 0 then [] else [(a, b)]
  | (a', c) :: r, a, b =>
    if a < a' then (if b = 0 then (a', c) :: r else (a, b) :: (a', c) :: r)
    else if a = a' then (if b = 0 then r else (a, b) :: r)
    else (a', c) :: putCell r a b

/-- Write one byte. -/
def putByte (m : Mem) (a : Nat) (b : Byte) : Mem := { m with cells := putCell m.cells a b }

/-- n bytes from a on. -/
def read (m : Mem) (a n : Nat) : List Byte := (List.range n).map fun i => m.byte (a + i)

def putBytes : Mem → Nat → List Byte → Mem
  | m, _, [] => m
  | m, a, b :: r => putBytes (m.putByte a b) (a + 1) r

/-- Write bytes; every 8-byte word written whole gets fresh check bits. -/
def write (m : Mem) (a : Nat) (d : List Byte) : Mem :=
  let m' := putBytes m a d
  { m' with bad := m'.bad.filter fun e => !(decide (a ≤ 8 * e.1) && decide (8 * e.1 + 8 ≤ a + d.length)) }

/-- The first bad word that n bytes from a on touch: poisoned or not, and its address. -/
def badIn (m : Mem) (a n : Nat) : Option (Bool × Nat) :=
  (List.find? (fun e => decide (8 * e.1 < a + n) && decide (a < 8 * e.1 + 8)) m.bad).map fun e => (e.2, 8 * e.1)

/-- Mark every word that n bytes from a on touch. -/
def mark (m : Mem) (a n : Nat) (poison : Bool) : Mem :=
  { m with bad := (List.range ((a + n + 7) / 8 - a / 8)).foldl (fun b i => FMap.set b (a / 8 + i) poison) m.bad }

/-- The word at an address has fresh check bits. -/
def unmark (m : Mem) (a : Nat) : Mem := { m with bad := m.bad.filter fun e => e.1 != a / 8 }

/-- The bad words of n bytes from a on, by their distance from a. -/
def badOf (m : Mem) (a n : Nat) : List (Nat × Bool) :=
  (m.bad.filter fun e => decide (a ≤ 8 * e.1) && decide (8 * e.1 < a + n)).map fun e => (8 * e.1 - a, e.2)

/-- Mark words at the given distances from a. -/
def putBad (m : Mem) (a : Nat) (l : List (Nat × Bool)) : Mem := l.foldl (fun m e => m.mark (a + e.1) 8 e.2) m

def nat (m : Mem) (a n : Nat) : Nat := leNat (m.read a n)

/-- Zero n bytes from a on. -/
def clear (m : Mem) (a n : Nat) : Mem :=
  let inside := fun (x : Nat) => decide (a ≤ x) && decide (x < a + n)
  { cells := m.cells.filter (fun c => !inside c.1), bad := m.bad.filter fun e => !inside (8 * e.1) }

/-- Copy n bytes of another memory, from a on, to b on, with the marks of its bad words. -/
def blit (m : Mem) (b : Nat) (src : Mem) (a n : Nat) : Mem :=
  ((src.cells.filter fun c => decide (a ≤ c.1) && decide (c.1 < a + n)).foldl (fun m c => m.putByte (b + (c.1 - a)) c.2) (m.clear b n)).putBad b
    (src.badOf a n)

end Mem

/-! ## Cores, dies, threads -/

namespace Core

/-- Thread n of a core. -/
def thread (c : Core) (n : Nat) : Thread := FMap.get (Thread.reset n) c.threads n

def setThread (c : Core) (n : Nat) (t : Thread) : Core := { c with threads := FMap.set c.threads n t }

/-- A buffer of a core. -/
def buf (c : Core) : Space → Mem
  | .wb => c.wb
  | .ab => c.ab
  | _ => c.ulm

def setBuf (c : Core) (sp : Space) (m : Mem) : Core :=
  match sp with
  | .wb => { c with wb := m }
  | .ab => { c with ab := m }
  | _ => { c with ulm := m }

end Core

/-- Size of a local buffer in bytes (R113). -/
def bufSize : Space → Nat
  | .wb => 0x40000
  | .ab => 0x30000
  | _ => 0x28000

namespace State

/-- Core key k = die * 512 + core number. -/
def core (s : State) (k : Nat) : Core := FMap.get Core.reset s.cores k

def setCore (s : State) (k : Nat) (c : Core) : State := { s with cores := FMap.set s.cores k c }

def updCore (s : State) (k : Nat) (f : Core → Core) : State := s.setCore k (f (s.core k))

def die (s : State) (d : Nat) : Die := FMap.get Die.reset s.dies d

def updDie (s : State) (d : Nat) (f : Die → Die) : State := { s with dies := FMap.set s.dies d (f (s.die d)) }

/-- Thread key t = core key * 64 + thread number. -/
def thr (s : State) (t : Nat) : Thread := (s.core (t / 64)).thread (t % 64)

def setThr (s : State) (t : Nat) (h : Thread) : State := s.updCore (t / 64) fun c => c.setThread (t % 64) h

def updThr (s : State) (t : Nat) (f : Thread → Thread) : State := s.setThr t (f (s.thr t))

def tenant (s : State) (n : Nat) : Tenant := FMap.get Tenant.reset s.tenants n

def updTenant (s : State) (n : Nat) (f : Tenant → Tenant) : State :=
  { s with tenants := FMap.set s.tenants n (f (s.tenant n)) }

def port (s : State) (n : Nat) : Port := FMap.get Port.reset s.ports n

def updPort (s : State) (n : Nat) (f : Port → Port) : State := { s with ports := FMap.set s.ports n (f (s.port n)) }

def fn (s : State) (n : Nat) : Fn := FMap.get Fn.reset s.fns n

def updFn (s : State) (n : Nat) (f : Fn → Fn) : State := { s with fns := FMap.set s.fns n (f (s.fn n)) }

def hart (s : State) (n : Nat) : Hart := FMap.get Hart.reset s.fw.harts n

def updHart (s : State) (n : Nat) (f : Hart → Hart) : State :=
  { s with fw := { s.fw with harts := FMap.set s.fw.harts n (f (s.hart n)) } }

def queue (s : State) (n : Nat) : Queue := FMap.get Queue.reset s.fw.queues n

def updQueue (s : State) (n : Nat) (f : Queue → Queue) : State :=
  { s with fw := { s.fw with queues := FMap.set s.fw.queues n (f (s.queue n)) } }

/-- The cycle counter of a core (R61, R89). -/
def cycOf (s : State) (k : Nat) : Nat := (s.die (k / 512)).cyc

/-- Where a thread stands. -/
def loc (s : State) (t : Nat) : Loc :=
  { pkg := s.pkg, die := t / 64 / 512, core := t / 64 % 512, thread := t % 64 }

/-- An event that happens gives its next state; one that cannot happen now changes nothing (DESIGN CHOICE, log entry 9). -/
def happen (s : State) (o : Option State) : Host.Outcome State Fault Refusal := .next (o.getD s)

/-- The home of a thread: that of a guest is at another package. -/
def homeLoc (s : State) (t : Nat) : Loc :=
  match (s.thr t).home with
  | some (l, _) => l
  | none => s.loc t

/-- The guest slot of this package that a thread occupies. -/
def guestOf (s : State) (home : Loc) : Option Nat :=
  s.cores.findSome? fun c => c.2.threads.findSome? fun h =>
    if (h.2.home.map (·.1)) == some home then some (c.1 * 64 + h.1) else none

/-- Where the thread of a home stands in this package: in its own slot, or as a guest. -/
def standsAt (s : State) (home : Loc) : Option Nat :=
  if home.pkg = s.pkg then
    (let t := (home.die * 512 + home.core) * 64 + home.thread
     if (s.thr t).st = .away then none else some t)
  else s.guestOf home

def addOut (s : State) (o : Output) : State := { s with out := s.out ++ [o] }

/-- Does the package trace its events: debug is OBSERVE or CONTROL, and power ACTIVE (R385, R389)? -/
def tracing (s : State) : Bool := s.plat.power == .active && s.plat.debug != .off

/-- Record an item in the event trace. -/
def trace (s : State) (x : TraceItem) : State := if s.tracing then s.addOut (.trace x) else s

/-- Record the ports whose state is no longer what it was in state old. -/
def tracePorts (s old : State) : State :=
  s.ports.foldl (fun t p => if (FMap.get Port.reset old.ports p.1).st = p.2.st then t else t.trace (.port p.1 p.2.st)) s

/-- The next number, with the state that has used it. -/
def fresh (s : State) : Nat × State := (s.nextId, { s with nextId := s.nextId + 1 })

end State

/-- The thread key of a place in this package. -/
def locKey (l : Loc) : Nat := (l.die * 512 + l.core) * 64 + l.thread

/-- The core key of a place. -/
def locCore (l : Loc) : Nat := l.die * 512 + l.core

/-- The location word of a place: [8:0] core, [11:9] die, [15:12] COL, [19:16] ROW (R338). -/
def locWord (l : Loc) : Nat := l.core % 512 + l.die % 8 * 512 + l.pkg % 256 * 4096

/-- A place by its location word (R321), for a thread. -/
def locOf (w thread : Nat) : Loc :=
  { pkg := w / 4096 % 256, die := w / 512 % 8, core := w % 512, thread := thread }

/-! ## The executing thread: windows and registers (R84) -/

namespace State

/-- The core whose registers the executing bundle reads: as at its issue (R27). -/
def rd (s : State) : Core := s.snap.getD (s.core (s.cur / 64))

/-- The executing thread, as at issue. -/
def me (s : State) : Thread := s.rd.thread (s.cur % 64)

/-- The executing thread, as it stands. -/
def my (s : State) : Thread := s.thr s.cur

def ck (s : State) : Nat := s.cur / 64

/-- The tenant a thread runs for: its core's, or for a guest the local tenant that the guest table maps its home package
and tenant to (R307). -/
def tenantOf (s : State) (t : Nat) : Nat :=
  match (s.thr t).home with
  | none => (s.core (t / 64)).tenant
  | some (l, n) => ((s.guests.accept.find? fun e => e.1 == l.pkg && e.2.1 == n).map (·.2.2)).getD (s.core (t / 64)).tenant

/-- The tenant that the executing thread runs for. -/
def myTenant (s : State) : Nat := s.tenantOf s.cur

/-- Register g i of the executing thread, as read at issue. -/
def rdG (s : State) (i : GReg) : Word := FMap.get 0 s.rd.gfile (s.me.gbase * 8 + i.toNat)

/-- Register v i, as read at issue. -/
def rdVr (s : State) (i : Nat) : VWord := FMap.get 0 s.rd.vfile (s.me.vbase * 4 + i)

/-- Mask register, as read at issue. -/
def rdM (s : State) (i : MReg) : Mask128 := FMap.get 0 s.me.m i.toNat

/-- Write register g i of a thread. -/
def putG (s : State) (t i : Nat) (w : Word) : State :=
  s.updCore (t / 64) fun c =>
    let e := (c.thread (t % 64)).gbase * 8 + i
    { c with gfile := FMap.set c.gfile e w
             defects := { c.defects with regs := c.defects.regs.filter fun r => r != (false, e) } }

/-- Write register v i of a thread. -/
def putV (s : State) (t i : Nat) (w : VWord) : State :=
  s.updCore (t / 64) fun c =>
    let e := (c.thread (t % 64)).vbase * 4 + i
    { c with vfile := FMap.set c.vfile e w
             defects := { c.defects with regs := c.defects.regs.filter fun r => r != (true, e) } }

def putM (s : State) (t i : Nat) (w : Mask128) : State := s.updThr t fun h => { h with m := FMap.set h.m i w }

/-- Write register g i of the executing thread. -/
def wrG (s : State) (i : GReg) (w : Word) : State := s.putG s.cur i.toNat w

/-- Mark a register pending (R62): until a cycle, or until its reply. -/
def pend (s : State) (t : Nat) (r : RegRef) (ready : Option Nat) : State :=
  s.updThr t fun h => { h with pend := h.pend ++ [{ reg := r, ready := ready }] }

/-- The cycle in which the executing bundle issued. -/
def issueCycle (s : State) : Nat :=
  match s.began with
  | some i => i.cycle
  | none => s.cycOf s.ck

/-- The executing bundle's place in the order of the operations of its core: what has a lower number was issued before it. -/
def issuePlace (s : State) : Nat :=
  match s.began with
  | some i => i.place
  | none => s.nextId

/-- The executing bundle's place, taken for an operation of its own. -/
def claim (s : State) : Nat × State := (s.issuePlace, { s with nextId := max s.nextId (s.issuePlace + 1) })

/-- Is the executing bundle executed after its issue? -/
def old (s : State) : Bool := s.began.any (·.old)

/-- The cycle l cycles after the executing bundle's issue. -/
def after (s : State) (l : Nat) : Option Nat := some (s.issueCycle + l)

/-- Is the executing thread a gang follower (R100)? -/
def isFollower (s : State) : Bool := s.me.grole == 2

/-- Is the executing thread in a guest slot? -/
def inGuestSlot (s : State) : Bool := decide (56 ≤ s.cur % 64) && decide (s.cur % 64 ≤ 62)

end State

/-- Does a thread have a register pending for a reply or a receipt? -/
def Thread.openMarks (h : Thread) : Bool := h.pend.any fun m => m.ready.isNone

/-- Is a register of the thread pending in cycle c? -/
def Thread.pendingAt (h : Thread) (c : Nat) (r : RegRef) : Bool :=
  h.pend.any fun m => m.reg == r && (match m.ready with | none => true | some n => decide (c < n))

/-- Clear the mark of a register whose reply or receipt has come. -/
def Thread.clearMark (h : Thread) (r : RegRef) : Thread :=
  { h with pend := h.pend.filter fun m => !(m.reg == r && m.ready.isNone) }

/-! ## Fault causes (R334) -/

def FaultRec.of (cause sub : Nat) (faddr : Word) : FaultRec :=
  { cause := cause, sub := sub, faddr := faddr, fprog := 0, kill := false }

def illegal (sub : Nat) : FaultRec := .of 0x01 sub 0
def priv (sub : Nat) (a : Word) : FaultRec := .of 0x02 sub a
def regwin : FaultRec := .of 0x03 0 0
def alignF (a : Word) : FaultRec := .of 0x04 0 a
def pageF (a : Word) : FaultRec := .of 0x05 0 a
def protF (a : Word) : FaultRec := .of 0x06 0 a
def conjF (a : Word) : FaultRec := .of 0x06 0x20 a
def shadowF (i : Nat) : FaultRec := .of 0x08 0 (BitVec.ofNat 64 i)
def feRetryF (a : Word) : FaultRec := .of 0x09 0 a
def staleHaloF (a : Word) : FaultRec := .of 0x0A 0 a
def domainF (i : Nat) : FaultRec := .of 0x0B 0 (BitVec.ofNat 64 i)
def tileF (sub : Nat) (a : Word) : FaultRec := .of 0x0C sub a
def migrateF (a : Word) : FaultRec := .of 0x0D 0 a
def streamF (sub : Nat) (a : Word) : FaultRec := .of 0x0F sub a
def gangF : FaultRec := .of 0x10 0 0
def trapF (imm : BitVec 16) : FaultRec := .of 0x11 (imm.toNat % 256) (imm.setWidth 64)
def gridF (sub : Nat) (a : Word) : FaultRec := .of 0x13 sub a
def copyF (sub : Nat) : FaultRec := .of 0x14 sub 0
/-- Consumption of an uncorrectable or poisoned word (R340). -/
def killF (poison : Bool) (a : Word) : FaultRec :=
  { cause := if poison then 0x12 else 0x07, sub := 0, faddr := a, fprog := 0, kill := true }
/-- The address of the word that lies off bytes after the aligned 8-byte word of an address. -/
def wordAt (va : Word) (off : Nat) : Word := BitVec.ofNat 64 (va.toNat / 8 * 8 + off)

/-- Consumption of a bad register (R340). -/
def killReg (vector : Bool) (entry : Nat) : FaultRec :=
  killF false (BitVec.ofNat 64 (2 ^ 63 + (if vector then 65536 else 0) + entry))

def subOPCODE : Nat := 0x04
def subSUBCODE : Nat := 0x05
def subTAILFIELD : Nat := 0x06
def subFORMAT : Nat := 0x08

/-! ## Messages and logs -/

namespace State

/-- Put a message for a unit of this package on its way. -/
def send (s : State) (m : NetMsg) : State :=
  { s with net := s.net ++ [{ id := s.nextId, msg := m, ingress := none }], nextId := s.nextId + 1 }

/-- The core key of the supervisor core of a tenant. -/
def supervisor (s : State) (n : Nat) : Nat := (s.tenant n).supDie * 512 + (s.tenant n).supCore

/-- The tenant to which core ck is assigned, its token, and whether it is pre-empted: a pre-empted tenant keeps the cores that no other
tenant has been given (R218, R333, R357). DEDUCED, log entry 102. -/
def holder (s : State) (ck : Nat) : Option (Nat × Word × Bool) :=
  let c := s.core ck
  if c.assigned then some (c.tenant, c.capt, (s.tenant c.tenant).preempted)
  else s.saved.findSome? fun x => (FMap.find? x.cores ck).map fun k => (x.tenant, k.capt, (s.tenant x.tenant).preempted)

/-- A fault message or notice on its way to the tenant's supervisor core (R338, R339). -/
def sendFault (s : State) (m : FaultMsg) : State := s.send (.faultMsg s.pkg m)

/-- A notice (R334): not from a thread. -/
def notice (s : State) (tenant cause sub : Nat) (at' : Loc) (faddr : Word) (fprog : Word) : State :=
  s.sendFault { cause := BitVec.ofNat 8 cause, sub := BitVec.ofNat 8 sub, tenant := tenant, killed := false, notice := true
                thread := 0xFF, src := at', faddr := faddr, fpc := 0, fprog := fprog }

/-- A VLOG entry on a core (R349): dropped and counted when the log is full. -/
def vlogAt (s : State) (k : Nat) (addr : Word) (kind tenant src : Nat) : State :=
  s.updCore k fun c =>
    if c.vlog.length < 16 then
      { c with vlog := c.vlog ++ [{ addr := addr, kind := kind, tenant := tenant, src := src, lost := c.vlogLost }]
               vlogLost := 0 }
    else { c with vlogLost := min 127 (c.vlogLost + 1) }

/-- A VLOG entry for the supervisor core of the tenant to which a target belongs; Finsin logs it where there is none
(R349). -/
def vlogTenant (s : State) (target : Nat) (addr : Word) (kind tenant src : Nat) : State :=
  let c := s.core (s.supervisor target)
  if (s.tenant target).active ∧ c.assigned ∧ c.tenant = target then s.vlogAt (s.supervisor target) addr kind tenant src
  else s.addOut (.finsinLog 0 addr)

end State

/-! ## Taking a fault (R335, R340) -/

/-- The registers a kill writes to zero: windows, masks and loop counters (R340). -/
def Core.scrubWindows (c : Core) (n : Nat) : Core :=
  let h := c.thread n
  let g := (List.range (h.wl * 8)).foldl (fun f i => FMap.set f (h.gbase * 8 + i) 0) c.gfile
  let v := (List.range (h.vl * 4)).foldl (fun f i => FMap.set f (h.vbase * 4 + i) 0) c.vfile
  let inWin := fun (r : Bool × Nat) =>
    if r.1 then decide (h.vbase * 4 ≤ r.2) && decide (r.2 < h.vbase * 4 + h.vl * 4)
    else decide (h.gbase * 8 ≤ r.2) && decide (r.2 < h.gbase * 8 + h.wl * 8)
  let d := { c.defects with regs := c.defects.regs.filter fun r => !inWin r }
  ({ c with gfile := g, vfile := v, defects := d } : Core).setThread n { h with m := [], lc0 := 0, lc1 := 0, pend := [] }

/-- Nothing is kept of the bundle that the thread was executing. -/
def Thread.dropBundle (h : Thread) : Thread :=
  { h with withheld := none, late := [], takes := [], holding := none, blocks := [], fillBase := none }

/-- The stream as it stood before an operation of the matrix unit was given vectors: they are fetched again (R210). -/
def Stream.unlend (st : Stream) : Stream := { st with fetched := [], lent := [] }

/-- The stream register that an operation of the matrix queue still takes its A operand from. -/
def MxOp.streamOf : MxOp → Option Nat
  | .mma (.stream q _ _) _ _ _ _ _ _ _ _ _ _ => some q
  | _ => none

/-- Does the matrix unit wait for an entry of thread n, whose vectors are still to come or whose bundle's other half may still fault? -/
def MxEntry.isOpen (e : MxEntry) (n : Nat) : Bool :=
  e.thr == some n && (e.hold || match e.op with
    | .mma (.stream _ need got) _ _ _ _ _ _ _ _ _ _ => decide (got.length < need)
    | _ => false)

/-- What thread n's bundle has under way at the matrix unit leaves it: a SWAPT, and an entry whose vectors are still to come or that waits
for the bundle's other half; the streams go back (R8, R210, R404). -/
def Core.dropMatrix (c : Core) (n : Nat) : Core :=
  let gone := c.mx.queue.filter (MxEntry.isOpen · n)
  { c.setThread n (gone.foldl (fun h e => h.clearMark (.g e.reg)) (c.thread n)) with
    mx := { c.mx with queue := c.mx.queue.filter (fun e => !e.isOpen n), swaps := c.mx.swaps.filter fun w => w.thread != n }
    q := gone.foldl (fun q e =>
      match e.op.streamOf with
      | some i => (match FMap.find? q i with
        | some st => FMap.set q i st.unlend
        | none => q)
      | none => q) c.q }

/-- The core at (y, x) of the cluster of the core at (x, y). -/
def transposed (ck : Nat) : Nat := ck / 16 * 16 + ck % 4 * 4 + ck % 16 / 4

namespace State

/-- The bundle of thread t comes to nothing at the matrix unit; the partner of its SWAPT waits for another one (R215, R404). -/
def dropMatrix (s : State) (t : Nat) : State :=
  let c := s.core (t / 64)
  let met := c.mx.swaps.head?.any fun w => w.thread == t % 64 && w.met
  let s := if c.mx.swaps.any (fun w => w.thread == t % 64) || c.mx.queue.any (MxEntry.isOpen · (t % 64)) then
      s.updCore (t / 64) fun c => c.dropMatrix (t % 64)
    else s
  if met then
    s.updCore (transposed (t / 64)) fun c => { c with mx := { c.mx with swaps := match c.mx.swaps with
      | w :: r => { w with met := false } :: r
      | [] => [] } }
  else s

/-- Leave a gang: role cleared. -/
def leaveGang (h : Thread) : Thread :=
  { h with grole := 0, gsize := 0, leader := none, members := [], gangLeft := [], gangTrap := false, forwarded := [], due := []
           gangEnd := false }

def isStopped (h : Thread) : Bool := h.st == .halted || h.st == .suspended || h.halting.isSome

/-- A follower whose gang has broken up: it returns to WFW, unless it has stopped (R103). -/
def freedFollower (h : Thread) : Thread :=
  if isStopped h || h.st == .away then leaveGang h else (leaveGang { h with st := .wfw, wait := [] }).dropBundle

/-- The gang of leader l breaks up (R103): followers that did not stop return to WFW, the leader goes on with GANGDIS. -/
def breakGang (s : State) (l : Nat) : State :=
  let s := (s.thr l).members.foldl (fun s m => s.updThr m freedFollower) s
  s.updThr l fun h => if isStopped h then leaveGang h else { leaveGang h with gangDis := true }

/-- A member that has stopped on the gang's last bundle leaves the gang, which breaks up, before the others have executed that bundle: a RESUME
or a KILL has come (R103, R352, R353). Of a leader's followers, those that have still to execute it do so before they return to WFW. -/
def quitGang (s : State) (t : Nat) : State :=
  let h := s.thr t
  let s := match h.leader with
    | some l => if l = t then s else s.updThr l fun g => { g with members := g.members.filter (· != t) }
    | none => s
  let s := h.members.foldl (fun s m => if h.gangLeft.contains m then s else s.updThr m freedFollower) s
  s.updThr t leaveGang

/-- The gang of leader l ends by DISBAND or DONE (R102): every follower returns to WFW, the leader is in no gang. -/
def endGang (s : State) (l : Nat) : State :=
  let s := (s.thr l).members.foldl (fun s m => s.updThr m fun h => { leaveGang h with st := .wfw }) s
  s.updThr l leaveGang

/-- A member of a gang has executed the last bundle or trapped on it (R100, R103). -/
def memberDone (s : State) (t : Nat) (trapped : Bool) : State :=
  let h := s.thr t
  if h.grole = 0 then s
  else
    let l := h.leader.getD t
    if h.grole = 2 ∧ !(s.thr l).members.contains t then s.updThr t freedFollower else
    let s := s.updThr l fun g => { g with gangLeft := g.gangLeft.filter (· != t), gangTrap := g.gangTrap || trapped }
    if (s.thr l).gangLeft ≠ [] then s
    else if (s.thr l).gangTrap then s.breakGang l
    else if (s.thr l).gangEnd then s.endGang l
    else s

/-- A guest has left for a package (R313). -/
def guestLeft (s : State) (home : Loc) (dst visit : Nat) : State :=
  { s with guests := { s.guests with moved := (s.guests.moved.filter fun e => e.1 != home) ++ [(home, dst, visit)] } }

/-- A fault reaches its thread once its pending results are written (R335): STATE, the fault registers, the message. A
kill writes the thread's registers to zero (R340). A guest's fault is carried home (R312). -/
def finishFault (s : State) (t : Nat) (f : FaultRec) : State :=
  let s := s.dropMatrix t
  let h := s.thr t
  let ck := t / 64
  match h.home with
  | some (home, tenant) =>
    let p : MigPacket := { pc := h.pc, wl := h.wl, home := home, tenant := tenant, lc0 := h.lc0, lc1 := h.lc1
                           prog := f.fprog, va := 0, fill := false, sub := 0, reg := 0, order := .plain, rx := false
                           count := 0, npc := h.npc.setWidth 32, visit := h.visit
                           regs := (List.range 16).map fun i =>
                             if i < h.wl * 8 then FMap.get 0 (s.core ck).gfile (h.gbase * 8 + i) else 0 }
    let s := if f.kill then s.updCore ck fun c => c.scrubWindows (t % 64) else s
    let s := if f.kill then { s with ops := s.ops.filter fun o => o.thr != t } else s
    let s := (s.setThr t (Thread.reset (t % 64))).guestLeft home home.pkg h.visit
    s.send (.goHome p (if f.kill then .killed (BitVec.ofNat 8 f.cause) f.faddr
      else .fault (BitVec.ofNat 8 f.cause) (BitVec.ofNat 8 f.sub) f.faddr (BitVec.ofNat 64 f.fprog) h.noBundle))
  | none =>
    let s := s.trace (.fault f.cause f.sub)
    let s := if f.kill then s.updCore ck fun c => c.scrubWindows (t % 64) else s
    let s := if f.kill then { s with ops := s.ops.filter fun o => o.thr != t } else s
    let s := s.updThr t fun h =>
      { h.dropBundle with st := .halted, fcause := BitVec.ofNat 8 f.cause, fsub := BitVec.ofNat 8 f.sub, faddr := f.faddr
                          fpc := h.pc, fprog := BitVec.ofNat 64 f.fprog, killed := f.kill
                          pend := [], wait := [], halting := none, rearm := none }
    let s := if t % 64 = 63 then s.updCore ck fun c => { c with comm := c.comm.idle } else s
    let s := s.sendFault { cause := BitVec.ofNat 8 f.cause, sub := BitVec.ofNat 8 f.sub, tenant := (s.core ck).tenant
                           killed := f.kill, notice := false, thread := BitVec.ofNat 8 (t % 64), src := s.loc t
                           faddr := f.faddr, fpc := h.pc, fprog := BitVec.ofNat 64 f.fprog }
    s.memberDone t true

/-- Take a fault on thread t: the bundle writes nothing and the thread issues no more; while a result is still pending
for a reply, the thread halts when it has come (R335). A guest departs first as R157 states (R312): the step finishes its
fault. -/
def takeFault (s : State) (t : Nat) (f : FaultRec) : State :=
  let s := s.dropMatrix t
  if ((s.thr t).openMarks ∨ (s.thr t).home.isSome) ∧ ¬f.kill then
    s.updThr t fun h => { h.dropBundle with halting := some f, wait := [] }
  else s.finishFault t f

/-- A reply or a receipt has come for thread t: a fault that waited for it is finished (R335). -/
def settle (s : State) (t : Nat) : State :=
  match (s.thr t).halting with
  | some f => if (s.thr t).openMarks ∨ (s.thr t).home.isSome then s else s.finishFault t f
  | none => s

/-- The executing thread takes a fault. -/
def fault (s : State) (f : FaultRec) : State := s.takeFault s.cur f

end State

/-! ## Lines (R28 to R42) -/

/-- Unit j of a line. -/
def Line.unit (l : Line) (j : Nat) : Nat := (l.bytes >>> (16 * j)).toNat % 65536

def headTl (u : Nat) : Nat := u / 0x4000 % 4
def headP (u : Nat) : Bool := decide (u / 0x2000 % 2 = 1)
def headOpc (u : Nat) : Nat := u / 16 % 512
def headSub (u : Nat) : Nat := u % 16
/-- Is a head on the V side? -/
def headV (u : Nat) : Bool := decide (256 ≤ headOpc u)

def Line.hc (l : Line) : Nat := l.unit 0 / 2048

/-- Tail units of heads 1 to n. -/
def Line.tails (l : Line) (n : Nat) : Nat := ((List.range n).map fun i => headTl (l.unit (i + 1))).foldl (· + ·) 0

/-- The lowest unit of the tail of head i, or of the nearest earlier tail (R32). -/
def Line.tailLow (l : Line) (i : Nat) : Nat := 32 - l.tails i

/-- The tail of head i as a number, its lowest unit the least significant (R32). -/
def Line.tail (l : Line) (i : Nat) : Nat :=
  let n := headTl (l.unit i)
  (List.range n).foldl (fun v j => v + l.unit (l.tailLow i + j) * 65536 ^ j) 0

/-- Walk the heads from i to hc: is a pair malformed (R37), with second telling whether head i completes one? -/
def Line.pairsOk (l : Line) (hc : Nat) : Nat → Nat → Bool → Bool
  | 0, _, _ => true
  | fuel + 1, i, second =>
    if hc < i then true
    else
      let u := l.unit i
      if second then !headP u && (headV u != headV (l.unit (i - 1))) && Line.pairsOk l hc fuel (i + 1) false
      else if headP u then decide (i < hc) && Line.pairsOk l hc fuel (i + 1) true
      else Line.pairsOk l hc fuel (i + 1) false

/-- Does head i complete a pair, in a line whose pairs are well formed? -/
def Line.completes (l : Line) (i : Nat) : Bool := decide (1 < i) && headP (l.unit (i - 1))

/-- The line checks of R37 for an entry at offset off: the subcode of the first that fails. -/
def Line.check (l : Line) (off : Nat) : Option Nat :=
  let hc := l.hc
  if hc = 0 ∨ l.unit 0 % 2048 ≠ 0 then some 0x01
  else if 32 < 1 + hc + l.tails hc then some 0x01
  else if !l.pairsOk hc 32 1 false then some 0x02
  else if off = 0 ∨ off % 2 = 1 ∨ 2 * hc < off ∨ l.completes (off / 2) then some 0x03
  else none

/-- The next PC after the bundle at pc (R40). -/
def Line.nextPc (l : Line) (pc : Nat) : Nat :=
  let i := pc % 64 / 2
  let j := if headP (l.unit i) then i + 2 else i + 1
  if j ≤ l.hc then l.base + 2 * j else l.base + 66

namespace State

/-- A fault without a faulting bundle: at line entry or at a transfer target (R37, R41, R82). -/
def entryFault (s : State) (t : Nat) (pc : Word32) (f : FaultRec) : State :=
  (s.updThr t fun h => { h with pc := pc, noBundle := true }).takeFault t f

/-- Thread t parks on the fetch of the line of a PC (R64): at its core's port in issue order, or for a guest at its home core's
window, which the step asks for (R309). -/
def enterLine (s : State) (t : Nat) (pc : Word32) : State :=
  { (s.updThr t fun h =>
      { h with pc := pc, st := .parked, line := none, wait := [.line], fetch := if h.home.isNone then some s.nextId else none }) with
    nextId := s.nextId + 1 }

/-- Thread t goes on at a PC: within the held line at once, else after the fetch of its line (R41, R42, R64, R82). -/
def goTo (s : State) (t : Nat) (npc : Word) : State :=
  let pc := npc.setWidth 32
  let n := npc.toNat
  if n % 2 = 1 ∨ n % 64 = 0 then s.entryFault t pc (illegal 0x03)
  else if 0x28000 ≤ n / 64 * 64 then s.entryFault t pc (protF (BitVec.ofNat 64 (n / 64 * 64)))
  else
    match (s.thr t).line with
    | some l =>
      if l.base = n / 64 * 64 then
        match l.check (n % 64) with
        | some sub => s.entryFault t pc (illegal sub)
        | none => s.updThr t fun h => { h with pc := pc, st := .run, wait := [] }
      else s.enterLine t pc
    | none => s.enterLine t pc

/-- Go on at a PC after a fresh fetch of its line (R42). -/
def goFresh (s : State) (t : Nat) (npc : Word) : State := (s.updThr t fun h => { h with line := none }).goTo t npc

end State

/-- Has the thread's bundle still something to do as it retires: a half withheld, results to write, vectors to take, or the effects of its
SWAPT or MMA (R404)? -/
def Thread.unsettled (h : Thread) : Bool := h.withheld.isSome || h.late != [] || h.takes != [] || h.holding.isSome

namespace State

/-- The bundle of thread t retires (R40, R404): FPROG becomes 0 (R130) and the thread goes on at its next PC, unless it
waits, has something to do as it retires, has an arrival's access to make or a wait to re-arm, has stopped or has left the rotation. A follower has no PC (R100). -/
def retire (s : State) (t : Nat) : State :=
  let h := s.thr t
  if h.wait ≠ [] ∨ h.unsettled ∨ h.halting.isSome ∨ h.arrived.isSome ∨ h.rearm.isSome ∨ ¬(h.st = .run ∨ h.st = .parked) then s
  else
    let s := s.updThr t fun h => { h with fprog := 0, fillBase := none, st := .run }
    if h.grole = 2 then s.memberDone t false
    else (s.goTo t h.npc).memberDone t false

/-- Thread t stops waiting for w; when it waits for nothing more its bundle retires. -/
def doneWaiting (s : State) (t : Nat) (w : Wait) : State :=
  (s.updThr t fun h => { h with wait := h.wait.filter (· != w) }).retire t

/-- Park thread t on a wait (R88). -/
def park (s : State) (t : Nat) (w : Wait) : State :=
  s.updThr t fun h => { h with st := .parked, wait := h.wait ++ [w] }

/-- Hold thread t on a wait: it keeps STATE RUN (R124). -/
def hold (s : State) (t : Nat) (w : Wait) : State := s.updThr t fun h => { h with wait := h.wait ++ [w] }

/-- The thread is parked and its bundle is issued again when its condition holds. -/
def again (s : State) : State := s.updThr s.cur fun h => { h with st := .parked, wait := [.again] }

/-- The bundle is not issued: the thread is parked until it may be (R136, R138, R199). -/
def unissued (s : State) : State := s.updThr s.cur fun h => { h with st := .parked, wait := [.issue] }

/-- The thread is parked until the message engine has read an extent at another package. -/
def untilRead (s : State) : State := s.updThr s.cur fun h => { h with st := .parked, wait := [.reads] }

/-- The same, with the thread held: STATE stays RUN (R124). -/
def againHeld (s : State) : State := s.updThr s.cur fun h => { h with wait := [.again] }

/-- The thread is parked until the accesses that the core issued before the bundle are performed; later ones wait behind it (R122). -/
def atPort (s : State) : State := s.updThr s.cur fun h => { h with st := .parked, wait := [.port] }

/-- The same, with the thread held (R124). -/
def atPortHeld (s : State) : State := s.updThr s.cur fun h => { h with wait := [.port] }

/-- Must the bundle wait for a condition of its own? In the second half of a pair the condition has already been found to
hold (R27). -/
def waits (s : State) (c : Bool) : Bool := !s.second && c

/-! ## A bundle that is executed after its issue (R27, R62, R122, R404) -/

/-- What the bundle of operations l that issues now on core ck keeps of its issue. -/
def issueNow (s : State) (ck : Nat) (l : List Instr) : Issue :=
  let c := s.core ck
  { cycle := s.cycOf ck, place := s.nextId, ops := l, old := false, q := c.q, tabA := c.tabs.a, tabB := c.tabs.b, pairs := c.means.pairs, c := c.c
    csets := c.csets }

/-- Thread t executes the bundle that it issued before: its registers hold what they held, since the thread has waited, and the tables,
the streams and the shared registers are those of the issue. A CRRS.qm that waits for its message has the table pairs of its issue too (R264;
DESIGN CHOICE, log entry 133). -/
def resume (s : State) (t : Nat) (i : Issue) : State :=
  let c := s.core (t / 64)
  { s with
    cur := t, began := some { i with old := true }, second := false
    snap := some { c with tabs := { c.tabs with a := i.tabA, b := i.tabB }, means := { c.means with pairs := i.pairs }
                          c := i.c, csets := i.csets, q := i.q } }

/-- Nothing of an issue is kept after it. -/
def settled (s : State) : State := { s with snap := none, began := none, second := false }

end State

/-- Does a wait end with the execution of the bundle? -/
def Wait.isOwn : Wait → Bool
  | .again | .port | .grid _ _ | .reads => true
  | _ => false

/-- The ingress horizon of the present moment takes in what is accepted until the cycle ends (R148). -/
def Wait.close (seq : Nat) : Wait → Wait
  | .horizon none => .horizon (some seq)
  | w => w

/-- Does a wait end with the execution of the bundle, the page walker's included? -/
def Wait.isEarly (w : Wait) : Bool :=
  w.isOwn || match w with
  | .walk _ _ _ => true
  | _ => false

namespace State

/-- The places that a bundle takes in the order of its core's operations: those of its halves in the order of halfRank, and that of a half
that is withheld. -/
def bundlePlaces : Nat := 4

/-- Thread t keeps the issue of a bundle that it has still to execute, or of which a half is. -/
def keepIssue (s : State) (t : Nat) (i : Issue) : State :=
  if (s.thr t).wait.any Wait.isEarly ∨ (s.thr t).withheld.isSome then
    { (s.updThr t fun h => { h with issue := some i }) with nextId := max s.nextId (i.place + bundlePlaces) }
  else
    { (s.updThr t fun h => { h with issue := none }) with
      nextId := if i.ops.length = 1 then s.nextId else max s.nextId (i.place + bundlePlaces) }

end State

end Sys2Proof.Machine
end

