-- ==== Sys2Proof/Machine/Access.lean ====
section
/-! DEFINITION. How an access finds its place: the physical map (R17, R18, R115), translation and its checks (R114, R117 to
R121), launching an operation's accesses, the conditions under which one is sent and performed (R24, R122, R147, R151), and
the performance of plain reads and writes at their bank. -/

namespace Sys2Proof.Machine

open Sys2Proof

/-! ## The physical map -/

/-- Usable device memory of a die in bytes: 67.5 GiB (R18). -/
def dmSize : Nat := 0x10E0000000

/-- The place of window offset w of core window core (R115). -/
def windowPlace (core w : Nat) : Place :=
  if w < 0x28000 then .buf core .ulm w
  else if 0x100000 ≤ w ∧ w < 0x140000 then .buf core .wb (w - 0x100000)
  else if 0x200000 ≤ w ∧ w < 0x230000 then .buf core .ab (w - 0x200000)
  else if 0x300000 ≤ w ∧ w < 0x328000 then .acc core (w - 0x300000)
  else if 0x400000 ≤ w ∧ w < 0x410000 then .csr core (w - 0x400000)
  else .hole

/-- What a global physical address names within its package (R18). -/
def shapeOf (gpa : Nat) : Place :=
  let die := gpa / 2 ^ 45 % 8
  let off := gpa % 2 ^ 45
  if off < dmSize then .dm (die * 2 ^ 45 + off)
  else if 0x100000000000 ≤ off ∧ off < 0x100100000000 then
    windowPlace (die * 512 + (off - 0x100000000000) / 0x800000) ((off - 0x100000000000) % 0x800000)
  else .hole

/-- The place of a global physical address (R17, R18). -/
def State.resolve (s : State) (gpa : Nat) : Place :=
  if gpa / 2 ^ 48 % 256 ≠ s.pkg then .remote gpa else shapeOf gpa

/-- The global physical address of a core window offset in this package. -/
def State.windowAddr (s : State) (core w : Nat) : Nat :=
  s.pkg * 2 ^ 48 + core / 512 * 2 ^ 45 + 0x100000000000 + core % 512 * 0x800000 + w

/-- The home cluster of an address: die and cluster (R12). -/
def homeCluster (gpa : Nat) : Nat × Nat :=
  let die := gpa / 2 ^ 45 % 8
  let off := gpa % 2 ^ 45
  if off < dmSize then (die, off / 4096 % 32) else (die, (off - 0x100000000000) / 0x800000 / 16 % 32)

/-- The bank of a place (R147, R405): a 64-byte block of device memory, or a core's port. -/
def Place.bank : Place → Nat
  | .dm a => 2 * (a / 64)
  | .buf c _ _ | .acc c _ | .csr c _ => 2 * c + 1
  | .remote g => 2 * (g / 64) + 2 ^ 60
  | .hole => 0

/-- The die of a place in this package. -/
def Place.die : Place → Nat
  | .dm a => a / 2 ^ 45 % 8
  | .buf c _ _ | .acc c _ | .csr c _ => c / 512
  | _ => 0

def Place.isRemote : Place → Bool
  | .remote _ => true
  | _ => false

/-- Is an access a WAITGEN that has only its condition to wait for: held at its engine, or on its way to another package's and back
(R88, R106)? -/
def Access.isHeld (a : Access) : Bool :=
  a.held.isSome || (a.place.isRemote && a.via.isSome && a.ans.isNone &&
    (match a.kind with | .atomic (.waitgen _) => true | _ => false))

/-- The offset of a place in its memory. -/
def placeOff : Place → Nat
  | .dm a | .buf _ _ a | .acc _ a | .csr _ a | .remote a => a
  | .hole => 0

/-- The same kind of place i bytes on. -/
def Place.plus : Place → Nat → Place
  | .dm a, i => .dm (a + i)
  | .buf c sp o, i => .buf c sp (o + i)
  | .acc c o, i => .acc c (o + i)
  | .csr c o, i => .csr c (o + i)
  | .remote g, i => .remote (g + i)
  | .hole, _ => .hole

/-! ## Translation (R117 to R119) -/

/-- What an access is, for the rights of R115 and R118. The units that R115 lists for no core window use engine and engineWr: the dispenser,
the message engine, inbound and outbound streams, SAVEC and LOADC, the mailbox, Ethernet and watch units of the I/O die. -/
inductive Use where
  | ld (n : Nat) | st (n : Nat) | ldv | stv | ldx | stx | spill | fill | atomic | copyRd | copyWr | engine | engineWr
  deriving DecidableEq, Repr

def Use.isWrite : Use → Bool
  | .st _ | .stv | .stx | .spill | .copyWr | .engineWr => true
  | _ => false
def Use.isAtomic : Use → Bool
  | .atomic => true
  | _ => false

/-- Core-scope registers that the window serves: readable, writable (R115, R347). -/
def csrWindow (write : Bool) (off : Nat) : Bool :=
  decide (off % 8 = 0) &&
  (if write then [0x44, 0x45, 0x46, 0x47].contains (off / 8)
   else [0x41, 0x42, 0x44, 0x45, 0x46, 0x47, 0x48, 0x49].contains (off / 8))

/-- Does R115 permit this use of what a place names? fromSup: the issuing core is its tenant's supervisor core. -/
def shapeAllows (fromSup : Bool) (u : Use) : Place → Bool
  | .dm _ => true
  | .buf _ .ulm _ => match u with
    | .spill | .fill | .engine | .engineWr => false
    | _ => true
  | .buf _ _ _ => match u with
    | .ldv | .stv | .copyRd | .copyWr => true
    | _ => false
  | .acc _ _ => match u with
    | .ld _ | .ldv | .copyRd => true
    | _ => false
  | .csr _ off => match u with
    | .ld 8 => fromSup && csrWindow false off
    | .st 8 => fromSup && csrWindow true off
    | _ => false
  | .remote _ | .hole => false

/-- Does R115 permit this use of a place, in this package or in another? -/
def placeAllows (fromSup : Bool) (u : Use) : Place → Bool
  | .remote g => shapeAllows fromSup u (shapeOf g)
  | p => shapeAllows fromSup u p

/-- The outcome of translating an access. -/
inductive Tr where
  | ok (p : Place) (gpa : Nat)
  /-- neither TLB holds the translation -/
  | miss
  /-- a fault; with a log entry for the owner of the address when it lies outside the tenant's windows -/
  | bad (f : FaultRec) (outside : Option Nat)
  deriving DecidableEq, Repr

/-- One level of the tree: index shift, index bits, page size of a leaf (0: no leaf), size of the next table (0: none). -/
def levels : List (Nat × Nat × Nat × Nat) :=
  [(46, 11, 0, 16384), (35, 11, 2 ^ 35, 512), (29, 6, 2 ^ 29, 2048), (21, 8, 2 ^ 21, 256), (16, 5, 2 ^ 16, 0)]

/-- Walk the remaining levels from a table in device memory; none is a PAGE fault (R119). -/
def walkFrom (s : State) (tenant : Nat) (va : Nat) : List (Nat × Nat × Nat × Nat) → Nat → Option TlbEntry
  | [], _ => none
  | (sh, bits, page, next) :: r, table =>
    let e := s.dm.nat (table + 8 * (va / 2 ^ sh % 2 ^ bits)) 8
    let addr := e / 256 % 2 ^ 48 * 256
    if e % 2 = 0 ∨ e / 2 ^ 56 ≠ 0 ∨ e / 32 % 8 ≠ 0 then none
    else if e / 2 % 2 = 1 then
      if page = 0 ∨ addr % page ≠ 0 then none
      else some { tenant := tenant, base := va / page * page, size := page, phys := addr
                  at' := decide (e / 16 % 2 = 1), wr := decide (e / 8 % 2 = 1), rd := decide (e / 4 % 2 = 1) }
    else if next = 0 ∨ addr % next ≠ 0 then none
    else
      match s.resolve addr, s.resolve (addr + next - 1) with
      | .dm a, .dm _ => walkFrom s tenant va r a
      | _, _ => none

namespace State

/-- The walk of a tenant's tree (R117); a tenant that is not activated has no translation. DEDUCED, log entry 100. -/
def walk (s : State) (tenant : Nat) (va : Nat) : Option TlbEntry :=
  if !(s.tenant tenant).active then none
  else
    match s.resolve (s.tenant tenant).root with
    | .dm a => walkFrom s tenant va levels a
    | _ => none

/-- The translation that the core's micro-TLB or its cluster's TLB holds (R119). -/
def tlbLookup (s : State) (ck tenant va : Nat) : Option TlbEntry :=
  let hit := fun (e : TlbEntry) => e.tenant = tenant ∧ e.base ≤ va ∧ va < e.base + e.size
  match (s.core ck).utlb.find? hit with
  | some e => some e
  | none => (FMap.get [] (s.die (ck / 512)).tlb (ck % 512 / 16)).find? hit

/-- Enter a translation into both TLBs, displacing the oldest entry of a full one (DESIGN CHOICE, log entry 19). -/
def tlbInsert (s : State) (ck : Nat) (e : TlbEntry) : State :=
  let s := s.updCore ck fun c => { c with utlb := (e :: c.utlb).take 32 }
  s.updDie (ck / 512) fun d =>
    { d with tlb := FMap.set d.tlb (ck % 512 / 16) ((e :: FMap.get [] d.tlb (ck % 512 / 16)).take 1024) }

/-- Does a tenant's physical window hold the address (R380)? -/
def inWindows (s : State) (tenant gpa : Nat) : Bool :=
  (s.tenant tenant).windows.any fun w => decide (w.1 ≤ gpa) && decide (gpa < w.2)

/-- Checks 2 to 4 of R119 on a translated access. -/
def checkEntry (s : State) (ck tenant : Nat) (va : Word) (u : Use) (e : TlbEntry) : Tr :=
  let gpa := e.phys + (va.toNat % 2 ^ 57 - e.base)
  if (u.isAtomic && !e.at') || (!u.isAtomic && u.isWrite && !e.wr) || (!u.isAtomic && !u.isWrite && !e.rd) then
    .bad (protF va) none
  else if !s.inWindows tenant gpa then .bad (protF va) (some gpa)
  else if !placeAllows ((s.core ck).sv && (s.core ck).tenant == tenant) u (s.resolve gpa) then .bad (protF va) none
  else .ok (s.resolve gpa) gpa

/-- A virtual address is canonical when bits 63 to 57 copy bit 56 (R114). -/
def canonical (va : Word) : Bool := decide ((va.setWidth 57).signExtend 64 = va)

/-- Translate an access of a thread of core ck through its TLBs; a miss whose walk would find no entry is a PAGE fault. -/
def translate (s : State) (ck tenant : Nat) (va : Word) (u : Use) : Tr :=
  match s.tlbLookup ck tenant (va.toNat % 2 ^ 57) with
  | none => if (s.walk tenant (va.toNat % 2 ^ 57)).isSome then .miss else .bad (pageF va) none
  | some e => s.checkEntry ck tenant va u e

/-- Translate an access of an engine: a miss walks at once. -/
def translateNow (s : State) (ck tenant : Nat) (va : Word) (u : Use) : Tr :=
  if !canonical va then .bad (pageF va) none
  else
    match (s.tlbLookup ck tenant (va.toNat % 2 ^ 57)).or (s.walk tenant (va.toNat % 2 ^ 57)) with
    | none => .bad (pageF va) none
    | some e => s.checkEntry ck tenant va u e

/-- The owner of a physical address: the tenant whose windows hold it. -/
def ownerOf (s : State) (gpa : Nat) : Option Nat := firstBelow 16 fun n => (s.tenant n).active && s.inWindows n gpa

/-- Who asks for an access: the place of its thread or unit, or of the requester at another package. -/
def accLoc (s : State) (a : Access) : Loc :=
  match a.back, a.thr with
  | some (l, _), _ => l
  | none, some t => s.loc t
  | none, none =>
    if a.core < 4096 then { pkg := s.pkg, die := a.core / 512, core := a.core % 512, thread := 0 }
    else { pkg := s.pkg, die := (a.core - 4096) % 8, core := 0, thread := 0 }

/-- Log an access outside every window of its tenant at the target (R119, R349). -/
def logOutside (s : State) (va : Word) (tenant : Nat) (src : Loc) : Option Nat → State
  | none => s
  | some gpa => s.vlogTenant ((s.ownerOf gpa).getD 16) va 0x01 tenant (locWord src)

/-- Checks 2 to 4 of R121 for one access of the executing thread: space and offset, alignment, translation. -/
def checkAccess (s : State) (sp : Space) (va : Word) (n align : Nat) (u : Use) : Tr :=
  match sp with
  | .dm =>
    if !canonical va then .bad (pageF va) none
    else if va.toNat % align ≠ 0 then .bad (alignF va) none
    else s.translate s.ck s.myTenant va u
  | _ =>
    if bufSize sp < va.toNat + n then .bad (protF va) none
    else if va.toNat % align ≠ 0 then .bad (alignF va) none
    else .ok (.buf s.ck sp va.toNat) (s.windowAddr s.ck 0)

/-- The executing thread's access failed: the fault, or the walk that its bundle waits for (R119). -/
def accessFails (s : State) (va : Word) : Tr → State
  | .ok _ _ => s
  | .miss =>
    { (s.updThr s.cur fun h => { h with st := .parked, wait := [.walk s.myTenant va s.nextId] }) with nextId := s.nextId + 1 }
  | .bad f o => (s.logOutside va s.myTenant (s.loc s.cur) o).fault f

end State

/-! ## Launching accesses -/

/-- A piece of an operation: its virtual address, place and action. -/
structure Piece where
  va : Word
  place : Place
  kind : AccKind
  deriving DecidableEq, Repr

/-- Cut n bytes at a place into pieces, one per 64-byte block of device memory, one for a buffer (R405). -/
def cutLoad (va : Word) (p : Place) (n : Nat) : List Piece :=
  match p with
  | .dm _ | .remote _ =>
    if n ≤ 64 then [{ va := va, place := p, kind := .load n }]
    else (List.range (n / 64)).map fun i =>
      { va := va + BitVec.ofNat 64 (64 * i), place := p.plus (64 * i), kind := .load 64 }
  | _ => [{ va := va, place := p, kind := .load n }]

def cutStore (va : Word) (p : Place) (d : List Byte) : List Piece :=
  match p with
  | .dm _ | .remote _ =>
    if d.length ≤ 64 then [{ va := va, place := p, kind := .store d }]
    else (List.range (d.length / 64)).map fun i =>
      { va := va + BitVec.ofNat 64 (64 * i), place := p.plus (64 * i), kind := .store (slice d (64 * i) 64) }
  | _ => [{ va := va, place := p, kind := .store d }]

/-- How an operation's accesses are ordered. -/
structure Mode where
  relaxed : Bool := false
  ord : Bool := false
  rel : Option Scope := none
  acqSys : Bool := false
  sig : Option Nat := none

/-- A plain access. -/
def Mode.plain : Mode := {}

def Mode.ofMcw (m : Mcw) : Mode :=
  { relaxed := m.rx, ord := m.ord
    rel := match m.order with | .rel sc => some sc | _ => none
    acqSys := match m.order with | .acq .sys => true | _ => false }

namespace State

/-- The entries of issued for the pieces, numbered from n on. -/
def pieceList (t ck tenant op turn : Nat) (md : Mode) : Nat → Nat → List Piece → List Access
  | _, _, [] => []
  | id, i, p :: r =>
    { id := id, turn := turn, op := op, part := i, thr := some t, core := ck, tenant := tenant, va := p.va, place := p.place
      kind := p.kind, relaxed := md.relaxed, ord := md.ord, rel := md.rel, sig := md.sig, acq := md.acqSys } ::
    pieceList t ck tenant op turn md (id + 1) (i + 1) r

/-- Issue an operation of thread t: its pieces go to the port in order, at the bundle's place. The operation's number is s.nextId. -/
def launchFor (s : State) (t : Nat) (what : OpWhat) (md : Mode) (ps : List Piece) : State :=
  let op := s.nextId
  { s with
    nextId := op + 1 + ps.length
    ops := s.ops ++ [{ id := op, thr := t, what := what, left := ps.length, got := [], relaxed := md.relaxed
                       acqSys := md.acqSys, badWord := none }]
    issued := s.issued ++ pieceList t (t / 64) (s.tenantOf t) op s.issuePlace md (op + 1) 0 ps }

/-- Issue an operation of the executing thread. -/
def launch (s : State) (what : OpWhat) (md : Mode) (ps : List Piece) : State := s.launchFor s.cur what md ps

/-! ## Outstanding accesses of a thread -/

def isStore (a : Access) : Bool :=
  match a.kind with
  | .store _ | .masked _ => true
  | _ => false

/-- The thread's outstanding relaxed accesses numbered below n: unaccepted ones, and loads in flight (R24, R124). -/
def relaxedBefore (s : State) (t n : Nat) : Nat :=
  (s.issued.filter fun a => a.thr == some t && a.relaxed && decide (a.id < n)).length +
  (s.flight.filter fun a => a.thr == some t && a.relaxed && !isStore a && decide (a.id < n)).length

/-- The number of relaxed operations of a thread that are not answered (R124): one per operation. -/
def relaxedOps (s : State) (t : Nat) : Nat :=
  (s.ops.filter fun o => o.thr == t && o.relaxed &&
    (s.issued.any (fun a => a.op == o.id) || s.flight.any (fun a => a.op == o.id && !isStore a))).length

/-- Is an accepted store, atomic or block of the thread acknowledged at a scope (R147)? -/
def ackedAt (sc : Scope) (a : Access) : Bool :=
  match sc with
  | .core => true
  | .die => a.place.isRemote || decide (a.place.die ≠ a.core / 512)
  | .pkg => a.place.isRemote
  | .sys => a.place.isRemote && a.routeAck

/-- Every store and atomic of thread t numbered below n is acknowledged at a scope (R147). -/
def storesAcked (s : State) (t n : Nat) (sc : Scope) : Bool :=
  let w := fun (a : Access) => a.thr == some t && decide (a.id < n) &&
    (match a.kind with | .load _ => false | _ => true)
  !(s.issued.any w) && (s.flight.filter w).all fun a => a.ans.isSome || ackedAt sc a

/-- Every store of thread t numbered below n has its bank acknowledgement, wherever the bank lies (R98, R157). -/
def storesDone (s : State) (t n : Nat) : Bool :=
  let w := fun (a : Access) => a.thr == some t && isStore a && decide (a.id < n)
  !(s.issued.any w) && !(s.flight.any w)

/-- May an issued access be sent: relaxed accesses answered (R24), release condition met (R124, R147)? -/
def sendable (s : State) (a : Access) : Bool :=
  match a.thr with
  | none => true
  | some t =>
    (a.relaxed || decide (s.relaxedBefore t a.id = 0)) &&
    (match a.rel with | none => true | some sc => s.storesAcked t a.id sc)

/-! ## The core's port and its buffers (R122) -/

end State

/-- What operations of one core share, so that one that waits keeps its place before those issued after it: a local buffer (R122),
the queue of the matrix unit (R199), its grids (R281), its tiles (R243). -/
inductive Shared where
  | buf (sp : Space)
  | matrix
  | grids
  | tiles
  deriving DecidableEq, Repr

/-- Does an operation use what the core's operations share at its place? -/
def uses (u : Shared) (i : Instr) : Bool :=
  match u, i with
  | .buf .ulm, .sbind .. | .buf .ulm, .mcmd .. | .buf .ulm, .dtld .. | .buf .ulm, .qtld .. | .buf .ulm, .ldfe ..
  | .buf .ulm, .stfe .. | .buf .ulm, .ldff .. | .buf .ulm, .stff .. | .buf .ulm, .cbegin .. | .buf .ulm, .csend .. | .buf .ulm, .gdecl ..
  | .buf .ulm, .gstep .. => true
  | .buf .ab, .gdecl .. | .buf .ab, .gstep .. | .buf .ab, .gld .. | .buf .ab, .gst .. | .buf .ab, .ldt .. | .buf .ab, .tread ..
  | .buf .ab, .swapt .. => true
  | .buf .wb, .bld .. => true
  | .buf sp, .mmaStream .. | .buf sp, .mmaAb .. | .buf sp, .mmasK16Stream .. | .buf sp, .mmasK16Ab .. | .buf sp, .mmasK8Stream ..
  | .buf sp, .mmasK8Ab .. => sp != .wb
  | .buf sp, .ld _ m _ _ _ | .buf sp, .st _ m _ _ _ | .buf sp, .stSig _ m _ _ _ _ | .buf sp, .ldv m _ _ _ | .buf sp, .stv m _ _ _
  | .buf sp, .ldx _ m _ _ _ _ | .buf sp, .stx _ m _ _ _ _ | .buf sp, .amo _ _ m _ _ _ _ | .buf sp, .cas _ m _ _ _ _
  | .buf sp, .amof _ m _ _ _ _ | .buf sp, .join m _ _ _ | .buf sp, .leave m _ _ | .buf sp, .arrive m _ _ _
  | .buf sp, .arriveBytes m _ _ _ _ | .buf sp, .waitgen m _ _ _ => m.sp == sp
  | .buf .ulm, .spillG ulm .. | .buf .ulm, .spillV ulm .. | .buf .ulm, .fillG ulm .. | .buf .ulm, .fillV ulm .. => ulm
  | .matrix, .mmaStream .. | .matrix, .mmaAb .. | .matrix, .mmasK16Stream .. | .matrix, .mmasK16Ab .. | .matrix, .mmasK8Stream ..
  | .matrix, .mmasK8Ab .. | .matrix, .bld .. | .matrix, .brot | .matrix, .tcont .. => true
  | .grids, .gdecl .. | .grids, .gld .. | .grids, .gst .. | .grids, .gstep .. | .grids, .gstat .. | .grids, .gfree .. => true
  | .tiles, .talloc .. | .tiles, .tstat .. | .tiles, .tread .. | .tiles, .twait .. | .tiles, .taban .. | .tiles, .tpeek ..
  | .tiles, .tfree .. => true
  | _, _ => false

/-- May an operation wait for something that has no bound: a record's generation, a full/empty word, a partner, a stream (R88)? -/
def waitsOpenly : Instr → Bool
  | .waitgen .. | .ldfe .. | .stfe .. | .ldff .. | .swapt .. | .mmaStream .. | .mmasK16Stream .. | .mmasK8Stream .. => true
  | _ => false

/-- The slot of the core that a handle names (R221, R222). -/
def Core.handleSlot (c : Core) (h : Word) : TileSlot := FMap.get TileSlot.reset c.tiles.slots (h.toNat / 2 ^ 39 % 32)

/-- Does an operation of thread h of a core, which waits at the port, come before those that use the same? A TREAD whose tile is not COMPLETE
yet does so for AB only: a TABAN may end its wait (R237, R243). -/
def comesFirst (c : Core) (h : Thread) (u : Shared) (i : Instr) : Bool :=
  uses u i && (match u, i with
    | .tiles, .tread _ _ _ _ _ b => (c.handleSlot (FMap.get 0 c.gfile (h.gbase * 8 + b.toNat))).st == .complete
    | _, _ => true)

/-- Is an access before another in the issue order of their core? -/
def Access.before (b a : Access) : Bool := decide (b.turn < a.turn) || (b.turn == a.turn && decide (b.id < a.id))

namespace State

/-- The buffers that an entry of the matrix queue reads: AB or WB, and ULM for vector scales that it has still to read. -/
def mxTouches (e : MxEntry) (sp : Space) : Bool :=
  match e.op, sp with
  | .mma (.ab _) _ _ _ _ _ _ _ _ _ _, .ab => true
  | .mma (.stream _ _ _) _ (some _) _ _ _ _ _ _ _ _, .ab => true
  | .mma _ _ _ _ false scla sclb _ _ _ _, .ulm =>
    e.scl.isNone && (decide (scla.toNat / 2 ^ 30 = 2) || decide (sclb.toNat / 2 ^ 30 = 2))
  | .bld _ _ _, .wb => true
  | _, _ => false

/-- Does the walk that thread h of core ck waits for lead to its core's own buffer sp? -/
def walksTo (s : State) (ck : Nat) (h : Thread) (sp : Space) : Bool :=
  h.wait.any fun w => match w with
    | .walk n va _ => (s.walk n (va.toNat % 2 ^ 57)).any fun e =>
        match s.resolve (e.phys + (va.toNat % 2 ^ 57 - e.base)) with
        | .buf c sp' _ => c == ck && sp' == sp
        | _ => false
    | _ => false

/-- Does an operation that has still to take effect stand before number n, among those of core ck that use u: at its place at the core's
port; withheld, where its bundle's other half answers in bounded time, or among the grid and tile operations, whose order is that of their
issue (R243, R281; DEDUCED, log entry 96); or on its way through the page walker? -/
def ahead (s : State) (ck n : Nat) (u : Shared) : Bool :=
  let c := s.core ck
  c.threads.any fun (h : Nat × Thread) =>
    h.2.issue.any fun i =>
      (h.2.wait == [.port] && decide (i.place < n) && i.ops.any (comesFirst c h.2 u)) ||
      (h.2.withheld.any fun w => decide (i.place + 3 < n) && comesFirst c h.2 u w &&
        (u == .grids || u == .tiles || i.ops.all fun x => x == w || !waitsOpenly x)) ||
      (match u with
       | .buf sp => decide (i.place < n) && s.walksTo ck h.2 sp
       | _ => false)

/-- Has the matrix unit or a line fetch of core ck still to make an access to its buffer sp that was issued before number n (R64,
R122), or does an operation that makes it wait at the port? -/
def unitsAhead (s : State) (ck : Nat) (sp : Space) (n : Nat) : Bool :=
  let c := s.core ck
  (c.mx.queue.any fun e => decide (e.id < n) && mxTouches e sp) ||
  (sp == .ab && c.mx.swaps.any fun w => decide (w.id < n)) ||
  (sp == .ulm && c.threads.any fun (h : Nat × Thread) =>
    h.2.home.isNone && h.2.wait == [.line] && h.2.fetch.any fun i => decide (i < n)) ||
  s.ahead ck n (.buf sp)

/-- Is every access of core ck to its buffer sp that was issued before number n performed, those of its units included (R122)? A
WAITGEN that its engine holds is no access at the port (R107). -/
def portClear (s : State) (ck : Nat) (sp : Space) (n : Nat) : Bool :=
  let at' := fun (a : Access) => decide (a.turn < n) && a.ans.isNone && a.held.isNone &&
    (match a.place with | .buf c sp' _ => c == ck && sp' == sp | _ => false) && a.core == ck
  !(s.issued.any at') && !(s.flight.any at') && !s.unitsAhead ck sp n

/-- Is an accepted access the next of its core at its bank (R149, R151), a host function's the next on its link to the die (R161)? To a
buffer of its own core, the next in issue order, with the earlier accesses that the core's units make to it performed (R122). -/
def bankReady (s : State) (a : Access) : Bool :=
  let open' := fun (b : Access) => b.core == a.core && b.ans.isNone && b.held.isNone
  let inOrder := !((s.flight.takeWhile fun b => b.id != a.id).any fun b => open' b &&
      (b.place.bank == a.place.bank || (a.core == 4104 && a.part != 0 && b.part == a.part && b.place.die == a.place.die)))
  match a.place with
  | .buf c sp _ =>
    if c = a.core then
      !((s.issued ++ s.flight).any fun b => open' b && b.place.bank == a.place.bank && b.before a) && !s.unitsAhead c sp a.turn
    else inOrder
  | _ => inOrder

/-! ## Performing plain reads and writes -/

/-- Read n bytes at a buffer or device memory place. -/
def readMem (s : State) (p : Place) (n : Nat) : List Byte :=
  match p with
  | .dm a => s.dm.read a n
  | .buf c sp o => ((s.core c).buf sp).read o n
  | _ => []

/-- Write bytes at a buffer or device memory place. -/
def writeMem (s : State) (p : Place) (d : List Byte) : State :=
  match p with
  | .dm a => { s with dm := s.dm.write a d }
  | .buf c sp o => s.updCore c fun k => k.setBuf sp ((k.buf sp).write o d)
  | _ => s

/-- The runs of neighbouring bytes of a masked store, each with its distance from the start. -/
def maskRuns : Nat → List (Option Byte) → List (Nat × List Byte)
  | _, [] => []
  | o, none :: l => maskRuns (o + 1) l
  | o, some v :: l =>
    match maskRuns (o + 1) l with
    | (p, d) :: r => if p = o + 1 then (o, v :: d) :: r else (o, [v]) :: (p, d) :: r
    | [] => [(o, [v])]

/-- Write the bytes of a masked store: a word that it writes whole has fresh check bits (R317). -/
def writeMasked (s : State) (p : Place) (d : List (Option Byte)) : State :=
  (maskRuns 0 d).foldl (fun s r => s.writeMem (p.plus r.1) r.2) s

/-- The first bad word of n bytes at a place: poisoned or not. -/
def badMem (s : State) (p : Place) (n : Nat) : Option (Bool × Nat) :=
  match p with
  | .dm a => s.dm.badIn a n
  | .buf c sp o => ((s.core c).buf sp).badIn o n
  | _ => none

/-- The same with the address of the word, for an access at an address that lies at the place (R340). -/
def badAt (s : State) (va : Word) (p : Place) (n : Nat) : Option (Bool × Word) :=
  (s.badMem p n).map fun b => (b.1, va + BitVec.ofInt 64 ((b.2 : Int) - placeOff p))

/-- The 8-byte word of memory that a byte is in. -/
def wordPlace : Place → Place
  | .dm a => .dm (a / 8 * 8)
  | .buf c sp o => .buf c sp (o / 8 * 8)
  | p => p

/-- Mark a word poisoned, or give it fresh check bits. -/
def setPoison (s : State) (p : Place) (on : Bool) : State :=
  let set' := fun (m : Mem) (o : Nat) => if on then m.mark o 8 true else m.unmark o
  match p with
  | .dm a => { s with dm := set' s.dm a }
  | .buf c sp o => s.updCore c fun k => k.setBuf sp (set' (k.buf sp) o)
  | _ => s

/-- Bytes written from a segment whose tag has failed: the words that they are in are poisoned, but for those that are bad already (R317). -/
def spoil (s : State) (src seq : Nat) (p : Place) (n : Nat) : State :=
  (List.range n).foldl (fun s i =>
    let b := p.plus i
    let w := wordPlace b
    if s.spoilt.any fun x => wordPlace x.2.2 == w then { s with spoilt := s.spoilt ++ [(src, seq, b)] }
    else if (s.badMem w 8).isSome then s
    else ({ s with spoilt := s.spoilt ++ [(src, seq, b)] } : State).setPoison w true) s

/-- The write of a packet has been repeated: its words have fresh check bits, but for those that still hold bytes of another packet of a failed
segment (R317). -/
def heal (s : State) (k : Option (Nat × Nat)) : State :=
  let mine := s.spoilt.filter fun x => k == some (x.1, x.2.1)
  let rest := s.spoilt.filter fun x => k != some (x.1, x.2.1)
  ((mine.map fun x => wordPlace x.2.2).eraseDups.filter fun w => !(rest.any fun x => wordPlace x.2.2 == w)).foldl
    (fun s w => s.setPoison w false) { s with spoilt := rest }

end State

end Sys2Proof.Machine
end

