-- ==== Sys2Proof/Machine/Operands.lean ====
section
/-! DEFINITION. Operands: the registers each operation reads and writes (R38, R39, R61), the checks that precede every
operation (R35, R38, R309, R319), the operand kinds and stream registers (R35, R132, R138), lanes, elements and masks
(R163, R182, R183). -/

namespace Sys2Proof.Machine

open Sys2Proof

/-! ## Registers an operation names -/

namespace Regs

def g (i : GReg) : RegRef := .g i.toNat
def m (i : MReg) : RegRef := .m i.toNat
def lc (i : LReg) : RegRef := .lc i.toNat
def c (i : CReg) : RegRef := .c i.toNat
def q (i : QReg) : RegRef := .q i.toNat
def v : VOp → RegRef
  | .v i => .v i.toNat
  | .q i => .q i.toNat
def k : VMask → List RegRef
  | none => []
  | some i => [m i]
/-- n scalar registers from a on. -/
def gs (a : GReg) (n : Nat) : List RegRef := (List.range n).map fun i => .g (a.toNat + i)
/-- n vector registers from a on. -/
def vs (a : BitVec 6) (n : Nat) : List RegRef := (List.range n).map fun i => .v (a.toNat + i)

end Regs

/-- The selector of QSP (R347). -/
def selQSP : Nat := 0x015

open Regs in
/-- The registers an operation reads. -/
def sources : Instr → List RegRef
  | .add _ _ _ b c | .sub _ _ _ b c | .mul _ _ _ b c => [g b, g c]
  | .mulh _ _ b c | .div _ _ b c | .rem _ _ b c | .min _ _ b c | .max _ _ b c => [g b, g c]
  | .addi _ b _ | .lea _ b _ => [g b]
  | .abs _ _ _ b | .neg _ _ _ b => [g b]
  | .sext _ _ b | .zext _ _ b => [g b]
  | .and _ b c | .or _ b c | .xor _ b c | .andn _ b c | .orn _ b c => [g b, g c]
  | .shl _ _ b c | .shr _ _ b c | .sra _ _ b c | .rol _ _ b c => [g b, g c]
  | .shli _ _ b _ | .shri _ _ b _ | .srai _ _ b _ => [g b]
  | .bfx _ b _ _ => [g b]
  | .bfi a b _ _ => [g a, g b]
  | .clz _ _ b | .ffs _ _ b | .popc _ _ b | .brev _ _ b | .bswap _ _ b => [g b]
  | .cmpeq _ _ b c | .cmpne _ _ b c | .cmplt _ _ b c | .cmple _ _ b c => [g b, g c]
  | .sel _ b c d => [g b, g c, g d]
  | .movhi a _ => [g a]
  | .mov _ b | .movToLc _ b | .movToN0 b => [g b]
  | .movFromLc _ l => [lc l]
  | .cget _ n => [c n]
  | .cset _ b => [g b]
  | .signal a => [g a]
  | .join _ _ b _ | .arrive _ _ b _ => [g b]
  | .leave _ a _ => [g a]
  | .arriveBytes _ _ b _ c => [g b, g c]
  | .waitgen _ a _ b => [g a, g b]
  | .ld _ _ _ b _ => [g b]
  | .st _ _ a _ b => [g a, g b]
  | .stSig _ _ a _ b c => [g a, g b, g c]
  | .ldv _ _ b _ => [g b]
  | .stv _ a _ b => [g a, v b]
  | .ldx _ _ _ b _ c => [g b, v c]
  | .stx _ _ a _ b c => [g a, v b, v c]
  | .ldfe _ b _ | .ldff _ b _ => [g b]
  | .stfe a _ b | .stff a _ b => [g a, g b]
  | .spillG _ a _ b n => g a :: gs b (n.toNat + 1)
  | .spillV _ a _ b n => g a :: vs b (n.toNat + 1)
  | .fillG _ _ b _ _ => [g b]
  | .fillV _ _ b _ _ => [g b]
  | .sbind _ b => [g b]
  | .amo _ _ _ _ b _ c | .amof _ _ _ b _ c => [g b, g c]
  | .cas _ _ a b _ c => [g a, g b, g c]
  | .cpset _ a => [g a]
  | .cpstat _ b => [g b]
  | .cpwait a | .cpcan a => [g a]
  | .gdecl a | .gfree a => [g a]
  | .gld _ _ b c d => [g b, g c, g d]
  | .gst _ a b c => [g a, g b, v c]
  | .gstep a b => [g a, g b]
  | .gstat _ b => [g b]
  | .cbegin a | .cend a | .cwait a => [g a]
  | .csend a b c | .ccopy a b c => [g a, g b, g c]
  | .crecv a _ b c | .crecvSig a _ b c => [g a, g b, g c]
  | .crrs _ a _ b c => [g a, g b, g c]
  | .cpeer _ b c => [g b, g c]
  | .csrw _ a | .csrwFring a | .csrwFrrd a | .csrwTstate a => [g a]
  | .rdwin _ b => [g b]
  | .wrwin a b | .cfgt a b => [g a, g b]
  | .resume a | .susp a | .kill a => [g a]
  | .savec a _ b | .loadc a _ b => [g a, g b]
  | .br _ a b _ => [g a, g b]
  | .jmpr a | .ret a => [g a]
  | .callr _ b => [g b]
  | .loop l _ => [lc l]
  | .vadd _ n _ b c | .vsub _ n _ b c | .vmul _ n _ b c | .vmin _ n _ b c | .vmax _ n _ b c => k n ++ [v b, v c]
  | .vfma _ n a b c | .vfms _ n a b c => k n ++ [v a, v b, v c]
  | .vabs _ n _ b | .vneg _ n _ b => k n ++ [v b]
  | .vdiv _ n _ b c => k n ++ [v b, v c]
  | .vsqrt _ n _ b | .vrcp _ n _ b | .vrsq _ n _ b | .vexp2 _ n _ b | .vlog2 _ n _ b | .vsin _ n _ b
  | .vcos _ n _ b => k n ++ [v b]
  | .vand n _ b c | .vor n _ b c | .vxor n _ b c => k n ++ [v b, v c]
  | .vshl _ n _ b c | .vshr _ n _ b c | .vsra _ n _ b c => k n ++ [v b, v c]
  | .vclz _ _ n _ b | .vffs _ _ n _ b | .vpopc _ _ n _ b => k n ++ [v b]
  | .vcmp _ _ _ a b => [v a, v b]
  | .vsel n _ b c => [m n, v b, v c]
  | .vmov n _ b => k n ++ [v b]
  | .vbcast n _ b => k n ++ [g b]
  | .vins n a b c => k n ++ [v a, g b, g c]
  | .vext _ b c => [v b, g c]
  | .vperm n _ b c => k n ++ [v b, v c]
  | .vrot n _ b c => k n ++ [v b, g c]
  | .viota n _ => k n
  | .vred _ _ n _ b | .vscan _ _ n _ b => k n ++ [v b]
  | .vcvt _ n _ b => k n ++ [v b]
  | .vpack _ n _ b c => k n ++ [v b, v c]
  | .vunpk _ _ n _ b => k n ++ [v b]
  | .vdec _ n _ b | .venc _ _ n _ b => k n ++ [v b]
  | .dtld _ a _ | .qtld _ a _ => [g a]
  | .mand _ b c | .mor _ b c | .mxor _ b c => [m b, m c]
  | .mnot _ b | .mpop _ b | .mfirst _ b => [m b]
  | .mmaStream _ b _ d => [g b, g d]
  | .mmaAb _ b c d => [g b, g c, g d]
  | .mmasK16Stream _ b _ d e | .mmasK8Stream _ b _ d e => [g b, g d, g e]
  | .mmasK16Ab _ b c d e | .mmasK8Ab _ b c d e => [g b, g c, g d, g e]
  | .bld a => [g a]
  | .swapt a b => [g a, g b]
  | .ldt _ b => [g b]
  | .mcmd _ b c => [g b, g c]
  | .talloc _ _ b => [g b]
  | .tcont _ b c d => [g b, g d] ++ vs c 8
  | .tstat _ b => [g b]
  | .tread _ _ _ a _ b => [g a, g b]
  | .twait a | .taban a | .tfree a => [g a]
  | .tpeek _ b => [g b]
  | .qclr n _ => k n
  | .qacc _ n a b => k n ++ vs a 3 ++ [v b]
  | .qmerge n a b => k n ++ vs a 3 ++ vs b 3
  | .qred n a => k n ++ vs a 3
  | .qfin _ n a b => k n ++ vs a 3 ++ [v b]
  | _ => []

open Regs in
/-- The registers an operation writes (R39). The stream register that SBIND binds is none of them (DESIGN CHOICE, log entry 127). -/
def dests : Instr → List RegRef
  | .add _ _ a _ _ | .sub _ _ a _ _ | .mul _ _ a _ _ => [g a]
  | .mulh _ a _ _ | .div _ a _ _ | .rem _ a _ _ | .min _ a _ _ | .max _ a _ _ => [g a]
  | .addi a _ _ | .lea a _ _ => [g a]
  | .abs _ _ a _ | .neg _ _ a _ => [g a]
  | .sext _ a _ | .zext _ a _ => [g a]
  | .and a _ _ | .or a _ _ | .xor a _ _ | .andn a _ _ | .orn a _ _ => [g a]
  | .shl _ a _ _ | .shr _ a _ _ | .sra _ a _ _ | .rol _ a _ _ => [g a]
  | .shli _ a _ _ | .shri _ a _ _ | .srai _ a _ _ => [g a]
  | .bfx a _ _ _ | .bfi a _ _ _ => [g a]
  | .clz _ a _ | .ffs _ a _ | .popc _ a _ | .brev _ a _ | .bswap _ a _ => [g a]
  | .cmpeq _ a _ _ | .cmpne _ a _ _ | .cmplt _ a _ _ | .cmple _ a _ _ => [g a]
  | .sel a _ _ _ => [g a]
  | .movi a _ | .movhi a _ => [g a]
  | .mov a _ | .movFromLc a _ | .movFromN1 a => [g a]
  | .movToLc l _ => [lc l]
  | .tid a | .cyc a | .cget a _ => [g a]
  | .cset n _ => [c n]
  | .join _ a _ _ | .arrive _ a _ _ | .arriveBytes _ a _ _ _ => [g a]
  | .ld _ _ a _ _ => [g a]
  | .ldv _ a _ _ => [v a]
  | .ldx _ _ a _ _ _ => [v a]
  | .ldfe a _ _ | .ldff a _ _ => [g a]
  | .fillG _ a _ _ n => gs a (n.toNat + 1)
  | .fillV _ a _ _ n => vs a (n.toNat + 1)
  | .sstatMask a _ => [m a]
  | .sstatPosition a _ => [g a]
  | .amo _ _ _ a _ _ _ | .amof _ _ a _ _ _ | .cas _ _ a _ _ _ => [g a]
  | .cpgo a => [g a]
  | .cpstat a _ => [g a]
  | .gld _ a _ _ _ => [v a]
  | .gstat a _ => [g a]
  | .cpeer a _ _ => [g a]
  | .csrr a _ | .vlogsRead a => [g a]
  | .rdwin a _ => [g a]
  | .call a _ | .callr a _ => [g a]
  | .loop l _ => [lc l]
  | .vadd _ _ a _ _ | .vsub _ _ a _ _ | .vmul _ _ a _ _ | .vmin _ _ a _ _ | .vmax _ _ a _ _ => [v a]
  | .vfma _ _ a _ _ | .vfms _ _ a _ _ => [v a]
  | .vabs _ _ a _ | .vneg _ _ a _ => [v a]
  | .vdiv _ _ a _ _ => [v a]
  | .vsqrt _ _ a _ | .vrcp _ _ a _ | .vrsq _ _ a _ | .vexp2 _ _ a _ | .vlog2 _ _ a _ | .vsin _ _ a _
  | .vcos _ _ a _ => [v a]
  | .vand _ a _ _ | .vor _ a _ _ | .vxor _ a _ _ => [v a]
  | .vshl _ _ a _ _ | .vshr _ _ a _ _ | .vsra _ _ a _ _ => [v a]
  | .vclz _ _ _ a _ | .vffs _ _ _ a _ | .vpopc _ _ _ a _ => [v a]
  | .vcmp _ _ n _ _ => [m n]
  | .vsel _ a _ _ => [v a]
  | .vmov _ a _ | .vbcast _ a _ | .vins _ a _ _ => [v a]
  | .vext a _ _ => [g a]
  | .vperm _ a _ _ | .vrot _ a _ _ | .viota _ a => [v a]
  | .vred _ _ _ a _ | .vscan _ _ _ a _ => [v a]
  | .vcvt _ _ a _ | .vpack _ _ a _ _ | .vunpk _ _ _ a _ | .vdec _ _ a _ | .venc _ _ _ a _ => [v a]
  | .mand a _ _ | .mor a _ _ | .mxor a _ _ | .mnot a _ => [m a]
  | .mpop a _ | .mfirst a _ => [g a]
  | .mmaStream a _ _ _ | .mmaAb a _ _ _ => [g a]
  | .mmasK16Stream a _ _ _ _ | .mmasK8Stream a _ _ _ _ | .mmasK16Ab a _ _ _ _ | .mmasK8Ab a _ _ _ _ => [g a]
  | .ldt a _ => vs a 8
  | .mcmd a _ _ => [g a]
  | .talloc _ a _ => [g a]
  | .tcont a _ _ _ => [g a]
  | .tstat a _ => [g a]
  | .tpeek a _ => vs a 8
  | .qclr _ a => vs a 3
  | .qacc q _ a _ => vs a 3 ++ (if q then [.m 7] else [])
  | .qmerge _ a _ => vs a 3
  | .qred _ a => vs a 3
  | .qfin q _ a _ => vs a 1 ++ (if q then [.m 7] else [])
  | .csrw n _ => [.csr n.toNat]
  | .qshape _ => [.csr selQSP]
  | _ => []

/-- The stream register that MMA or MMAS takes A from. -/
def mmaStreamQ : Instr → Option Nat
  | .mmaStream _ _ q _ | .mmasK16Stream _ _ q _ _ | .mmasK8Stream _ _ q _ _ => some q.toNat
  | _ => none

/-! ## What may run where -/

/-- Instructions a guest may execute (R309). -/
def guestMay : Instr → Bool
  | .add .. | .sub .. | .addi .. | .mul .. | .mulh .. | .div .. | .rem .. | .min .. | .max .. | .abs .. | .neg ..
  | .lea .. | .sext .. | .zext .. | .and .. | .or .. | .xor .. | .andn .. | .orn .. | .shl .. | .shr .. | .sra ..
  | .rol .. | .shli .. | .shri .. | .srai .. | .bfx .. | .bfi .. | .clz .. | .ffs .. | .popc .. | .brev .. | .bswap ..
  | .cmpeq .. | .cmpne .. | .cmplt .. | .cmple .. | .sel .. | .movi .. | .movhi .. | .mov .. | .movToLc ..
  | .movFromLc .. | .br .. | .jmp .. | .jmpr .. | .call .. | .callr .. | .ret .. | .loop .. | .isync | .nop
  | .ld .. | .st .. | .stSig .. | .spillG .. | .fillG .. | .amo .. | .cas .. | .amof .. | .fence ..
  | .join .. | .leave .. | .arrive .. | .arriveBytes .. | .waitgen .. | .signal ..
  | .tid .. | .cyc .. | .yield | .home | .trap .. => true
  | _ => false

/-- Instructions of thread 63 alone that fault with NOTCOMM elsewhere (R319). -/
def commOnly : Instr → Bool
  | .cbegin .. | .cpeer .. | .csend .. | .crecv .. | .crecvSig .. | .crrs .. | .ccopy .. | .cwait .. | .cend .. => true
  | _ => false

/-- The n forms of MOV (R79). -/
def usesN : Instr → Bool
  | .movFromN1 .. | .movToN0 .. => true
  | _ => false

/-- A tail field outside its range: the shift amount of R74, the bit field of R75, the queue mask of R292. A check of the operand fields
like check 3 of R38 (DEDUCED, log entry 101). -/
def tailBad : Instr → Bool
  | .shli w _ _ imm | .shri w _ _ imm | .srai w _ _ imm => decide (w.bits ≤ imm.toNat)
  | .bfx _ _ pos l | .bfi _ _ pos l => decide (64 < pos.toNat + l.toNat + 1)
  | .cpqf mask => decide (mask = 0)
  | _ => false

/-! ## Stream registers as operands (R132, R138) -/

/-- Length in vectors of a stream; a channel has no end (R133, R135, R136). -/
def StreamDesc.len : StreamDesc → Option Nat
  | .affine _ _ len _ _ _ _ _ _ => some len
  | .conv _ _ _ n _ _ cw oh ow kh kw _ _ _ _ _ _ => some ((n * oh * ow + 127) / 128 * kh * kw * cw)
  | _ => none

namespace State

/-- Stream register i as bound to the executing thread at issue. -/
def stream (s : State) (i : Nat) : Option Stream :=
  match FMap.find? s.rd.q i with
  | some st => if st.thread = s.cur % 64 then some st else none
  | none => none

/-- Is the stream at its end? -/
def atEnd (st : Stream) : Bool :=
  match st.desc.len with
  | some n => decide (n ≤ st.pos)
  | none => false

/-- The next inbound vector, its tail bits and its fault. -/
def streamHead (s : State) (i : Nat) : Option Fetched :=
  match s.stream i with
  | some st => st.fetched.head?
  | none => none

/-- May a vector be appended to a channel's source end now (R136)? -/
def channelRoom (st : Stream) : Bool :=
  match st.desc with
  | .chanOut _ _ _ allow _ filling _ _ unreleased => decide (filling ≠ []) || decide (unreleased < allow)
  | _ => true

/-- The inbound stream registers an operation reads as v operands, each once (R138). -/
def qIn (i : Instr) : List Nat := ((sources i).filterMap fun r => match r with | .q n => some n | _ => none).eraseDups

/-- The outbound stream registers an operation writes as v operands. -/
def qOut (i : Instr) : List Nat := (dests i).filterMap fun r => match r with | .q n => some n | _ => none

/-- May an operation still fault when the unit that serves it answers, so that its other half waits (R404)? -/
def answersLate : Instr → Bool
  | .amo .. | .cas .. | .amof .. | .join .. | .leave .. | .arrive .. | .arriveBytes .. | .waitgen .. | .ldfe .. | .stfe .. | .ldff ..
  | .loadc .. | .swapt .. | .mmaStream .. | .mmasK16Stream .. | .mmasK8Stream .. | .ld .. | .ldv .. | .ldx .. | .fillG .. | .fillV .. =>
    true
  | _ => false

/-- A block of n bytes of ULM as the executing bundle reads it at its place, with the bad word in it: a half that has been withheld has read
it then (R398, R404). -/
def ulmBlock (s : State) (ad n : Nat) : List Byte × Option (Bool × Nat) :=
  match s.me.blocks.find? fun b => b.1 == ad with
  | some b => b.2
  | none => (s.rd.ulm.read ad n, s.rd.ulm.badIn ad n)

/-- Must the executing bundle still wait to read a block of ULM at its place (R122)? -/
def ulmWaits (s : State) : Bool := s.waits (s.me.blocks == [] && !s.portClear s.ck .ulm s.issuePlace)

/-- Must the operation wait for a stream register (R136, R138)? -/
def streamsWait (s : State) (i : Instr) : Bool :=
  (qIn i).any (fun n => (s.streamHead n).isNone) ||
  (qOut i).any fun n => match s.stream n with | some st => !channelRoom st | none => false

/-- Is the register inside the executing thread's windows (R35)? -/
def inWindow (s : State) : RegRef → Bool
  | .g i => decide (i < s.me.wl * 8)
  | .v i => decide (i < s.me.vl * 4)
  | _ => true

/-- Are the registers of an operation inside the executing thread's windows (R35)? A `.dm` LDV or STV needs a vector window even where it
names a stream register (R126). -/
def windowsOk (s : State) (i : Instr) : Bool :=
  (sources i ++ dests i).all s.inWindow &&
  (match i with
   | .ldv m _ _ _ | .stv m _ _ _ => m.sp != .dm || decide (0 < s.me.vl)
   | _ => true)

/-- The bad register that an operation reads, if any (R340). -/
def badReg (s : State) (i : Instr) : Option FaultRec :=
  (sources i).findSome? fun r =>
    match r with
    | .g n => let e := s.me.gbase * 8 + n; if s.rd.defects.regs.contains (false, e) then some (killReg false e) else none
    | .v n => let e := s.me.vbase * 4 + n; if s.rd.defects.regs.contains (true, e) then some (killReg true e) else none
    | _ => none

/-- GANG: R99 names the fault that it takes in a guest slot. -/
def isGang : Instr → Bool
  | .gang _ => true
  | _ => false

/-- What FADDR holds for a form forbidden in a guest slot: the selector or the register number, where it has one (R344). -/
def guestAddr' (s : State) : Instr → Word
  | .csrr _ n | .csrw n _ => n.setWidth 64
  | .csrwTstate _ => 0x002
  | .csrwFring _ => 0x046
  | .csrwFrrd _ => 0x047
  | .vlogsRead _ => 0x049
  | .rdwin _ b | .savec _ _ b | .loadc _ _ b => s.rdG b
  | .wrwin a _ | .resume a | .susp a | .kill a | .cfgt a _ => s.rdG a
  | _ => 0

/-- The checks that precede an operation's own: check 5 of R38, the guest rule of R309, thread 63's rule of R319, the
stream registers of R132, R138 and R139, and bad registers (R340). GANG has a test of its own for a guest slot, with
a cause of its own (R99; DEDUCED, log entry 119). -/
def guard (s : State) (i : Instr) : Option FaultRec :=
  if (usesN i ∧ s.cur % 64 ≠ 63) ∨ tailBad i then some (illegal subTAILFIELD)
  else if !s.windowsOk i then some regwin
  else if commOnly i ∧ s.cur % 64 ≠ 63 then some (priv 0x0B 0)
  else if s.inGuestSlot ∧ ¬guestMay i ∧ ¬isGang i then some (priv 0x09 (s.guestAddr' i))
  else if (qIn i ++ qOut i).any (fun n => match s.stream n with | some st => atEnd st | none => true) then
    some (streamF 0 0)
  else
    match (qIn i).findSome? fun n => (s.streamHead n).bind (·.fault) with
    | some f => some f
    | none => s.badReg i

/-- The vector that an inbound stream register delivers, or that a register holds. -/
def rdV (s : State) : VOp → VWord
  | .v i => s.rdVr i.toNat
  | .q i => ((s.streamHead i.toNat).map (·.data)).getD 0

/-- A source end of a channel with a change to its count of slots not yet released. -/
def Stream.release (st : Stream) (f : Nat → Nat) : Stream :=
  match st.desc with
  | .chanOut k kq size allow ring fl ready pub un => { st with desc := .chanOut k kq size allow ring fl ready pub (f un) }
  | _ => st

/-- The stream in register i of core ck is one vector further on, whose tail bits are given; the last part of a channel's slot releases it
to its source (R136). -/
def streamOn (s : State) (ck i : Nat) (tail : Mask128) : State :=
  match FMap.find? (s.core ck).q i with
  | none => s
  | some st =>
    let st : Stream := { st with pos := st.pos + 1, tail := tail }
    let put := fun (s : State) (st : Stream) => s.updCore ck fun c => { c with q := FMap.set c.q i st }
    match st.desc with
    | .chanIn src sq size allow ring vis rd part =>
      if part + 1 = (size + 511) / 512 then
        (put s { st with desc := .chanIn src sq size allow ring vis (rd + 1) 0 }).updCore src fun c =>
          match FMap.find? c.q sq with
          | some o => { c with q := FMap.set c.q sq (Stream.release o (· - 1)) }
          | none => c
      else put s { st with desc := .chanIn src sq size allow ring vis rd (part + 1) }
    | _ => put s st

/-- Take one vector from stream register i of core ck. -/
def popStream (s : State) (ck i : Nat) : State :=
  match FMap.find? (s.core ck).q i with
  | none => s
  | some st =>
    (s.updCore ck fun c => { c with q := FMap.set c.q i { st with fetched := st.fetched.drop 1 } }).streamOn ck i
      ((st.fetched.head?.map (·.tail)).getD st.tail)

/-- The vectors lent to an operation of the matrix unit are taken from stream register i of core ck (R210). -/
def takeLent (s : State) (ck i : Nat) : State :=
  match FMap.find? (s.core ck).q i with
  | none => s
  | some st =>
    st.lent.foldl (fun s tail => s.streamOn ck i tail) (s.updCore ck fun c => { c with q := FMap.set c.q i { st with lent := [] } })

/-- Consume one vector of an inbound stream, once per bundle (R138); as the bundle retires, where a half that reads it may still fault
(R404). -/
def consume (s : State) (late : Bool) (i : Nat) : State :=
  match s.stream i, FMap.find? (s.core s.ck).q i with
  | some was, some st =>
    if was.pos ≠ st.pos then s
    else if late then s.updThr s.cur fun h => { h with takes := (i, st.pos) :: h.takes.filter (· != (i, st.pos)) }
    else s.popStream s.ck i
  | _, _ => s

end State

/-- The byte address of vector j of an AFFINE stream (R134). -/
def affineAddr (base : Word) (n0 n1 : Nat) (s0 s1 s2 : Word32) (j : Nat) : Word :=
  base + BitVec.ofNat 64 (j % n0) * s0.signExtend 64 + BitVec.ofNat 64 (j / n0 % n1) * s1.signExtend 64 +
    BitVec.ofNat 64 (j / (n0 * n1)) * s2.signExtend 64

namespace State

/-- The eight 64-byte blocks of the next vector of an outbound AFFINE stream, with their translations (R121, R134). -/
def outBlocks (s : State) (st : Stream) : List (Word × Tr) :=
  match st.desc with
  | .affine true _ _ base n0 n1 s0 s1 s2 =>
    let a := affineAddr base n0 n1 s0 s1 s2 st.pos
    (List.range 8).map fun i =>
      let va := a + BitVec.ofNat 64 (64 * i)
      (va, if va.toNat % 64 ≠ 0 ∧ canonical va then .bad (alignF va) none else s.translateNow s.ck s.myTenant va .engineWr)
  | _ => []

/-- The first block of an outbound vector that may not be written: FADDR is its address (R134; DESIGN CHOICE, log entry 128). -/
def outFails (s : State) (i : Instr) : Option (Word × Tr) :=
  (qOut i).findSome? fun n =>
    match s.stream n with
    | some st => (s.outBlocks st).find? fun b => match b.2 with | .ok _ _ => false | _ => true
    | none => none

/-- Append a vector to outbound stream register i (R134, R136, R138): the posted stores of an AFFINE stream hold the
thread until the port accepts them; a channel's slot is published when it is full. -/
def append (s : State) (i : Nat) (w : VWord) : State :=
  match FMap.find? (s.core s.ck).q i with
  | none => s
  | some st =>
    let bytes := (List.range 512).map fun j => (w >>> (8 * j)).setWidth 8
    match st.desc with
    | .affine true sp len base n0 n1 s0 s1 s2 =>
      let ps := (List.range 8).filterMap fun j =>
        match (s.outBlocks st)[j]? with
        | some (va, Tr.ok p _) => some (Piece.mk va p (.store (slice bytes (64 * j) 64)))
        | _ => none
      let op := s.nextId
      let s := { s with freeCount := s.freeCount + 1 }
      let s := s.launch .store Mode.plain ps
      let s := s.hold s.cur (.accept op)
      s.updCore s.ck fun c => { c with q := FMap.set c.q i { st with pos := st.pos + 1
                                                                     desc := .affine true sp len base n0 n1 s0 s1 s2 } }
    | .chanOut k kq size allow ring filling ready pub un =>
      let un' := if filling = [] then un + 1 else un
      let f := filling ++ bytes.take (size - filling.length)
      let d := if f.length = size then StreamDesc.chanOut k kq size allow ring [] (ready ++ [f]) pub un'
        else .chanOut k kq size allow ring f ready pub un'
      let s := { s with freeCount := s.freeCount + 1 }
      s.updCore s.ck fun c => { c with q := FMap.set c.q i { st with pos := st.pos + 1, desc := d } }
    | _ => s

/-- Write a v destination, pending for lat cycles (R62, R184), or append it to its stream. -/
def wrV (s : State) (a : VOp) (w : VWord) (lat : Nat) : State :=
  match a with
  | .v i => (s.putV s.cur i.toNat w).pend s.cur (.v i.toNat) (s.after lat)
  | .q i => s.append i.toNat w

/-- Write register v i, pending for lat cycles. -/
def wrVr (s : State) (i : Nat) (w : VWord) (lat : Nat) : State := (s.putV s.cur i w).pend s.cur (.v i) (s.after lat)

/-- Write a mask register, pending for lat cycles. -/
def wrM (s : State) (i : MReg) (w : Mask128) (lat : Nat) : State :=
  (s.putM s.cur i.toNat w).pend s.cur (.m i.toNat) (s.after lat)

end State

/-- What an operation's effect comes to: it is done, or the bundle stops at this state (a fault, or a wait after which it
is issued again), and consumes and appends nothing (R138). -/
inductive Eff where
  | done (s : State)
  | stop (s : State)

/-- Perform an operation: the checks that precede it, its waits for stream registers, then its effect with the vectors it
consumes. -/
def performK (s : State) (i : Instr) (k : State → Eff) : Host.Outcome State Fault Refusal :=
  match s.guard i with
  | some f => .next (s.fault f)
  | none =>
    if s.waits (s.streamsWait i) then .next s.unissued
    else
      match s.outFails i with
      | some (va, tr) => .next (s.accessFails va tr)
      | none =>
        match k s with
        | .stop s' => .next s'
        | .done s' => .next ((State.qIn i).foldl (fun x n => x.consume (State.answersLate i && s'.my.wait != []) n) s')

/-- Perform an operation that may fault of its own, with nothing written then (R8). -/
def performE (s : State) (i : Instr) (k : State → Except FaultRec State) : Host.Outcome State Fault Refusal :=
  performK s i fun s =>
    match k s with
    | .error f => .stop (s.fault f)
    | .ok s' => .done s'

/-- Perform an operation without faults of its own. -/
def perform (s : State) (i : Instr) (k : State → State) : Host.Outcome State Fault Refusal :=
  performK s i fun s => .done (k s)

/-! ## Lanes, elements, masks (R163, R182, R183) -/

/-- Element i of width n of a number. -/
def elemNat (n : Nat) (x i : Nat) : Nat := x / 2 ^ (n * i) % 2 ^ n

/-- Element e of width b of a vector. -/
def elem (b : Nat) (v : VWord) (e : Nat) : Nat := (v >>> (b * e)).toNat % 2 ^ b

/-- Lane i of a vector. -/
def lane (v : VWord) (i : Nat) : Word32 := (v >>> (32 * i)).setWidth 32

/-- The number with the given elements of width b, element 0 first. -/
def joinNat (b : Nat) : List Nat → Nat
  | [] => 0
  | x :: r => x % 2 ^ b + 2 ^ b * joinNat b r

/-- The vector with the given elements of width b; elements not given are 0. -/
def ofElems (b : Nat) (l : List Nat) : VWord := BitVec.ofNat 4096 (joinNat b l)

/-- All elements of width b. -/
def elems (b : Nat) (v : VWord) : List Nat := (List.range (4096 / b)).map fun e => elem b v e

/-- The mask of a VCW: every lane without MK. -/
def State.mask (s : State) : VMask → Mask128
  | none => BitVec.allOnes 128
  | some m => s.rdM m

def maskBit (m : Mask128) (i : Nat) : Bool := m.getLsbD i

/-- The vector whose lane bits are all ones where the mask is set. -/
def laneMask (m : Mask128) : VWord := ofElems 32 ((List.range 128).map fun i => if maskBit m i then 0xFFFFFFFF else 0)

/-- new in the lanes the mask allows, old elsewhere. -/
def blend (m : Mask128) (new old : VWord) : VWord :=
  if m = BitVec.allOnes 128 then new else (new &&& laneMask m) ||| (old &&& ~~~laneMask m)

/-- The earlier content of a v destination: of an appended vector the spec states none (DESIGN CHOICE, log entry 16). -/
def State.oldV (s : State) : VOp → VWord
  | .v i => s.rdVr i.toNat
  | .q _ => Config.freeVector s.freeCount

end Sys2Proof.Machine
end

