-- ==== Sys2Proof/Machine/Flags.lean ====
section
/-! DEFINITION. The Z9 has no flag register: conditions are computed where they are used. The integer helpers of R68, the
conditions of BR (R80) and the relations of VCMP on integers (R193). -/

namespace Sys2Proof.Machine

open Sys2Proof

/-- w(t) of R68. -/
def tyWidth : IntTy → Nat
  | .i8 | .n8 => 8
  | .i16 | .n16 => 16
  | .i32 | .n32 => 32
  | .i64 | .n64 => 64

/-- Is the type signed? -/
def tySigned : IntTy → Bool
  | .i8 | .i16 | .i32 | .i64 => true
  | .n8 | .n16 | .n32 | .n64 => false

/-- Width in bits of scheme WID. -/
def widBits : Wid → Nat
  | .w8 => 8
  | .w16 => 16
  | .w32 => 32
  | .w64 => 64

/-- sx(x, n): the low n bits read as signed. -/
def sx (x n : Nat) : Int :=
  let y := x % 2 ^ n
  if 2 ^ n ≤ 2 * y then (y : Int) - (2 ^ n : Nat) else y

/-- A number of width w read as signed or unsigned. -/
def valW (signed : Bool) (w x : Nat) : Int := if signed then sx x w else ((x % 2 ^ w : Nat) : Int)

/-- val(x, t). -/
def val (x : Word) (t : IntTy) : Int := valW (tySigned t) (tyWidth t) x.toNat

def loW (signed : Bool) (w : Nat) : Int := if signed then -(2 ^ (w - 1) : Nat) else 0
def hiW (signed : Bool) (w : Nat) : Int := if signed then (2 ^ (w - 1) : Nat) - 1 else (2 ^ w : Nat) - 1

/-- lo(t), hi(t). -/
def lo (t : IntTy) : Int := loW (tySigned t) (tyWidth t)
def hi (t : IntTy) : Int := hiW (tySigned t) (tyWidth t)

/-- wrap(v, w). -/
def wrap (v : Int) (w : Nat) : Nat := (v % (2 ^ w : Nat)).toNat

def clampW (signed : Bool) (w : Nat) (v : Int) : Int := min (max v (loW signed w)) (hiW signed w)

/-- clamp(v, t). -/
def clamp (v : Int) (t : IntTy) : Int := clampW (tySigned t) (tyWidth t) v

/-- ext(b, t): widened to 64 bits. -/
def ext (b : Nat) (t : IntTy) : Word :=
  if tySigned t then BitVec.ofInt 64 (sx b (tyWidth t)) else BitVec.ofNat 64 (b % 2 ^ tyWidth t)

/-- put(v, t, sat). -/
def put (v : Int) (t : IntTy) (sat : Bool) : Word := ext (wrap (if sat then clamp v t else v) (tyWidth t)) t

/-- put for an element of width w (R182). -/
def putW (signed : Bool) (w : Nat) (sat : Bool) (v : Int) : Nat := wrap (if sat then clampW signed w v else v) w

/-- ext32(b, t): an element widened to 32 bits. -/
def ext32 (b : Nat) (t : IntTy) : Nat := wrap (valW (tySigned t) (tyWidth t) b) 32

/-- sext(imm32) to 64 bits. -/
def sext32 (imm : Word32) : Word := imm.signExtend 64

/-- sext(off16) to 64 bits. -/
def sext16 (off : Off16) : Word := off.signExtend 64

/-- The conditions of BR over all 64 bits (R80). -/
def condHolds (c : Cond) (a b : Word) : Bool :=
  match c with
  | .eq => a == b
  | .ne => a != b
  | .lt => a.slt b
  | .le => a.sle b
  | .gt => b.slt a
  | .ge => b.sle a
  | .lo => a.ult b
  | .ls => a.ule b
  | .hi => b.ult a
  | .hs => b.ule a

/-- The relations of VCMP on integers (R193). -/
def vcondInt (c : VCond) (a b : Int) : Bool :=
  match c with
  | .eq => decide (a = b)
  | .ne => decide (a ≠ b)
  | .lt => decide (a < b)
  | .le => decide (a ≤ b)

/-- 1 where a relation holds, else 0 (R71). -/
def boolWord (b : Bool) : Word := if b then 1 else 0

end Sys2Proof.Machine
end

