-- ==== Sys2Proof/Machine/Link.lean ====
section
/-! DEFINITION. Sending packets over the Stewyn link: the port table and the presence map (R301, R403), the route choice at
the source package (R302, R303), what becomes of traffic to an absent position (R396), and predecessor decrements (R92). -/

namespace Sys2Proof.Machine

open Sys2Proof

/-! ## Classes and sizes (R303, R305) -/

/-- The class of a message on the link. -/
def msgClass : NetMsg → LinkClass
  | .store .. | .masked .. | .atomic _ _ _ _ _ true => .post
  | .atomic _ _ _ _ _ false | .contribution .. | .mcmd .. | .copyRead .. => .req
  | .routeAck .. | .bankAck .. | .atomicAns .. | .receipt .. | .copyData .. | .delivered .. | .credit .. => .rsp
  | .mig .. | .goHome .. | .recall .. => .mig
  | .strip .. | .cmsg .. | .raw .. | .faultMsg .. => .msg

/-- Payload bytes of a message (DEDUCED, log entry 20). -/
def msgBytes : NetMsg → Nat
  | .store _ _ _ d _ => d.length
  | .masked _ _ _ d => d.length
  | .copyData _ _ d _ => d.length
  | .contribution c => 4 * c.vals.length
  | .mcmd _ => 64
  | .mig _ _ | .goHome _ _ => 176
  | .strip s => 4 * s.cells.length
  | .cmsg m => m.data.length
  | .raw m => 8 * m.words.length
  | .faultMsg _ _ => 32
  | _ => 16

/-- The package that a message is for. -/
def msgDst : NetMsg → Nat
  | .store _ _ g _ _ | .masked _ _ g _ | .atomic _ _ g _ _ _ | .copyRead _ _ g _ => g / 2 ^ 48 % 256
  | .routeAck l _ | .bankAck l _ | .atomicAns l _ _ _ | .receipt l _ _ | .copyData l _ _ _ | .delivered l _ _ _ _
  | .credit l _ _ => l.pkg
  | .contribution c => c.handle.toNat / 2 ^ 56
  | .mcmd m => m.target.pkg
  | .mig d _ | .faultMsg d _ => d
  | .goHome p _ => p.home.pkg
  | .recall g _ _ => g.pkg
  | .strip s => s.dst.pkg
  | .cmsg m => m.dst.pkg
  | .raw m => m.dst.pkg

/-- Flits of 64 bytes, the first with its 16-byte header (R303). -/
def msgFlits (m : NetMsg) : Nat := (16 + msgBytes m + 63) / 64

/-- The send queue's content in flits; parts of the packet at its head that have been sent are gone. -/
def Port.flits (p : Port) : Nat := (p.queue.map fun k => msgFlits k.msg).foldl (· + ·) 0 - 32 * p.sent

/-- The flits that a send queue holds (R303). -/
def queueFlits : Nat := 1024

/-- Do two packages stand in one row or column? -/
def aligned (a b : Nat) : Bool := a / 16 == b / 16 || a % 16 == b % 16

/-- The minimal way from package a to another, row first, but never back through package src: the packages passed, the destination the
last. -/
def minimalWay (src a dst : Nat) : List Nat :=
  if aligned a dst then [dst]
  else
    let corner := a / 16 * 16 + dst % 16
    [if corner = src then dst / 16 * 16 + a % 16 else corner, dst]

namespace State

/-- A package position is present (R403). -/
def isPresent (s : State) (pkg : Nat) : Bool := s.present.contains pkg

/-- The ports in state UP, lowest first. -/
def upPorts (s : State) : List Nat := (List.range 32).filter fun n => (s.port n).st == .up

/-- The peer package of a port. -/
def peer (s : State) (n : Nat) : Nat := (s.port n).prow * 16 + (s.port n).pcol

/-- The UP port to a package. -/
def portTo (s : State) (pkg : Nat) : Option Nat := s.upPorts.find? fun n => s.peer n == pkg

/-- The least occupied of some ports, the lowest number first. -/
def leastOf (s : State) (l : List Nat) : Option Nat :=
  l.foldl (fun b n => match b with
    | none => some n
    | some m => if (s.port n).flits < (s.port m).flits then some n else some m) none

/-- The way to a peer of the same row or column: over its port, or, where that is not UP, through another package of that row or column
(R302): the first such port for an `.ord` packet, whose path stays the same (R155), the least occupied for another. -/
def hopTo (s : State) (peer : Nat) (ord : Bool) : Option (Nat × List Nat) :=
  match s.portTo peer with
  | some n => some (n, [peer])
  | none =>
    let l := s.upPorts.filter fun m =>
      let z := s.peer m
      z != s.pkg && z != peer && (if peer / 16 = s.pkg / 16 then z / 16 == peer / 16 else z % 16 == peer % 16)
    (if ord then l.head? else s.leastOf l).map fun m => (m, [s.peer m, peer])

/-- The detour of a route whose first port is more than three quarters full, over the least occupied port that is less than a quarter
full (R302). -/
def detour (s : State) (dst : Nat) (r : Nat × List Nat) : Nat × List Nat :=
  if 4 * (s.port r.1).flits ≤ 3 * queueFlits then r
  else
    match s.leastOf (s.upPorts.filter fun m => s.peer m != s.pkg && decide (4 * (s.port m).flits < queueFlits)) with
    | some m => (m, s.peer m :: (if s.peer m = dst then [] else minimalWay s.pkg (s.peer m) dst))
    | none => r

/-- The route of an unpinned packet to another package: its first port and the packages it passes (R155, R302). It goes row first, over a
detour where the row's port is not UP, unless the column's port is less occupied. -/
def chooseRoute (s : State) (dst : Nat) (ord : Bool) : Option (Nat × List Nat) :=
  let leave := fun (r : Nat × List Nat) => if ord then r else s.detour dst r
  if aligned s.pkg dst then (s.hopTo dst ord).map leave
  else
    let row := s.pkg / 16 * 16 + dst % 16
    let col := dst / 16 * 16 + s.pkg % 16
    let byPeer := fun (peer : Nat) => (s.hopTo peer ord).map fun r => (r.1, r.2 ++ [dst])
    if ord then byPeer row
    else
      match byPeer row, s.portTo col with
      | some a, some b =>
        some (leave (if (s.portTo row).any fun p => decide ((s.port b).flits < (s.port p).flits) then (b, [col, dst]) else a))
      | some a, none => some (leave a)
      | none, _ => (byPeer col).map leave

/-- The route that a source port's unacknowledged packets to a 64-byte block have taken (R149, R302). -/
def pinnedRoute (s : State) (core gpa : Nat) : Option (Nat × List Nat) :=
  (s.flight.find? fun a => a.core == core && a.via.isSome && !a.routeAck && a.ans.isNone &&
    (match a.place with | .remote g => g / 64 == gpa / 64 | _ => false)).bind (·.via)

/-- The route of an access of a core's port: that of the unacknowledged packets to its block, while their port is UP, else its own choice; an
`.ord` packet waits for those on another route (R149, R302). -/
def freeRoute (s : State) (core g : Nat) (ord : Bool) : Option (Nat × List Nat) :=
  let dst := g / 2 ^ 48 % 256
  match s.pinnedRoute core g with
  | some r => if (ord && s.chooseRoute dst true != some r) || (s.port r.1).st != PortState.up then none else some r
  | none => s.chooseRoute dst ord

/-- Is there room for a message in the send queue of port n (R303)? -/
def hasRoom (s : State) (n : Nat) (m : NetMsg) : Bool := decide ((s.port n).flits + msgFlits m ≤ queueFlits)

/-- Queue a message at the first port of its route. -/
def enqueue (s : State) (r : Nat × List Nat) (dst : Nat) (ord : Bool) (m : NetMsg) : State :=
  let k : Packet :=
    { src := s.pkg, dst := dst, route := r.2.drop 1, seq := s.nextId, cls := msgClass m, hops := 1, ord := ord, msg := m }
  { (s.updPort r.1 fun p => { p with queue := p.queue ++ [k] }) with nextId := s.nextId + 1 }

/-- A message that stands among the package's own leaves for another package when its port has room, not before an earlier one to the
same package in the same class (R302, R303, DEDUCED, log entry 20). -/
def leave (s : State) (i : NetItem) : State :=
  let d := msgDst i.msg
  let first := !((s.net.takeWhile fun j => j.id != i.id).any fun j => msgDst j.msg == d && msgClass j.msg == msgClass i.msg) &&
    !(s.stranded.any fun k => k.src == s.pkg && k.dst == d && k.cls == msgClass i.msg)
  if d = s.pkg ∨ !s.isPresent d ∨ !first then s
  else
    match s.chooseRoute d false with
    | some r =>
      if s.hasRoom r.1 i.msg then ({ s with net := s.net.filter fun j => j.id != i.id } : State).enqueue r d false i.msg else s
    | none => s

/-- Send a message to a unit of a package: over the package's own routes, or over the link. What cannot leave yet, for want of a port, of
room or of a package at the position, waits with the package's own messages (R303, R396; DEDUCED, log entry 20). -/
def post (s : State) (dst : Nat) (m : NetMsg) : State :=
  let s' := s.send m
  if dst = s.pkg then s' else s'.leave { id := s.nextId, msg := m, ingress := none }

/-- A violation logged on the supervisor core of a tenant of this package (R349). -/
def windowLog (s : State) (tenant : Nat) (addr : Word) (src : Loc) : State :=
  s.vlogTenant tenant addr 0x01 tenant (locWord src)

end State

/-! ## Queue windows (R375, R378) -/

/-- Does a queue's window of the node table hold an index? -/
def Queue.holds (q : Queue) (index : Nat) : Bool := decide (q.first ≤ index) && decide (index < q.first + 2 ^ q.log2n)

/-- Is the node of an index, in the slot of it that lies in [HEAD, TAKEN), taken and not retired? -/
def Queue.taken? (q : Queue) (index : Nat) : Bool :=
  let i := q.head + (index + 2 ^ q.log2n - (q.first + q.head % 2 ^ q.log2n)) % 2 ^ q.log2n
  q.holds index && decide (i < q.head + (q.taken + 2 ^ 32 - q.head) % 2 ^ 32) && !(q.retired.contains (i % 2 ^ 32))

namespace State

/-- A decrement has made a node ready. Where the hart has still to take its slot, the slot is marked, and passed by when the hart
comes to it: the node is launched once (DEDUCED, log entry 27). -/
def noteEarly (s : State) (tenant index : Nat) : State :=
  let mark := fun (q : Queue) =>
    if q.tenant = tenant ∧ q.st ≠ .disabled ∧ q.holds index ∧ !q.taken? index then { q with early := q.early ++ [index] } else q
  { s with fw := { s.fw with queues := s.fw.queues.map fun e => (e.1, mark e.2) } }

/-- The address of field o of the control block of queue q (R375). -/
def qcb (s : State) (q o : Nat) : Nat := s.fw.qcbBase + 64 * q + o

/-- Write bytes to device memory by a global physical address, for Finsin. -/
def putPhys (s : State) (g : Nat) (d : List Byte) : State :=
  match s.resolve g with
  | .dm a => { s with dm := s.dm.write a d }
  | _ => s

/-- The code of STATE in a control block. -/
def qstateCode : QState → Nat
  | .disabled => 0
  | .idle => 1
  | .pending => 2
  | .mapped => 3
  | .broken => 4

/-- Set the STATE of a queue, through to its control block. -/
def setQState (s : State) (q : Nat) (st : QState) : State :=
  (s.updQueue q fun x => { x with st := st }).putPhys (s.qcb q 7) (leBytes 1 (qstateCode st))

/-- An IDLE queue becomes PENDING: its tenant's pending bit is set, and the manager wakes (R377). -/
def pendQueue (s : State) (q : Nat) : State :=
  ((({ s with fw := { s.fw with wakeManager := true } } : State).updTenant (s.queue q).tenant fun t => { t with pending := true }).setQState q
    .pending).updQueue q fun x => { x with since := s.now, age := 0 }

/-! ## Predecessor counts (R92) -/

/-- The port number under which the units of die d that are not cores issue accesses; d = 8 for the I/O die. -/
def unitOf (d : Nat) : Nat := 4096 + d

/-- Issue an access of a unit that leaves through the port of a core: its number, and the state. -/
def unitAccess (s : State) (op core tenant : Nat) (va : Word) (p : Place) (k : AccKind) : Nat × State :=
  let a : Access := { id := s.nextId, op := op, core := core, tenant := tenant, va := va, place := p, kind := k }
  (s.nextId, { s with nextId := s.nextId + 1, issued := s.issued ++ [a] })

/-- Send the decrement of node index of a tenant's table from a unit: a core key, or unitOf for the units of a die; asker is the home of
the thread that issues it, posted tells that it goes with a `.sig` store. An index beyond the table changes nothing and is logged. -/
def decrement (s : State) (from' tenant index : Nat) (src : Loc) (asker : Option Loc := none) (posted : Bool := false) : State :=
  let t := s.tenant tenant
  if t.nodeLen ≤ index then s.vlogTenant tenant (BitVec.ofNat 64 index) 0x02 tenant (locWord src)
  else
    let gpa := t.nodeBase + 64 * index
    let a : Access :=
      { id := s.nextId, core := from', tenant := tenant, va := BitVec.ofNat 64 gpa, place := s.resolve gpa
        kind := .atomic (.decrement index), asker := asker, posted := posted }
    let s := { s with nextId := s.nextId + 1 }
    if a.place.isRemote then { s with issued := s.issued ++ [a] } else { s with flight := s.flight ++ [a] }

/-- The place of a node record of a tenant (R91). -/
def nodePlace (s : State) (tenant index : Nat) : Place := s.resolve ((s.tenant tenant).nodeBase + 64 * index)

/-- The 64 bytes of a node record. -/
def nodeRec (s : State) (tenant index : Nat) : List Byte := s.readMem (s.nodePlace tenant index) 64

/-- The successors of a node that are named (R91). -/
def successors (r : List Byte) : List Nat :=
  ((List.range (field r 0 4 / 2 ^ 28)).map fun i => if i < 8 then field r (32 + 4 * i) 4 else 0xFFFFFFFF).filter
    (· != 0xFFFFFFFF)

/-- Decrement every named successor of a node. -/
def decrementSuccessors (s : State) (from' tenant index : Nat) (src : Loc) (asker : Option Loc := none) : State :=
  (successors (s.nodeRec tenant index)).foldl (fun s i => s.decrement from' tenant i src asker) s

end State

end Sys2Proof.Machine
end

