-- ==== Sys2Proof/Machine/Memory.lean ====
section
/-! DEFINITION. Memory instructions: scalar and vector loads and stores, gathers and scatters, spills and fills (R123 to R131),
the departure of a light thread toward the memory it reads (R157, R306, R310), full/empty words (R108, R109) and stream
registers (R132 to R139). -/

namespace Sys2Proof.Machine

open Sys2Proof

namespace State

/-! ## Remote reads: who migrates (R121, R306, R310) -/

inductive Way where
  | here | go | refuse
  deriving DecidableEq, Repr

/-- Is the executing bundle a pair? -/
def inPair (s : State) : Bool :=
  match s.me.line with
  | some l => headP (l.unit (s.me.pc.toNat % 64 / 2))
  | none => false

def pkgOf (gpa : Nat) : Nat := gpa / 2 ^ 48 % 256

/-- Does the home package of a guest have an accepting entry for a third package (R306, R307, R310)? -/
def thirdAccepts (s : State) (home : Loc) (tenant dst : Nat) : Bool := s.guests.third.contains (home.pkg, tenant, dst)

/-- What becomes of a scalar read at a place: performed here, the thread goes there, or MIGRATE. -/
def way (s : State) (p : Place) (gpa : Nat) : Way :=
  match s.my.home with
  | some (home, n) =>
    if !p.isRemote then (if p.die ≠ s.ck / 512 then .go else .here)
    else if pkgOf gpa = home.pkg ∨ (s.inPair = false ∧ s.thirdAccepts home n (pkgOf gpa)) then .go
    else .refuse
  | none =>
    if !p.isRemote then .here
    else if s.me.wl ≤ 2 ∧ s.me.vl = 0 ∧ s.inPair = false ∧ s.isPresent (pkgOf gpa) ∧
        s.guests.out.contains (pkgOf gpa, s.myTenant) then .go
    else .refuse

/-- The MIG packet of the executing thread (R306). -/
def migPacket (s : State) (va : Word) (fill : Bool) (sub : BitVec 4) (reg : GReg) (m : Order) (rx : Bool) (count prog : Nat) :
    MigPacket :=
  let h := s.my
  let home := match h.home with
    | some x => x
    | none => (s.loc s.cur, s.myTenant)
  { pc := h.pc, wl := h.wl, home := home.1, tenant := home.2, lc0 := h.lc0, lc1 := h.lc1, prog := prog, va := va
    fill := fill, sub := sub, reg := reg, order := m, rx := rx, count := count, npc := h.npc.setWidth 32, visit := h.visit
    regs := (List.range 16).map fun i =>
      if i < h.wl * 8 then FMap.get 0 (s.core s.ck).gfile (h.gbase * 8 + i) else 0 }

/-- May the executing thread depart: every earlier store acknowledged by its bank, every relaxed access answered (R157)?.
DEDUCED, log entry 37. -/
def mayDepart (s : State) : Bool := s.storesDone s.cur s.issuePlace && decide (s.relaxedOps s.cur = 0) && !s.my.openMarks

/-- The executing thread leaves for the memory at a global physical address: from its home slot, which becomes AWAY, or from
a guest slot, which becomes EMPTY (R306, R310). The gang of a thread that leaves its home ends after the bundle (DESIGN CHOICE, log entry
104). -/
def depart (s : State) (gpa : Nat) (p : MigPacket) : Eff :=
  if s.waits (!s.mayDepart) then .stop s.again
  else
    let dst := pkgOf gpa
    match s.my.home with
    | some (home, _) =>
      let s := (s.setThr s.cur (Thread.reset (s.cur % 64))).guestLeft home dst p.visit
      .stop (if dst = home.pkg then s.post home.pkg (.goHome p .load) else s.post dst (.mig dst p))
    | none =>
      let s := s.updThr s.cur fun h =>
        { h with st := .away, wait := [], visit := h.visit + 1
                 awayAt := some { pkg := dst, die := gpa / 2 ^ 45 % 8, core := 0, thread := 0 } }
      .stop ((s.memberDone s.cur true).post dst (.mig dst { p with visit := p.visit + 1 }))

/-! ## Checks -/

/-- The executing thread's access failed, with the progress that FPROG records (R130). -/
def accessFault (s : State) (va : Word) (tr : Tr) (prog : Nat) : State :=
  match tr with
  | .bad f o => (s.logOutside va s.myTenant (s.loc s.cur) o).fault { f with fprog := prog }
  | tr => s.accessFails va tr

/-- Checks 2 to 5 of R121 for a read that never migrates its thread. -/
def checkFixed (s : State) (sp : Space) (va : Word) (n align : Nat) (u : Use) : Tr :=
  match s.checkAccess sp va n align u with
  | .ok p g => if p.isRemote then .bad (migrateF va) none else .ok p g
  | tr => tr

/-- A ninth relaxed access waits for one of the eight (R124). -/
def rxFull (s : State) (rx : Bool) : Bool := s.waits (rx && decide (8 ≤ s.relaxedOps s.cur))

/-- Issue a load: the thread is parked until the reply, or with rx its destinations are pending (R124). -/
def load (s : State) (what : OpWhat) (md : Mode) (rx : Bool) (ds : List RegRef) (ps : List Piece) : Eff :=
  if s.rxFull rx then .stop s.atPortHeld
  else
    let op := s.nextId
    let s := s.launch what md ps
    .done (if rx then ds.foldl (fun s r => s.pend s.cur r none) s else s.park s.cur (.reply op))

/-- Issue a store: the thread is held until the port accepts it, for .sc until its bank acknowledges it, with rx not at
all (R124). -/
def store (s : State) (md : Mode) (sc rx : Bool) (ps : List Piece) : Eff :=
  if s.rxFull rx then .stop s.atPortHeld
  else if ps.isEmpty then .done s
  else
    let op := s.nextId
    let s := s.launch .store md ps
    .done (if rx then s else s.hold s.cur (if sc then .ack op else .accept op))

end State

/-- Is the order .sc? -/
def isSc : Order → Bool
  | .sc => true
  | _ => false

/-- SUB of scheme INT. -/
def intSub : IntTy → BitVec 4
  | .i8 => 0
  | .i16 => 1
  | .i32 => 2
  | .i64 => 3
  | .n8 => 4
  | .n16 => 5
  | .n32 => 6
  | .n64 => 7

/-! ## LD and ST (R123) -/

def execLd (t : IntTy) (m : Mcw) (a b : GReg) (off : Off16) (s : State) : Host.Outcome State Fault Refusal :=
  performK s (.ld t m a b off) fun s =>
    let va := s.rdG b + sext16 off
    let n := tyWidth t / 8
    match s.checkAccess m.sp va n n (.ld n) with
    | .ok p g =>
      match s.way p g with
      | .here => s.load (.ld t a.toNat) (Mode.ofMcw m) m.rx [Regs.g a] [{ va := va, place := p, kind := .load n }]
      | .go => s.depart g (s.migPacket va false (intSub t) a m.order m.rx 0 0)
      | .refuse => .stop (s.fault (migrateF va))
    | tr => .stop (s.accessFails va tr)

/-- A scalar store, with its decrement. -/
def stEff (s : State) (t : IntTy) (m : Mcw) (va : Word) (b : Word) (sig : Option Nat) : Eff :=
  let n := tyWidth t / 8
  match s.checkAccess m.sp va n n (.st n) with
  | .ok p _ =>
    s.store { Mode.ofMcw m with sig := sig } (isSc m.order) m.rx
      [{ va := va, place := p, kind := .store (leBytes n b.toNat) }]
  | tr => .stop (s.accessFails va tr)

def execSt (t : IntTy) (m : Mcw) (a : GReg) (off : Off16) (b : GReg) (s : State) : Host.Outcome State Fault Refusal :=
  performK s (.st t m a off b) fun s => stEff s t m (s.rdG a + sext16 off) (s.rdG b) none
/-- The decrement travels with the store (R125). -/
def execStSig (t : IntTy) (m : Mcw) (a : GReg) (off : Off16) (b c : GReg) (s : State) :
    Host.Outcome State Fault Refusal :=
  performK s (.stSig t m a off b c) fun s =>
    stEff s t m (s.rdG a + sext16 off) (s.rdG b) (some ((s.rdG c).toNat % 2 ^ 32))

/-! ## LDV and STV (R126) -/

def execLdv (m : Mcw) (a : VOp) (b : GReg) (off : Off16) (s : State) : Host.Outcome State Fault Refusal :=
  performK s (.ldv m a b off) fun s =>
    let va := s.rdG b + sext16 off
    match s.checkFixed m.sp va 512 512 .ldv with
    | .ok p _ => s.load (.ldv a) (Mode.ofMcw m) m.rx [Regs.v a] (cutLoad va p 512)
    | tr => .stop (s.accessFails va tr)

/-- The 512 bytes of a vector (R163). -/
def vecBytes (w : VWord) : List Byte := (List.range 512).map fun j => (w >>> (8 * j)).setWidth 8

def execStv (m : Mcw) (a : GReg) (off : Off16) (b : VOp) (s : State) : Host.Outcome State Fault Refusal :=
  performK s (.stv m a off b) fun s =>
    let va := s.rdG a + sext16 off
    match s.checkAccess m.sp va 512 512 .stv with
    | .ok p _ => s.store (Mode.ofMcw m) (isSc m.order) m.rx (cutStore va p (vecBytes (s.rdV b)))
    | tr => .stop (s.accessFails va tr)

/-! ## LDX and STX (R127, R128) -/

/-- The active lanes with their addresses, ascending. -/
def activeLanes (base : Word) (offs : VWord) : List (Nat × Word) :=
  (List.range 128).filterMap fun i =>
    let o := lane offs i
    if o = 0x80000000#32 then none else some (i, base + o.signExtend 64)

/-- The first lane or block whose check fails. -/
def firstBad (l : List (Nat × Word × Tr)) : Option (Nat × Word × Tr) :=
  l.find? fun x => match x.2.2 with | .ok _ _ => false | _ => true

def execLdx (t : IntTy) (m : Mcw) (a : VOp) (b : GReg) (off : Off16) (c : VOp) (s : State) :
    Host.Outcome State Fault Refusal :=
  performK s (.ldx t m a b off c) fun s =>
    let n := tyWidth t / 8
    let l := (activeLanes (s.rdG b + sext16 off) (s.rdV c)).map fun x =>
      (x.1, x.2, s.checkFixed m.sp x.2 n n .ldx)
    match firstBad l with
    | some (i, va, tr) => .stop (s.accessFault va tr i)
    | none =>
      let ps := l.filterMap fun x => match x.2.2 with
        | Tr.ok p _ => some (Piece.mk x.2.1 p (.load n))
        | _ => none
      if ps.isEmpty then .done (s.wrV a 0 0)
      else s.load (.ldx t a (l.map (·.1))) (Mode.ofMcw m) m.rx [Regs.v a] ps

/-- A scatter holds its thread until the port has accepted all of its stores, rx or not (DEDUCED, log entry 21). -/
def execStx (t : IntTy) (m : Mcw) (a : GReg) (off : Off16) (b c : VOp) (s : State) : Host.Outcome State Fault Refusal :=
  performK s (.stx t m a off b c) fun s =>
    let n := tyWidth t / 8
    let l := (activeLanes (s.rdG a + sext16 off) (s.rdV c)).map fun x => (x.1, x.2, s.checkAccess m.sp x.2 n n .stx)
    match firstBad l with
    | some (i, va, tr) => .stop (s.accessFault va tr i)
    | none =>
      let ps := l.filterMap fun x => match x.2.2 with
        | Tr.ok p _ => some (Piece.mk x.2.1 p (.store (leBytes n (lane (s.rdV b) x.1).toNat)))
        | _ => none
      if s.rxFull m.rx then .stop s.atPortHeld else s.store (Mode.ofMcw m) false false ps

/-! ## SPILL and FILL (R129 to R131) -/

/-- The blocks from FPROG on, with their checks. -/
def runBlocks (s : State) (ulm : Bool) (base : Word) (stride cnt : Nat) (u : Use) : List (Nat × Word × Tr) :=
  let k0 := s.me.fprog.toNat
  (List.range (cnt - k0)).map fun i =>
    let va := base + BitVec.ofNat 64 ((k0 + i) * stride)
    (k0 + i, va, s.checkAccess (if ulm then .ulm else .dm) va stride stride u)

/-- The blocks before index k. -/
def blocksBelow (l : List (Nat × Word × Tr)) (k : Nat) : List (Nat × Word × Tr) := l.filter fun x => decide (x.1 < k)

/-- The pieces of the blocks that may be transferred. -/
def blockPieces (l : List (Nat × Word × Tr)) (f : Nat → Word → Place → List Piece) : List Piece :=
  l.flatMap fun x => match x.2.2 with
    | .ok p _ => f x.1 x.2.1 p
    | _ => []

/-- SPILL: the blocks below the first that fails are stored, and a failure records its index (R130). -/
def spillEff (s : State) (ulm : Bool) (base : Word) (stride cnt : Nat) (data : Nat → List Byte) : Eff :=
  let l := runBlocks s ulm base stride cnt .spill
  let ps := fun (l : List (Nat × Word × Tr)) => blockPieces l fun k va p => cutStore va p (data k)
  match firstBad l with
  | none => s.store Mode.plain false false (ps l)
  | some (_, va, .miss) => .stop (s.accessFails va .miss)
  | some (k, va, tr) =>
    let below := ps (blocksBelow l k)
    let s := if below.isEmpty then s else s.launch .store Mode.plain below
    .stop (s.accessFault va tr k)

def execSpillG (ulm : Bool) (a : GReg) (off : Off16) (b : GReg) (cntM1 : BitVec 7) (s : State) :
    Host.Outcome State Fault Refusal :=
  performK s (.spillG ulm a off b cntM1) fun s =>
    spillEff s ulm (s.rdG a + sext16 off) 8 (cntM1.toNat + 1) fun k =>
      leBytes 8 (FMap.get 0 s.rd.gfile (s.me.gbase * 8 + b.toNat + k)).toNat
def execSpillV (ulm : Bool) (a : GReg) (off : Off16) (b : BitVec 6) (cntM1 : BitVec 7) (s : State) :
    Host.Outcome State Fault Refusal :=
  performK s (.spillV ulm a off b cntM1) fun s =>
    spillEff s ulm (s.rdG a + sext16 off) 512 (cntM1.toNat + 1) fun k => vecBytes (s.rdVr (b.toNat + k))

/-- FILL: the blocks below the first that fails, or that lies where the thread must go, are loaded (R130). -/
def fillEff (s : State) (ulm : Bool) (base : Word) (stride cnt : Nat) (what : Nat → OpWhat) (reg : Nat → RegRef)
    (scalar : Option GReg) : Eff :=
  let k0 := s.me.fprog.toNat
  let way : Nat × Word × Tr → State.Way := fun x =>
    match x.2.2 with
    | .ok p g => (match scalar with
        | some _ => s.way p g
        | none => if p.isRemote then .refuse else .here)
    | _ => .here
  let l := (runBlocks s ulm base stride cnt .fill).map fun x =>
    if way x = .refuse then (x.1, x.2.1, Tr.bad (migrateF x.2.1) none) else x
  let ps := fun (l : List (Nat × Word × Tr)) => blockPieces l fun _ va p => cutLoad va p stride
  let stopAt := l.find? fun x => match x.2.2 with | .ok _ _ => decide (way x = .go) | _ => true
  match stopAt with
  | none => if (ps l).isEmpty then .done s else s.load (what k0) Mode.plain false [] (ps l)
  | some (_, va, .miss) => .stop (s.accessFails va .miss)
  | some (k, va, .bad f o) =>
    let below := ps (blocksBelow l k)
    let s := if below.isEmpty then s else
      (List.range (k - k0)).foldl (fun s i => s.pend s.cur (reg (k0 + i)) none) (s.launch (what k0) Mode.plain below)
    .stop (s.accessFault va (.bad f o) k)
  | some (k, va, .ok _ g) =>
    let below := ps (blocksBelow l k)
    if below.isEmpty then s.depart g (s.migPacket va true 0 (scalar.getD 0) .plain false (cnt - 1) k)
    else
      -- the registers below k are filled first; the bundle then goes on from block k, with the base address of its issue
      let op := s.nextId
      let s := s.launch (what k0) Mode.plain below
      .stop (s.updThr s.cur fun h => { h with st := .parked, wait := [.reply op, .again], fprog := BitVec.ofNat 64 k, fillBase := some base })

def execFillG (ulm : Bool) (a b : GReg) (off : Off16) (cntM1 : BitVec 7) (s : State) :
    Host.Outcome State Fault Refusal :=
  performK s (.fillG ulm a b off cntM1) fun s =>
    fillEff s ulm (s.me.fillBase.getD (s.rdG b + sext16 off)) 8 (cntM1.toNat + 1) (fun k => .fillG (a.toNat + k)) (fun k => .g (a.toNat + k))
      (some a)
def execFillV (ulm : Bool) (a : BitVec 6) (b : GReg) (off : Off16) (cntM1 : BitVec 7) (s : State) :
    Host.Outcome State Fault Refusal :=
  performK s (.fillV ulm a b off cntM1) fun s =>
    fillEff s ulm (s.me.fillBase.getD (s.rdG b + sext16 off)) 512 (cntM1.toNat + 1) (fun k => .fillV (a.toNat + k)) (fun k => .v (a.toNat + k))
      none

/-! ## Results that come after the issue (R62, R404) -/

namespace State

/-- Write a result into its register and clear its mark. A vector for an outbound stream is appended. -/
def putReg (s : State) (t : Nat) (r : RegRef) (w : VWord) : State :=
  let s := match r with
    | .g i => s.putG t i (w.setWidth 64)
    | .v i => s.putV t i w
    | .m i => s.putM t i (w.setWidth 128)
    | .q i => ({ s with cur := t } : State).append i w
    | _ => s
  s.updThr t fun h => h.clearMark r

/-- Deliver a result to a thread: at once; or, where it is one of the bundle that the thread executes, whose other half may still fault, as
the bundle retires (R404). -/
def deliver (s : State) (own : Bool) (t : Nat) (r : RegRef) (w : VWord) : State :=
  if own ∧ ((s.thr t).withheld.isSome ∨ (s.thr t).holding.isSome) then
    s.updThr t fun h => { h with late := h.late ++ [{ reg := r, val := w, ready := none }] }
  else s.putReg t r w

/-- Does thread t wait for operation op: is it one of the bundle that the thread executes? -/
def waitsFor (s : State) (t op : Nat) : Bool := (s.thr t).wait.contains (.reply op)

/-- Write a result that the bundle has held back (R62, R404). -/
def putLate (s : State) (t : Nat) (l : Late) : State :=
  match l.ready with
  | some n => (s.putReg t l.reg l.val).pend t l.reg (some n)
  | none => s.putReg t l.reg l.val

end State

/-! ## Full/empty words (R108, R109) -/

/-- Does an operation find the state it needs? -/
def feReady (full : Bool) : FeOp → Bool
  | .ldfe _ | .ldff _ => full
  | .stfe _ => !full

namespace State

/-- Perform a full/empty operation on a word that has the state it needs. -/
def fePerform (s : State) (t off : Nat) (op : FeOp) : State :=
  let ck := t / 64
  match op with
  | .ldfe a => (s.updCore ck fun c => { c with full := FMap.erase c.full (off / 8) }).deliver true t (.g a)
      (BitVec.ofNat 4096 ((s.core ck).ulm.nat off 8))
  | .ldff a => s.deliver true t (.g a) (BitVec.ofNat 4096 ((s.core ck).ulm.nat off 8))
  | .stfe w => s.updCore ck fun c =>
      { c with ulm := c.ulm.write off (leBytes 8 w.toNat), full := FMap.set c.full (off / 8) true }

/-- Take an entry out of the wait list. -/
def feDrop (s : State) (w : FeWait) : State := s.updCore (w.thread / 64) fun c => { c with feWait := c.feWait.erase w }

/-- Re-present the operations waiting on a word, in list order (R109). -/
def feRepresent (s : State) (ck off : Nat) : State :=
  ((s.core ck).feWait.filter fun w => w.off == off).foldl (fun s w =>
    let full := FMap.get false (s.core ck).full (off / 8)
    if feReady full w.op then
      match w.op, (s.core ck).ulm.badIn off 8 with
      | .stfe _, _ | _, none => ((s.feDrop w).fePerform w.thread off w.op).doneWaiting w.thread (.unit 0)
      | _, some (p, a) => (s.feDrop w).takeFault w.thread (killF p (BitVec.ofNat 64 a))
    else if (s.core ck).felim ≠ 0 ∧ (s.core ck).felim ≤ w.count + 1 then
      (s.feDrop w).takeFault w.thread (feRetryF (BitVec.ofNat 64 off))
    else (s.feDrop w).updCore ck fun c => { c with feWait := c.feWait ++ [{ w with count := w.count + 1 }] }) s

/-- A full/empty operation of the executing thread: checks, its place at the port and after the thread's relaxed accesses (R24, R150),
then it completes or waits. -/
def feOp (s : State) (ad : Word) (op : FeOp) (isLoad always : Bool) : Eff :=
  if 0x27FF8 < ad.toNat then .stop (s.fault (protF ad))
  else if ad.toNat % 8 ≠ 0 then .stop (s.fault (alignF ad))
  else if s.waits (!s.portClear s.ck .ulm s.issuePlace || decide (s.relaxedBefore s.cur s.issuePlace ≠ 0)) then .stop s.atPort
  else
    let off := ad.toNat
    let full := FMap.get false (s.core s.ck).full (off / 8)
    match isLoad && feReady full op, (s.core s.ck).ulm.badIn off 8 with
    | true, some (p, a) => .stop (s.fault (killF p (BitVec.ofNat 64 a)))
    | _, _ =>
      if feReady full op || always then
        let s' := s.fePerform s.cur off op
        let full' := FMap.get false (s'.core s.ck).full (off / 8)
        .done (if full' != full then s'.feRepresent s.ck off else s')
      else
        .done ((s.updCore s.ck fun c =>
          { c with feWait := c.feWait ++ [{ thread := s.cur, off := off, op := op, count := 0 }] }).park s.cur (.unit 0))

end State

def execLdfe (a b : GReg) (off : Off16) (s : State) : Host.Outcome State Fault Refusal :=
  performK s (.ldfe a b off) fun s => s.feOp (s.rdG b + sext16 off) (.ldfe a.toNat) true false
def execStfe (a : GReg) (off : Off16) (b : GReg) (s : State) : Host.Outcome State Fault Refusal :=
  performK s (.stfe a off b) fun s => s.feOp (s.rdG a + sext16 off) (.stfe (s.rdG b)) false false
def execLdff (a b : GReg) (off : Off16) (s : State) : Host.Outcome State Fault Refusal :=
  performK s (.ldff a b off) fun s => s.feOp (s.rdG b + sext16 off) (.ldff a.toNat) true false
def execStff (a : GReg) (off : Off16) (b : GReg) (s : State) : Host.Outcome State Fault Refusal :=
  performK s (.stff a off b) fun s => s.feOp (s.rdG a + sext16 off) (.stfe (s.rdG b)) false true

end Sys2Proof.Machine
end

