-- ==== Sys2Proof/Machine/Streams.lean ====
section
/-! DEFINITION. Stream registers (R132 to R139): binding, freeing and inspecting them, fetching ahead, and publishing the slots of
a channel. -/

namespace Sys2Proof.Machine

open Sys2Proof

/-! ## Descriptors (R133) -/

/-- The stream that a descriptor describes, for an inbound or an outbound register; none where it is not well formed. -/
def parseStream (d : List Byte) (inbound : Bool) : Option StreamDesc :=
  let mode := field d 0 1
  let space := field d 1 1
  let rule := field d 2 1
  let base := BitVec.ofNat 64 (field d 8 8)
  let sp : Space := if space = 0 then .dm else .ab
  let reserved := field d 3 1 ≠ 0 ∨ (List.range 24).any fun i => decide (field d (40 + i) 1 ≠ 0)
  let spaceOk := if inbound then space = 0 ∨ space = 3 else space = 0
  let modeOk := if inbound then mode = 0 ∨ mode = 2 else mode = 1
  if ¬modeOk ∨ ¬spaceOk ∨ 4 ≤ rule ∨ reserved ∨ base.toNat % 64 ≠ 0 then none
  else if mode = 2 then
    let e := fun i => field d (16 + 2 * i) 2
    let k := fun i => field d (28 + i) 1
    if (List.range 6).any (fun i => e i == 0) || (List.range 6).any (fun i => k i == 0) then none
    else
      let r : ConvRule := if rule = 0 then .zero
        else if rule = 1 then .const (BitVec.ofNat 32 (field d 36 4)) else if rule = 2 then .reflect else .clamp
      some (.conv sp r base (e 0) (e 1) (e 2) (e 3) (e 4) (e 5) (k 0) (k 1) (k 2) (k 3) (k 4) (k 5) (k 6) (k 7))
  else
    let len := field d 4 4
    let n0 := field d 16 4
    let n1 := field d 20 4
    if len = 0 ∨ 2 ^ 31 < len ∨ n0 = 0 ∨ n1 = 0 then none
    else some (.affine (!inbound) sp len base n0 n1 (BitVec.ofNat 32 (field d 24 4)) (BitVec.ofNat 32 (field d 28 4))
      (BitVec.ofNat 32 (field d 32 4)))

/-! ## SBIND, SFREE, SSTAT (R137) -/

namespace State

/-- Has the port still to accept a store of the executing thread (R137)? -/
def storesUnaccepted (s : State) : Bool :=
  s.issued.any fun a => a.thr == some s.cur && isStore a && decide (a.id < s.nextId)

/-- Is every vector written to outbound stream q accepted, or its channel slot published, that of a load under way included (R62, R137)?.
DEDUCED, log entry 38. -/
def writesDone (s : State) (q : Nat) (st : Stream) : Bool :=
  !s.storesUnaccepted && !(s.my.pend.any fun m => m.reg == .q q) &&
  (match st.desc with
   | .chanOut _ _ _ _ _ filling ready _ _ => filling.isEmpty && ready.isEmpty
   | _ => true)

def unbind (s : State) (ck q : Nat) : State := s.updCore ck fun c => { c with q := FMap.erase c.q q }

/-- The stream registers bound to the executing thread. -/
def boundTo (s : State) : List (Nat × Stream) := (s.core s.ck).q.filter fun e => e.2.thread == s.cur % 64

end State

/-- SBIND does not wait for relaxed accesses (DESIGN CHOICE, log entry 126). -/
def execSbind (q : QReg) (b : GReg) (s : State) : Host.Outcome State Fault Refusal :=
  performK s (.sbind q b) fun s =>
    let ad := s.rdG b
    if (FMap.find? s.rd.q q.toNat).isSome then .stop (s.fault (streamF 0 0))
    else if s.waits s.storesUnaccepted then .stop s.atPort
    else if ad.toNat % 64 ≠ 0 then .stop (s.fault (alignF ad))
    else if 0x27FFF < ad.toNat + 63 then .stop (s.fault (protF ad))
    else if s.ulmWaits then .stop s.atPort
    else
      match s.ulmBlock ad.toNat 64 with
      | (_, some (p, w)) => .stop (s.fault (killF p (BitVec.ofNat 64 w)))
      | (d, none) =>
        match parseStream d (decide (q.toNat < 4)) with
        | none => .stop (s.fault (streamF 0 ad))
        | some d =>
          let st : Stream := { thread := s.cur % 64, desc := d, pos := 0, tail := 0, fetched := [], lent := [], bound := s.nextId }
          let (_, s) := s.fresh
          .done (s.updCore s.ck fun c => { c with q := FMap.set c.q q.toNat st })

def execSfree (q : QReg) (s : State) : Host.Outcome State Fault Refusal :=
  performK s (.sfree q) fun s =>
    match s.stream q.toNat with
    | none => .stop (s.fault (streamF 0 0))
    | some st =>
      if s.waits (decide (4 ≤ q.toNat) && !s.writesDone q.toNat st) then .stop s.againHeld
      else .done (s.unbind s.ck q.toNat)

def execSstatMask (m : MReg) (q : QReg) (s : State) : Host.Outcome State Fault Refusal :=
  performK s (.sstatMask m q) fun s =>
    match s.stream q.toNat with
    | none => .stop (s.fault (streamF 0 0))
    | some st => .done (s.putM s.cur m.toNat st.tail)
/-- SSTAT of the position: of a CONV stream whose LEN is 2³² or more, LEN is taken modulo 2³² (R135, R137; DESIGN CHOICE, log entry 129). -/
def execSstatPosition (a : GReg) (q : QReg) (s : State) : Host.Outcome State Fault Refusal :=
  performK s (.sstatPosition a q) fun s =>
    match s.stream q.toNat with
    | none => .stop (s.fault (streamF 0 0))
    | some st =>
      let len := (st.desc.len).getD 0xFFFFFFFF
      .done (s.wrG a (BitVec.ofNat 64 (len % 2 ^ 32 * 2 ^ 32 + st.pos % 2 ^ 32)))

/-! ## Fetching ahead (R134 to R136, R139) -/

/-- The mapped coordinate of the boundary rules REFLECT and CLAMP (R135). -/
def mapCoord (reflect : Bool) (c : Int) (e : Nat) : Int :=
  let c := if reflect then
      let c := if c < 0 then -1 - c else c
      if (e : Int) ≤ c then 2 * (e : Int) - 1 - c else c
    else c
  min (max c 0) ((e : Int) - 1)

/-- The word of lane i of vector j of a CONV stream: a word to read at a byte offset from BASE, or a fixed word; none for a
tail lane (R135). -/
def convLane (rule : ConvRule) (n h w cw oh ow kh kw sh sw dh dw ph pw j i : Nat) : Option (Sum Nat Word32) :=
  let taps := kh * kw * cw
  let t := j % taps
  let p := j / taps * 128 + i
  if n * oh * ow ≤ p then none
  else
    let nn := p / (oh * ow)
    let ih : Int := ((p / ow % oh * sh : Nat) : Int) - ph + (t / (cw * kw) * dh : Nat)
    let iw : Int := ((p % ow * sw : Nat) : Int) - pw + (t / cw % kw * dw : Nat)
    let at' := fun (y x : Int) => 4 * (((nn * h + y.toNat) * w + x.toNat) * cw + t % cw)
    if 0 ≤ ih ∧ ih < h ∧ 0 ≤ iw ∧ iw < w then some (.inl (at' ih iw))
    else
      match rule with
      | .zero => some (.inr 0)
      | .const c => some (.inr c)
      | .reflect => some (.inl (at' (mapCoord true ih h) (mapCoord true iw w)))
      | .clamp => some (.inl (at' (mapCoord false ih h) (mapCoord false iw w)))

/-- The vectors between a stream's position and the next to fetch. -/
def Stream.ahead (st : Stream) : Nat := st.lent.length + st.fetched.length

namespace State

/-- Read n bytes of a stream of core ck for its thread: the bytes, or the fault that their consumer takes, with the address outside the
tenant's windows (R119, R121, R340). -/
def streamRead (s : State) (ck : Nat) (sp : Space) (va : Word) (n align : Nat) : Except (FaultRec × Option Nat) (List Byte) :=
  let read := fun (p : Place) =>
    match s.badAt va p n with
    | some (poison, w) => .error (killF poison w, none)
    | none => .ok (s.readMem p n)
  match sp with
  | .dm =>
    if canonical va ∧ va.toNat % align ≠ 0 then .error (alignF va, none)
    else
      match s.translateNow ck (s.core ck).tenant va .engine with
      | .ok p _ => if p.isRemote then .error (migrateF va, none) else read p
      | .bad f o => .error (f, o)
      | .miss => .error (pageF va, none)
  | _ =>
    if bufSize sp < va.toNat + n then .error (protF va, none)
    else if va.toNat % align ≠ 0 then .error (alignF va, none)
    else read (.buf ck sp va.toNat)

/-- Read several pieces one after another; the first fault is the result. -/
def readAll {ε : Type} (f : Nat → Except ε (List Byte)) : List Nat → Except ε (List Byte)
  | [] => .ok []
  | i :: r =>
    match f i with
    | .error e => .error e
    | .ok d =>
      match readAll f r with
      | .error e => .error e
      | .ok d' => .ok (d ++ d')

/-- Vector j of an inbound stream, counted from its binding, with the address outside the tenant's windows that it meets. FADDR of a failing
AFFINE vector is the vector's address (R139); a CONV vector has none of its own, and FADDR is that of its first lane that fails (DESIGN
CHOICE, log entry 111). The 512 bytes are read at one moment (R139; DESIGN CHOICE, log entry 130). -/
def streamVector (s : State) (ck : Nat) (st : Stream) (j : Nat) : Fetched × Option Nat :=
  let ofBytes := fun (r : Except (FaultRec × Option Nat) (List Byte)) (tail : Mask128) (at' : Option Word) =>
    match r with
    | .ok d => (({ data := BitVec.ofNat 4096 (leNat d), tail := tail, fault := none } : Fetched), none)
    | .error (f, o) => ({ data := 0, tail := tail, fault := some (if f.kill then f else { f with faddr := at'.getD f.faddr }) }, o)
  match st.desc with
  | .affine false sp _ base n0 n1 s0 s1 s2 =>
    let a := affineAddr base n0 n1 s0 s1 s2 j
    ofBytes (readAll (fun i => s.streamRead ck sp (a + BitVec.ofNat 64 (64 * i)) 64 64) (List.range 8)) 0 (some a)
  | .conv sp rule base n h w cw oh ow kh kw sh sw dh dw ph pw =>
    let ln := convLane rule n h w cw oh ow kh kw sh sw dh dw ph pw j
    let tail : Mask128 := BitVec.ofNat 128 (joinNat 1 ((List.range 128).map fun i => if (ln i).isNone then 1 else 0))
    ofBytes (readAll (fun i =>
      match ln i with
      | none => .ok (leBytes 4 0)
      | some (.inr c) => .ok (leBytes 4 c.toNat)
      | some (.inl o) => s.streamRead ck sp (base + BitVec.ofNat 64 o) 4 4) (List.range 128)) tail none
  | .chanIn _ _ size allow ring _ read part =>
    let parts := (size + 511) / 512
    let k := read * parts + part + st.ahead
    let p := k % parts
    let n := min 512 (size - 512 * p)
    ofBytes (s.streamRead ck .ulm (BitVec.ofNat 64 (ring + k / parts % allow * size + 512 * p)) n 1) 0 none
  | _ => ({ data := 0, tail := 0, fault := none }, none)

/-- May another vector be fetched: fewer than four ahead, the stream not at its end, a channel's slot published, no earlier
fault, and every access the core issued before the binding performed (R139)? -/
def mayFetch (s : State) (ck : Nat) (st : Stream) : Bool :=
  decide (st.fetched.length < 4) && st.fetched.all (fun f => f.fault.isNone) &&
  !(s.issued.any fun a => a.core == ck && decide (a.turn < st.bound)) &&
  !(s.flight.any fun a => a.core == ck && decide (a.turn < st.bound) && a.ans.isNone && a.held.isNone && !a.place.isRemote) &&
  (match st.desc with
   | .affine false _ len _ _ _ _ _ _ => decide (st.pos + st.ahead < len)
   | .conv .. => match st.desc.len with
     | some n => decide (st.pos + st.ahead < n)
     | none => false
   | .chanIn _ _ size _ _ vis read part =>
     let parts := (size + 511) / 512
     decide (read * parts + part + st.ahead < vis * parts)
   | _ => false)

/-! ## Vectors for the matrix unit (R210) -/

/-- Is an entry of the matrix queue waiting for vectors of stream register q? -/
def mxWants (q : Nat) (e : MxEntry) : Bool :=
  match e.op with
  | .mma (.stream q' need got) _ _ _ _ _ _ _ _ _ _ => q' == q && decide (got.length < need)
  | _ => false

/-- One more vector for an entry, with the bad word it held. -/
def fed (e : MxEntry) (w : VWord) (bad : Option (Bool × Word)) : MxEntry :=
  match e.op with
  | .mma (.stream q need got) n m f i a b h l k kn =>
    { e with op := .mma (.stream q need (got ++ [w])) n m f i a b h l k kn, bad := e.bad.or bad }
  | _ => e

/-- What comes of giving fetched vectors to the entry of the matrix queue that waits for them. -/
inductive Given where
  | waits
  /-- entry id of thread t has all its vectors -/
  | all (t id : Nat)
  /-- the bundle of thread t faults: the stream does not advance (R139, R210) -/
  | faults (t : Nat) (f : FaultRec)

/-- An entry that has all its vectors takes them from its stream, unless its bundle's other half may still fault (R210, R404). -/
def takeVectors (s : State) (ck q : Nat) (e : MxEntry) : State := if e.hold then s else s.takeLent ck q

/-- Give the vectors that stream register q has fetched, at most four, to the entry that waits for them; a bad word is the entry's
(R219). -/
def mxGive (s : State) (ck q : Nat) : Nat → State × Given
  | 0 => (s, .waits)
  | fuel + 1 =>
    let c := s.core ck
    match c.mx.queue.find? (mxWants q), FMap.find? c.q q with
    | some e, some st =>
      match st.fetched with
      | [] => (s, .waits)
      | f :: r =>
        let give := fun (g : MxEntry) => s.updCore ck fun c =>
          { c with mx := { c.mx with queue := c.mx.queue.map fun x => if x.id = e.id then g else x }
                   q := FMap.set c.q q { st with fetched := r, lent := st.lent ++ [f.tail] } }
        let go := fun (s : State) =>
          if (s.core ck).mx.queue.any (mxWants q) then s.mxGive ck q fuel
          else (s.takeVectors ck q e, .all (ck * 64 + e.thr.getD 0) e.id)
        match f.fault with
        | some x =>
          if x.kill then go (give (fed e 0 (some (decide (x.cause = 0x12), x.faddr))))
          else (s, .faults (ck * 64 + e.thr.getD 0) x)
        | none => go (give (fed e f.data none))
    | _, _ => (s, .waits)

/-- The same, with the thread that waited going on, or its bundle faulting. -/
def mxFeed (s : State) (ck q : Nat) : State :=
  match s.mxGive ck q 4 with
  | (s, .waits) => s
  | (s, .all t id) => s.doneWaiting t (.unit id)
  | (s, .faults t f) => s.takeFault t f

end State

/-- STREAM_VECTOR_FETCH at stream register State.subj = core key * 8 + q: the next vector is fetched, and goes to the
matrix unit where an operation waits for it. -/
def occStreamVectorFetch (s : State) : Option State :=
  let ck := s.subj / 8
  let q := s.subj % 8
  match FMap.find? (s.core ck).q q with
  | none => none
  | some st =>
    if !s.mayFetch ck st then none
    else
      let (f, o) := s.streamVector ck st (st.pos + st.ahead)
      let s := match f.fault with
        | some r => s.logOutside r.faddr (s.core ck).tenant (s.loc (ck * 64 + st.thread)) o
        | none => s
      some ((s.updCore ck fun c => { c with q := FMap.set c.q q { st with fetched := st.fetched ++ [f] } }).mxFeed ck q)

def execStreamVectorFetch (s : State) : Host.Outcome State Fault Refusal := s.happen (occStreamVectorFetch s)

/-- CHANNEL_SLOT_PUBLISH at a channel's source end: a full slot is stored into the sink core's ring, acknowledged, and
becomes visible to the sink (R136). -/
def occChannelSlotPublish (s : State) : Option State :=
  let ck := s.subj / 8
  let q := s.subj % 8
  match FMap.find? (s.core ck).q q with
  | some st =>
    match st.desc with
    | .chanOut k kq size allow ring filling (d :: r) pub un =>
      let s := s.updCore ck fun c =>
        { c with q := FMap.set c.q q { st with desc := .chanOut k kq size allow ring filling r (pub + 1) un } }
      let s := s.writeMem (.buf k .ulm (ring + pub % allow * size)) d
      some (s.updCore k fun c =>
        match FMap.find? c.q kq with
        | some i =>
          match i.desc with
          | .chanIn a b z al rg vis rd part =>
            { c with q := FMap.set c.q kq { i with desc := .chanIn a b z al rg (vis + 1) rd part } }
          | _ => c
        | none => c)
    | _ => none
  | none => none

def execChannelSlotPublish (s : State) : Host.Outcome State Fault Refusal := s.happen (occChannelSlotPublish s)

end Sys2Proof.Machine
end

