-- ==== Sys2Proof/Machine/Threads.lean ====
section
/-! DEFINITION. Thread, task and gang instructions (R89, R90, R97 to R103): identity, time, shared registers, YIELD, WFW, DONE,
SIGNAL, GANG and DISBAND, and a follower's bundle. -/

namespace Sys2Proof.Machine

open Sys2Proof

/-! ## Identity, time, shared registers (R66, R89, R90) -/

/-- The identity of R90. -/
def State.identity (s : State) : Word :=
  BitVec.ofNat 64 ((if s.inGuestSlot then 2 ^ 26 else 0) + s.pkg % 256 * 2 ^ 18 + s.ck / 512 % 8 * 2 ^ 15 +
    s.ck % 512 * 64 + s.cur % 64)

def execTid (a : GReg) (s : State) : Host.Outcome State Fault Refusal :=
  perform s (.tid a) fun s => s.wrG a s.identity
def execCyc (a : GReg) (s : State) : Host.Outcome State Fault Refusal :=
  perform s (.cyc a) fun s => s.wrG a (BitVec.ofNat 64 s.issueCycle)

/-- The value of a shared register in cycle n: that of the last CSET issued seven cycles before or earlier (R66). -/
def Core.readC (c : Core) (n i : Nat) : Word :=
  ((c.csets.filter fun r => decide (r.reg = i) && decide (r.cycle + 7 ≤ n)).getLast?.map (·.val)).getD (FMap.get 0 c.c i)

/-- A CSET among the others, in the order of their cycles. -/
def putCset (r : CsetRec) : List CsetRec → List CsetRec
  | [] => [r]
  | x :: l => if r.cycle < x.cycle then r :: x :: l else x :: putCset r l

/-- The CSETs of the last cycles, older ones applied; the last older one of each register is kept, for one that is issued before it and
executed after it (R66, R404). -/
def Core.ageC (c : Core) (n : Nat) : Core :=
  { c with c := (c.csets.filter fun r => decide (r.cycle + 7 ≤ n)).foldl (fun f r => FMap.set f r.reg r.val) c.c
           csets := c.csets.filter fun r =>
             decide (n < r.cycle + 7) ||
               !(c.csets.any fun x => x.reg == r.reg && decide (r.cycle < x.cycle) && decide (x.cycle + 7 ≤ n)) }

/-- CGET: an uncorrectable shared register reads 0, is written to zero and logged (R341). -/
def execCget (a : GReg) (n : CReg) (s : State) : Host.Outcome State Fault Refusal :=
  perform s (.cget a n) fun s =>
    let i := n.toNat
    let now := s.issueCycle
    if s.rd.defects.cregs.contains i then
      let s := s.updCore s.ck fun c =>
        let c := c.ageC now
        { c with c := FMap.set c.c i 0, csets := c.csets.filter fun r => !(r.reg == i && decide (r.cycle + 7 ≤ now))
                 defects := { c.defects with cregs := c.defects.cregs.filter (· != i) } }
      (s.vlogAt s.ck (BitVec.ofNat 64 i) 0x0A s.myTenant (locWord (s.loc s.cur))).wrG a 0
    else s.wrG a (s.rd.readC now i)
def execCset (n : CReg) (b : GReg) (s : State) : Host.Outcome State Fault Refusal :=
  perform s (.cset n b) fun s =>
    let w := s.rdG b
    s.updCore s.ck fun c =>
      let c := c.ageC (s.cycOf s.ck)
      { c with csets := putCset { cycle := s.issueCycle, reg := n.toNat, val := w } c.csets
               defects := { c.defects with cregs := c.defects.cregs.filter (· != n.toNat) } }

/-- YIELD: not eligible in cycles c + 1 to c + 63 (R89); in a gang the leader's hold covers the members (R101). -/
def execYield (s : State) : Host.Outcome State Fault Refusal :=
  perform s .yield fun s =>
    if s.isFollower then s else s.updThr s.cur fun h => { h with holdUntil := s.issueCycle + 64 }

/-! ## WFW, DONE, SIGNAL (R97, R98) -/

namespace State

/-- No register of the executing thread is pending. -/
def nothingPending (s : State) : Bool :=
  s.me.pend.all fun m => match m.ready with | none => false | some n => decide (n ≤ s.cycOf s.ck)

/-- The release of WFW, DONE and SIGNAL: every earlier store of the thread has its bank acknowledgement. -/
def released (s : State) : Bool := s.storesDone s.cur s.issuePlace

/-- Unbind every stream register of the executing thread. -/
def unbindAll (s : State) : State := s.boundTo.foldl (fun s e => s.unbind s.ck e.1) s

/-- The cores of a stage's mask on die d, ascending. -/
def stageCores (d : Nat) (st : PipeStage) : List Nat :=
  ((List.range 16).filter fun i => st.mask.getLsbD i).map fun i => d * 512 + st.cluster * 16 + i

/-- Has every stage thread of a launch on die d been placed? -/
def allPlaced (d : Nat) (p : PipeLaunch) : Bool :=
  decide (p.toRelease = 0) && decide (p.placed.length = (p.stages.map fun st => (stageCores d st).length).foldl (· + ·) 0)

/-- A thread leaves its pipeline stage without DONE, by WFW or a KILL: the PIPE node never retires; the launch ends with its last thread
(R112, R342). -/
def leaveStage (s : State) (t : Nat) : State :=
  let gone := fun (x : Nat × Nat × Nat) => if x.2.1 == t / 64 && x.2.2 == t % 64 then (x.1, x.2.1, 64) else x
  let ended := fun (p : PipeLaunch) => allPlaced (t / 64 / 512) p && p.running != [] && p.running.all fun x => x.2.2 == 64
  s.updDie (t / 64 / 512) fun d =>
    { d with pipes := (d.pipes.map fun p => { p with running := p.running.map gone }).filter fun p => !ended p }

/-- The executing thread leaves the rotation to wait for work. -/
def toWfw (s : State) : State :=
  (s.unbindAll.leaveStage s.cur).updThr s.cur fun h => { h with node := 0xFFFFFFFF#32, st := .wfw, fprog := 0 }

/-- Must WFW or DONE still wait (R97), the frees of its outbound streams included (R137)? -/
def wfwWaits (s : State) : Bool :=
  s.waits (!s.nothingPending || !s.released ||
    s.boundTo.any fun e => decide (4 ≤ e.1) && !s.writesDone e.1 e.2)

/-- A node has retired (R378). -/
def nodeRetired (s : State) (tenant index : Nat) : State :=
  { s with fw := { s.fw with retiring := s.fw.retiring ++ [{ tenant := tenant, index := index, after := [] }] } }

/-- The pipeline launch of which the executing thread runs a stage, with its die (R112). -/
def pipeOf (s : State) : Option PipeLaunch :=
  (s.die (s.ck / 512)).pipes.find? fun p => p.running.any fun x => x.2.1 == s.ck && x.2.2 == s.cur % 64

/-- A stage thread has executed DONE: the PIPE node retires with its last one (R112). -/
def pipeDone (s : State) (p : PipeLaunch) : State :=
  let d := s.ck / 512
  let p' := { p with running := p.running.filter fun x => !(x.2.1 == s.ck && x.2.2 == s.cur % 64) }
  if p'.running.isEmpty ∧ allPlaced d p' then
    let s := s.updDie d fun e => { e with pipes := e.pipes.filter fun q => q.id != p.id }
    (s.decrementSuccessors s.ck p.tenant p.index (s.loc s.cur) (some (s.homeLoc s.cur))).nodeRetired p.tenant p.index
  else s.updDie d fun e => { e with pipes := e.pipes.map fun q => if q.id = p.id then p' else q }

end State

def execWfw (s : State) : Host.Outcome State Fault Refusal :=
  performK s .wfw fun s =>
    if s.me.grole ≠ 0 then .stop (s.fault gangF)
    else if s.wfwWaits then .stop s.again
    else .done s.toWfw

/-- DONE: successors are decremented, streams freed, and the thread waits for work; a leader's gang ends (R97, R102). -/
def execDoneOp (s : State) : Host.Outcome State Fault Refusal :=
  performK s .doneOp fun s =>
    if s.me.grole = 2 then .stop (s.fault gangF)
    else if s.wfwWaits then .stop s.again
    else
      let node := s.me.node.toNat
      let s := match s.pipeOf with
        | some p => s.pipeDone p
        | none =>
          if node = 0xFFFFFFFF then s
          else (s.decrementSuccessors s.ck s.myTenant node (s.loc s.cur) (some (s.homeLoc s.cur))).nodeRetired s.myTenant node
      let s := s.toWfw
      .done (if s.me.grole = 1 then (s.updThr s.cur fun h => { h with gangEnd := true }).memberDone s.cur false else s)

def execSignal (a : GReg) (s : State) : Host.Outcome State Fault Refusal :=
  performK s (.signal a) fun s =>
    if s.waits (!s.released) then .stop s.again
    else .done (s.decrement s.ck s.myTenant ((s.rdG a).toNat % 2 ^ 32) (s.loc s.cur) (some (s.homeLoc s.cur)))

/-! ## Gangs (R99 to R103) -/

def gangDims : GangSize → Nat × Nat
  | .two => (2, 1)
  | .four => (2, 2)
  | .eight => (2, 4)

def gangCode : GangSize → Nat
  | .two => 1
  | .four => 2
  | .eight => 3

/-- Is a leader at position p of its cluster placed as the form requires? -/
def gangPlaced (n : GangSize) (p : Nat) : Bool :=
  let x := p % 4
  let y := p / 4
  decide (x % 2 = 0) && (match n with | .two => true | .four => decide (y % 2 = 0) | .eight => decide (y = 0))

/-- The followers' thread keys, for a leader thread key. -/
def gangFollowers (n : GangSize) (t : Nat) : List Nat :=
  let (w, h) := gangDims n
  ((List.range (w * h)).filter (· != 0)).map fun i => t + (i % w + 4 * (i / w)) * 64

/-- Hops between two cores of a cluster. -/
def hops (a b : Nat) : Nat :=
  let dx : Int := (a % 4 : Nat) - (b % 4 : Nat)
  let dy : Int := (a / 4 % 4 : Nat) - (b / 4 % 4 : Nat)
  dx.natAbs + dy.natAbs

def execGang (n : GangSize) (s : State) : Host.Outcome State Fault Refusal :=
  performK s (.gang n) fun s =>
    let fs := gangFollowers n s.cur
    if s.me.grole ≠ 0 ∨ 56 ≤ s.cur % 64 ∨ !gangPlaced n (s.ck % 16) then .stop (s.fault gangF)
    else if s.waits (!s.nothingPending) then .stop s.again
    else if fs.any fun f =>
        let h := s.thr f
        h.st != .wfw || h.grole != 0 || (s.core (f / 64)).tenant != s.myTenant || !(s.core (f / 64)).assigned ||
          decide (h.wl < s.me.wl) || decide (h.vl < s.me.vl) then .stop (s.fault gangF)
    else
      let s' := fs.foldl (fun s f => s.updThr f fun h =>
        { h with st := .run, grole := 2, gsize := gangCode n, gangDis := false, leader := some s.cur, forwarded := [] }) s
      .done (s'.updThr s.cur fun h =>
        { h with grole := 1, gsize := gangCode n, gangDis := false, members := fs, gangLeft := [], gangTrap := false })

/-- DISBAND: the gang ends after the bundle; nothing in a thread that is in none (R102). -/
def execDisband (s : State) : Host.Outcome State Fault Refusal :=
  performK s .disband fun s =>
    if s.me.grole = 2 then .stop (s.fault gangF)
    else if s.me.grole = 1 then .done (s.updThr s.cur fun h => { h with gangEnd := true })
    else .done s

/-- The operations of a leader's bundle that its followers execute: DISBAND and DONE are the leader's own (R102, DEDUCED, log entry 22). -/
def forwardable (l : List Instr) : List Instr :=
  l.filter fun i => match i with | .disband | .doneOp => false | _ => true

/-- The cycle for which a refresh holds a bundle that reads a register file (R63). -/
def refreshHolds (c : Nat) (l : List Instr) : Bool :=
  l.any fun i => (sources i).any fun r =>
    match r with
    | .g _ => decide (c % 64 = 63)
    | .v _ => decide (c % 64 = 31)
    | _ => false

/-- FOLLOWER_BUNDLE at thread State.subj: a forwarded bundle that has arrived is issued in a cycle at least eight after the
follower's previous one (R100), the one bundle that its core issues in that cycle (R61); the step then executes it on the follower's
registers. -/
def occFollowerBundle (s : State) : Option State :=
  let t := s.subj
  let h := s.thr t
  let c := s.cycOf (t / 64)
  match h.forwarded with
  | (at', l) :: r =>
    if h.grole = 2 ∧ h.st = .run ∧ h.wait = [] ∧ h.due = [] ∧ at' ≤ c ∧ (h.lastIssue.all fun n => decide (n + 8 ≤ c)) ∧
        refreshHolds c l = false then
      some ((s.updThr t fun h => { h with forwarded := r, due := l, lastIssue := some c }).updCore (t / 64) fun k => { k with issuedAt := some c })
    else none
  | [] => none

def execFollowerBundle (s : State) : Host.Outcome State Fault Refusal := s.happen (occFollowerBundle s)

end Sys2Proof.Machine
end

