-- ==== Sys2Proof/Machine/Atomics.lean ====
section
/-! DEFINITION. Atomic operations, conjunctions, decrements and fences (R92, R104 to R107, R140 to R148): the instructions, the
operations at the unit of R140, the atomic engines' queues, and the answers. -/

namespace Sys2Proof.Machine

open Sys2Proof

/-! ## The instructions -/

namespace State

/-- The scope of a conjunction record (R107). -/
def recordScope (s : State) (p : Place) : Scope :=
  match p with
  | .buf c _ _ => if c = s.ck then .core else .sys
  | .dm _ => .pkg
  | _ => .sys

/-- Send an atomic operation of the executing thread and park it until the response (R145). -/
def atomic (s : State) (what : OpWhat) (md : Mode) (va : Word) (p : Place) (op : AtomicOp) : State :=
  let n := s.nextId
  (s.launch what md [{ va := va, place := p, kind := .atomic op }]).park s.cur (.reply n)

/-- Check and send an atomic (R121, R143). -/
def atomicEff (s : State) (m : Mcw) (va : Word) (n : Nat) (a : Option Nat) (op : AtomicOp) : Eff :=
  match s.checkAccess m.sp va n n .atomic with
  | .ok p _ => .done (s.atomic (.atomic a) (Mode.ofMcw m) va p op)
  | tr => .stop (s.accessFails va tr)

/-- Check and send a conjunction operation: a release at the record's scope unless it only waits (R105, R107). -/
def conjEff (s : State) (m : Mcw) (va : Word) (a : Option Nat) (release : Bool) (op : AtomicOp) : Eff :=
  match s.checkAccess m.sp va 64 64 .atomic with
  | .ok p _ =>
    let sc := s.recordScope p
    .done (s.atomic (.atomic a) { rel := if release then some sc else none, acqSys := !release && decide (sc = .sys) } va p op)
  | tr => .stop (s.accessFails va tr)

end State

def execAmo (op : AOp) (w64 : Bool) (m : Mcw) (a b : GReg) (off : Off16) (c : GReg) (s : State) :
    Host.Outcome State Fault Refusal :=
  performK s (.amo op w64 m a b off c) fun s =>
    s.atomicEff m (s.rdG b + sext16 off) (if w64 then 8 else 4) (some a.toNat) (.amo op w64 (s.rdG c))
def execCas (w64 : Bool) (m : Mcw) (a b : GReg) (off : Off16) (c : GReg) (s : State) :
    Host.Outcome State Fault Refusal :=
  performK s (.cas w64 m a b off c) fun s =>
    s.atomicEff m (s.rdG b + sext16 off) (if w64 then 8 else 4) (some a.toNat) (.cas w64 (s.rdG a) (s.rdG c))
def execAmof (op : FOp) (m : Mcw) (a b : GReg) (off : Off16) (c : GReg) (s : State) :
    Host.Outcome State Fault Refusal :=
  performK s (.amof op m a b off c) fun s =>
    s.atomicEff m (s.rdG b + sext16 off) 4 (some a.toNat) (.amof op ((s.rdG c).setWidth 32))
def execJoin (m : Mcw) (a b : GReg) (off : Off16) (s : State) : Host.Outcome State Fault Refusal :=
  performK s (.join m a b off) fun s => s.conjEff m (s.rdG b + sext16 off) (some a.toNat) true .join
def execLeave (m : Mcw) (a : GReg) (off : Off16) (s : State) : Host.Outcome State Fault Refusal :=
  performK s (.leave m a off) fun s => s.conjEff m (s.rdG a + sext16 off) none true .leave
def execArrive (m : Mcw) (a b : GReg) (off : Off16) (s : State) : Host.Outcome State Fault Refusal :=
  performK s (.arrive m a b off) fun s => s.conjEff m (s.rdG b + sext16 off) (some a.toNat) true (.arrive none)
def execArriveBytes (m : Mcw) (a b : GReg) (off : Off16) (c : GReg) (s : State) : Host.Outcome State Fault Refusal :=
  performK s (.arriveBytes m a b off c) fun s =>
    s.conjEff m (s.rdG b + sext16 off) (some a.toNat) true (.arrive (some ((s.rdG c).setWidth 32)))
def execWaitgen (m : Mcw) (a : GReg) (off : Off16) (b : GReg) (s : State) : Host.Outcome State Fault Refusal :=
  performK s (.waitgen m a off b) fun s =>
    s.conjEff m (s.rdG a + sext16 off) none false (.waitgen ((s.rdG b).setWidth 32))

/-- FENCE: the thread's accesses are acknowledged at the scope and, at .sys, the ingress horizon is reached (R146). -/
def execFence (sc : Scope) (s : State) : Host.Outcome State Fault Refusal :=
  performK s (.fence sc) fun s =>
    if s.waits (decide (s.relaxedOps s.cur ≠ 0) || !s.storesAcked s.cur s.issuePlace sc) then .stop s.again
    else .done (if sc = .sys then s.park s.cur (.horizon none) else s)

/-! ## The operations at the unit (R92, R106, R144) -/

/-- New value and returned value of an AMO on a word of width w (R144). -/
def amoValue (op : AOp) (w64 : Bool) (old b : Nat) : Nat × Word :=
  let w := if w64 then 64 else 32
  let y := b % 2 ^ w
  let signed := match op with | .minS | .maxS => true | _ => false
  let lt := fun (x z : Nat) => decide (valW signed w x < valW signed w z)
  let new := match op with
    | .add => (old + y) % 2 ^ w
    | .and => old &&& y
    | .or => old ||| y
    | .xor => old ^^^ y
    | .minS | .minU => if lt y old then y else old
    | .maxS | .maxU => if lt old y then y else old
    | .swap => y
  (new, if signed then BitVec.ofInt 64 (sx old w) else BitVec.ofNat 64 old)

/-- The new word of an AMOF (R144). -/
def amofValue (op : FOp) (old b : Nat) : Nat :=
  let x := Num.decode Num.f32 old
  let y := Num.decode Num.f32 b
  Num.code Num.f32 (match op with
    | .add => Num.rne (Num.add .rne x y)
    | .min => Num.minV x y
    | .max => Num.maxV x y)

/-- A conjunction record: GEN, MEMBERS, PENDING, BYTES (R104). -/
structure Conj where
  gen : Nat
  members : Nat
  pending : Nat
  bytes : Nat
  deriving DecidableEq, Repr

def Conj.ofBytes (d : List Byte) : Conj :=
  { gen := field d 0 4, members := field d 4 2, pending := field d 6 2, bytes := field d 8 4 }

def Conj.toBytes (c : Conj) : List Byte := leBytes 4 c.gen ++ leBytes 2 c.members ++ leBytes 2 c.pending ++ leBytes 4 c.bytes

/-- The advance of R106 where it is due, and whether it happened. -/
def Conj.settle (c : Conj) : Conj × Bool :=
  if c.pending = 0 ∧ c.bytes = 0 then ({ c with gen := (c.gen + 1) % 2 ^ 32, pending := c.members }, true) else (c, false)

/-- Is a WAITGEN with this target satisfied? -/
def Conj.passes (c : Conj) (target : Word32) : Bool := decide (0 ≤ sx (c.gen + 2 ^ 32 - target.toNat) 32)

/-- A conjunction operation on a record: the new record, whether it advanced, and the answer; none where it fails
(R106). -/
def conjStep (c : Conj) (op : AtomicOp) : Option (Conj × Bool × AtomicAns) :=
  match op with
  | .join =>
    if c.members = 0xFFFF then none
    else
      let fresh := c.pending = c.members
      let c' := { c with members := c.members + 1, pending := if fresh then c.pending + 1 else c.pending }
      some (c', false, .value (BitVec.ofNat 64 (if fresh then c.gen else (c.gen + 1) % 2 ^ 32)))
  | .leave =>
    if c.members = 0 ∨ c.pending = 0 then none
    else
      let (c', adv) := Conj.settle { c with members := c.members - 1, pending := c.pending - 1 }
      some (c', adv, .ok)
  | .arrive bytes =>
    let b : Nat := match bytes with | some w => w.toNat | none => 0
    if c.pending = 0 then none
    else if bytes.isSome ∧ (2 ^ 31 : Int) - 1 < sx c.bytes 32 + b then none
    else
      let (c', adv) := Conj.settle { c with pending := c.pending - 1, bytes := (c.bytes + b) % 2 ^ 32 }
      some (c', adv, .value (BitVec.ofNat 64 c.gen))
  | .copyArrive b =>
    let (c', adv) := Conj.settle { c with bytes := wrap ((c.bytes : Int) - b) 32 }
    some (c', adv, .ok)
  | _ => none

/-- The source die of an access: 8 for the I/O die. -/
def srcDie (core : Nat) : Nat := if core < 4096 then core / 512 else core - 4096

namespace State

/-- A copy's conjunction arrival that would fault is logged on the tenant's supervisor core, which gets a COPY message
(R294). -/
def conjCopyFault (s : State) (tenant : Nat) (src : Loc) (arg : Word) : State :=
  (s.vlogTenant tenant arg 0x09 tenant (locWord src)).notice tenant 0x14 0 src arg 0

/-- The answer to a unit's atomic operation: a failed copy arrival is logged. -/
def copyArrivalFails (s : State) (a : Access) (ans : AtomicAns) : State :=
  match a.kind, ans with
  | .atomic (.copyArrive _), .fail | .atomic (.copyArrive _), .prot | .atomic (.copyArrive _), .bad _ _ =>
    s.conjCopyFault a.tenant { pkg := s.pkg, die := a.core / 512, core := a.core % 512, thread := 0 } a.va
  | _, _ => s

/-- The requester's place, for a packet. -/
def srcOf (s : State) (a : Access) : Loc :=
  match a.thr with
  | some t => s.loc t
  | none => { pkg := s.pkg, die := (srcDie a.core) % 8, core := a.core % 512, thread := 0 }

/-- An operation's accesses are all accepted: the thread it held goes on (R124). -/
def accepted (s : State) (a : Access) : State :=
  if s.issued.any fun b => b.op == a.op && b.thr == a.thr then s
  else match a.thr with
    | some t => s.doneWaiting t (.accept a.op)
    | none => s

/-- A store has its bank acknowledgement: with its operation's last one the decrement follows and the thread that waits goes on
(R124, R125). -/
def acked (s : State) (a : Access) : State :=
  let s := { s with flight := s.flight.filter fun b => b.id != a.id }
  let mine := fun (b : Access) => b.op == a.op && b.thr == a.thr
  if s.issued.any mine || s.flight.any mine then s
  else
    match a.thr with
    | none => s
    | some t =>
      let s := { s with ops := s.ops.filter fun o => o.id != a.op }
      let s := match a.sig with
        | some i => s.decrement a.core a.tenant i (s.loc t) (some (s.homeLoc t)) true
        | none => s
      s.doneWaiting t (.ack a.op)

/-- A store of the copy engine is for a package that has become absent: its operation is to stop there (R293, R396). The offset is that of
the first such store; what lies above it and has been written stays. DEDUCED, log entry 53. -/
def copyStoreStops (s : State) (a : Access) : State :=
  let stopped := fun (o : CopyOp) =>
    let at' := min o.offset (((o.out.find? fun x => x.1 == a.id).map (·.2)).getD o.offset)
    { o with stop := if at' < o.offset ∨ o.stop.isNone then some a.va else o.stop
             offset := at', out := o.out.filter fun x => x.1 != a.id, kept := o.kept.filter fun b => decide (b.ord < at') }
  s.updCore a.core fun c => { c with copy := { c.copy with queues := c.copy.queues.map fun q =>
    (q.1, q.2.map fun o => if o.id = a.op then stopped o else o) } }

/-- Is an access a store of a copy operation? -/
def isCopyStore (s : State) (a : Access) : Bool :=
  a.thr.isNone && (s.core a.core).copy.queues.any fun q => q.2.any fun o => o.id == a.op

/-- An access to an absent package (R305, R396). -/
def toAbsent (s : State) (a : Access) (g : Nat) : State :=
  let s := { s with flight := s.flight.filter fun b => b.id != a.id }
  match a.kind with
  | .store _ | .masked _ =>
    if s.isCopyStore a then s.copyStoreStops a
    else ((s.windowLog a.tenant (BitVec.ofNat 64 g) (s.srcOf a)).accepted a).acked { a with sig := none }
  | .atomic (.decrement _) => s.windowLog a.tenant (BitVec.ofNat 64 g) (s.srcOf a)
  | .atomic _ =>
    (match a.thr with
     | some t =>
       if s.ops.any fun o => o.id == a.op then
         ({ s with ops := s.ops.filter fun o => o.id != a.op } : State).takeFault t (protF a.va)
       else s
     | none => s.copyArrivalFails a .prot)
  | .load _ => { s with replies := FMap.set s.replies a.id ([], none) }

/-- What an atomic operation that no thread waits for has failed at: a copy's arrival is logged, and a thread whose decrement finds a bad
word is treated as having consumed it (R142, R294). -/
def unitFails (s : State) (a : Access) (ans : AtomicAns) : State :=
  match ans, a.asker.bind s.standsAt with
  | .bad p o, some t => s.takeFault t (killF p (wordAt a.va o))
  | _, _ => s.copyArrivalFails a ans

/-- Send the answer to an operation of another package. -/
def answerFar (s : State) (a : Access) (l : Loc) (id : Nat) (ans : AtomicAns) : State :=
  ({ s with flight := s.flight.filter fun b => b.id != a.id } : State).post l.pkg (.atomicAns l id ans 0)

/-- Send an answer back to the package that asked, after the ingress horizon where the operation is an acquire at system scope (R148), or
keep it for the response to the thread. -/
def answer (s : State) (a : Access) (ans : AtomicAns) : State :=
  let keep := fun (h : Option (Option Nat)) =>
    { s with flight := s.flight.map fun b => if b.id = a.id then { b with ans := some ans, held := none, horizon := h } else b }
  match a.back with
  | some (l, id) => if a.acq then keep (some none) else s.answerFar a l id ans
  | none =>
    if a.thr.isNone then (({ s with flight := s.flight.filter fun b => b.id != a.id } : State).unitFails a ans)
    else keep none

/-- Wake the WAITGEN waiters of a record (R106). -/
def wakeWaiters (s : State) (p : Place) (c : Conj) : State :=
  (s.flight.filter fun a => a.place == p && a.held.isSome).foldl (fun s a =>
    match a.kind with
    | .atomic (.waitgen t) => if c.passes t then s.answer a .ok else s
    | _ => s) s

/-- A decremented count (R92): a node becomes ready at the walker of its die, or an invalid decrement is logged. -/
def doDecrement (s : State) (a : Access) (index : Nat) : State :=
  let r := s.readMem a.place 64
  let n := field r 4 4
  if n = 0 then s.vlogTenant a.tenant (BitVec.ofNat 64 index) 0x02 a.tenant (locWord (s.accLoc a))
  else
    let s := s.writeMem (a.place.plus 4) (leBytes 4 (n - 1))
    if n = 1 then
      (s.noteEarly a.tenant index).updDie (field r 0 4 / 2 ^ 25 % 8) fun d => { d with walker := d.walker ++ [{ tenant := a.tenant, index := index, after := [] }] }
    else s

/-- The bytes an atomic operation reads. -/
def atomicBytes (op : AtomicOp) : Nat × Nat :=
  match op with
  | .amo _ w64 _ | .cas w64 _ _ => (0, if w64 then 8 else 4)
  | .amof _ _ => (0, 4)
  | .decrement _ => (4, 4)
  | _ => (0, 12)

/-- Perform an atomic operation at its bank (R106, R142, R144): nothing is written where the word is uncorrectable or
poisoned. now is the cycle at the performing unit. -/
def performAtomic (s : State) (a : Access) (op : AtomicOp) (now : Nat) : State :=
  let (o, n) := atomicBytes op
  match s.badMem (a.place.plus o) n with
  | some (poison, w) => s.answer a (.bad poison (w - placeOff a.place / 8 * 8))
  | none =>
    let old := leNat (s.readMem (a.place.plus o) n)
    match op with
    | .amo aop w64 b =>
      let (new, r) := amoValue aop w64 old b.toNat
      (s.writeMem a.place (leBytes n new)).answer a (.value r)
    | .cas _ e w =>
      let s := if old = e.toNat % 2 ^ (8 * n) then s.writeMem a.place (leBytes n w.toNat) else s
      s.answer a (.value (BitVec.ofNat 64 old))
    | .amof fop b => (s.writeMem a.place (leBytes 4 (amofValue fop old b.toNat))).answer a (.value (BitVec.ofNat 64 old))
    | .decrement index => (s.doDecrement a index).answer a .ok
    | .waitgen t =>
      if (Conj.ofBytes (s.readMem a.place 12)).passes t then s.answer a .ok
      else { s with flight := s.flight.map fun b => if b.id = a.id then { b with held := some (now + 64) } else b }
    | cop =>
      match conjStep (Conj.ofBytes (s.readMem a.place 12)) cop with
      | none => s.answer a .fail
      | some (c, adv, ans) =>
        let s := (s.writeMem a.place c.toBytes).answer a ans
        if adv then s.wakeWaiters a.place c else s

end State

/-! ## The atomic engines (R141) -/

/-- The engine (die * 32 + cluster) that performs an access. -/
def engineOf : Place → Option Nat
  | .dm a => some (a / 2 ^ 45 % 8 * 32 + a % 2 ^ 45 / 4096 % 32)
  | _ => none

/-- The input queue of an engine that an access enters (R141): a core's own queue takes what its threads issue, queue 16 what the die's
units do, a copy engine among them. -/
def engineQueue (e : Nat) (a : Access) : Nat :=
  let d := e / 32
  let sd := srcDie a.core
  if sd = d then
    if a.core < 4096 ∧ a.core % 512 / 16 = e % 32 ∧ (a.thr.isSome ∨ a.asker.isSome) then a.core % 16 else 16
  else if sd = 8 then 20
  else if sd / 4 ≠ d / 4 then 19
  else if sd < d then 17
  else 18

def isAtomicAcc (a : Access) : Option AtomicOp :=
  match a.kind with
  | .atomic op => some op
  | _ => none

namespace State

/-- The head of input queue n of an engine. The rule leaves open in which order the operations of different requesters enter one queue;
here it is the order in which their ports accepted them. DESIGN CHOICE, log entry 103. -/
def queueHead (s : State) (e n : Nat) : Option Access :=
  s.flight.find? fun a => (isAtomicAcc a).isSome && a.ans.isNone && a.held.isNone && engineOf a.place == some e &&
    engineQueue e a == n

/-- The operation an engine takes next: the head of the first queue after the one last served that may be performed. -/
def engineNext (s : State) (e : Nat) : Option (Nat × Access) :=
  let last := FMap.get 20 (s.die (e / 32)).lastQueue (e % 32)
  ((List.range 21).map fun i => (last + 1 + i) % 21).findSome? fun n =>
    (s.queueHead e n).bind fun a => if s.bankReady a then some (n, a) else none

end State

/-- ATOMIC_ENGINE_TAKE at engine State.subj = die * 32 + cluster: one operation is taken and performed, at most one in each cycle. -/
def occAtomicEngineTake (s : State) : Option State :=
  if FMap.find? (s.die (s.subj / 32)).lastTake (s.subj % 32) = some s.now then none
  else
  match s.engineNext s.subj with
  | none => none
  | some (n, a) =>
    match isAtomicAcc a with
    | none => none
    | some op =>
      let d := s.subj / 32
      let s := s.updDie d fun x =>
        { x with lastQueue := FMap.set x.lastQueue (s.subj % 32) n, lastTake := FMap.set x.lastTake (s.subj % 32) s.now }
      some (s.performAtomic a op (s.die d).cyc)

def execAtomicEngineTake (s : State) : Host.Outcome State Fault Refusal := s.happen (occAtomicEngineTake s)

/-- WAITGEN_REPRESENT of the held access State.subj: its wait is presented again 64 cycles after the last time (R107). -/
def occWaitgenRepresent (s : State) : Option State :=
  match s.flight.find? fun a => a.id == s.subj with
  | some a =>
    match a.held, a.kind with
    | some c, .atomic (.waitgen t) =>
      let now := (s.die a.place.die).cyc
      if now < c then none else some (s.performAtomic a (.waitgen t) now)
    | _, _ => none
  | none => none

def execWaitgenRepresent (s : State) : Host.Outcome State Fault Refusal := s.happen (occWaitgenRepresent s)

/-! ## Answers (R8, R106, R145, R404) -/

namespace State

/-- The reply of operation op of thread t is complete: the thread goes on, after the ingress horizon where the operation is
an acquire at system scope (R148). -/
def replied (s : State) (t op : Nat) (acqSys : Bool) : State :=
  let s := if acqSys then s.updThr t fun h => { h with wait := h.wait ++ [.horizon none] } else s
  s.doneWaiting t (.reply op)

/-- An answer reaches the thread that waits for it; one that nothing waits for any more is dropped. -/
def respond (s : State) (a : Access) (t : Nat) (ans : AtomicAns) : State :=
  let op := s.ops.find? fun o => o.id == a.op
  if op.isNone then { s with flight := s.flight.filter fun b => b.id != a.id } else
  let s := { s with flight := s.flight.filter (fun b => b.id != a.id), ops := s.ops.filter fun o => o.id != a.op }
  let acq := (op.map (·.acqSys)).getD false && !a.place.isRemote
  match ans with
  | .value w =>
    let s := match op.map (·.what) with
      | some (.atomic (some r)) => s.deliver true t (.g r) (w.setWidth 4096)
      | _ => s
    s.replied t a.op acq
  | .ok => s.replied t a.op acq
  | .fail => s.takeFault t (conjF a.va)
  | .prot => s.takeFault t (protF a.va)
  | .bad p o => s.takeFault t (killF p (wordAt a.va o))

end State

/-- The answer of another package reaches the access that asked: of an engine (R145), or of a package on the way, whose map holds the
destination absent (R396). -/
def State.farAnswer (s : State) (i : NetItem) (id : Nat) (ans : AtomicAns) : State :=
  let s := { s with net := s.net.filter fun j => j.id != i.id }
  match s.flight.find? fun a => a.id == id with
  | some a =>
    (match a.thr, isAtomicAcc a, a.place, ans with
     | _, none, .remote g, _ | none, some _, .remote g, .prot => s.toAbsent a g
     | some t, _, _, _ => s.respond a t ans
     | none, _, _, _ => ({ s with flight := s.flight.filter fun b => b.id != id } : State).unitFails a ans)
  | none => s

/-- ATOMIC_RESPONSE for access or item State.subj: the answer of an engine reaches its thread; an operation on ULM is performed
by its port in port order, and answered (R140, R142). -/
def occAtomicResponse (s : State) : Option State :=
  match s.flight.find? fun a => a.id == s.subj with
  | none =>
    match s.net.find? fun i => i.id == s.subj with
    | some i =>
      (match i.msg with
       | .atomicAns d id ans _ => if d.pkg = s.pkg then some (s.farAnswer i id ans) else none
       | _ => none)
    | none => none
  | some a =>
    match a.ans, a.thr with
    | some ans, some t => some (s.respond a t ans)
    | none, _ =>
      match a.place, isAtomicAcc a with
      | .buf c _ _, some op =>
        if s.bankReady a && a.held.isNone then
          let s := s.performAtomic a op (s.cycOf c)
          match s.flight.find? (fun b => b.id == a.id), a.thr with
          | some b, some t =>
            match b.ans with
            | some ans => some (s.respond b t ans)
            | none => some s
          | _, _ => some s
        else none
      | _, _ => none
    | _, none => none

def execAtomicResponse (s : State) : Host.Outcome State Fault Refusal := s.happen (occAtomicResponse s)

end Sys2Proof.Machine
end

