-- ==== Sys2Proof/Machine/Integer.lean ====
section
/-! DEFINITION. Integer, logical, shift, bit-field, bit-count, constant and move instructions (R69 to R79). None
accesses memory or parks its thread; each writes its destination at issue, and DIV and REM leave it pending for 24 cycles
(R62, R70). -/

namespace Sys2Proof.Machine

open Sys2Proof

/-! ## Values -/

def addV (t : IntTy) (sat : Bool) (x y : Word) : Word := put (val x t + val y t) t sat
def subV (t : IntTy) (sat : Bool) (x y : Word) : Word := put (val x t - val y t) t sat
def mulV (t : IntTy) (sat : Bool) (x y : Word) : Word := put (val x t * val y t) t sat
def mulhV (t : IntTy) (x y : Word) : Word :=
  ext (wrap (Int.fdiv (val x t * val y t) (2 ^ tyWidth t : Nat)) (tyWidth t)) t
def minV (t : IntTy) (x y : Word) : Word := ext (wrap (min (val x t) (val y t)) (tyWidth t)) t
def maxV (t : IntTy) (x y : Word) : Word := ext (wrap (max (val x t) (val y t)) (tyWidth t)) t
def absV (t : IntTy) (sat : Bool) (x : Word) : Word := put (if val x t < 0 then -(val x t) else val x t) t sat
def negV (t : IntTy) (sat : Bool) (x : Word) : Word := put (-(val x t)) t sat

/-- Quotient truncated toward zero; all ones on division by zero (R70). -/
def divV (t : IntTy) (x y : Word) : Word :=
  if val y t = 0 then ext (2 ^ tyWidth t - 1) t else ext (wrap (Int.tdiv (val x t) (val y t)) (tyWidth t)) t
/-- Remainder with the sign of the dividend; the dividend on division by zero (R70). -/
def remV (t : IntTy) (x y : Word) : Word :=
  if val y t = 0 then ext (wrap (val x t) (tyWidth t)) t else ext (wrap (Int.tmod (val x t) (val y t)) (tyWidth t)) t

/-- Apply a function to each element of packed width n of a word. -/
def mapElems (n : Nat) (f : Nat → Nat) (x : Word) : Word :=
  BitVec.ofNat 64 (joinNat n ((List.range (64 / n)).map fun i => f (elemNat n x.toNat i)))

/-- Combine two words element by element. -/
def zipElems (n : Nat) (f : Nat → Nat → Nat) (x y : Word) : Word :=
  BitVec.ofNat 64 (joinNat n ((List.range (64 / n)).map fun i => f (elemNat n x.toNat i) (elemNat n y.toNat i)))

/-- The shifts of one element of width n by s (R74). -/
def shlE (n x s : Nat) : Nat := x * 2 ^ s % 2 ^ n
def shrE (x s : Nat) : Nat := x / 2 ^ s
def sraE (n x s : Nat) : Nat := wrap (Int.fdiv (sx x n) (2 ^ s : Nat)) n
def rolE (n x s : Nat) : Nat := (x * 2 ^ s + x / 2 ^ (n - s)) % 2 ^ n

/-- Number of zero bits above the most significant set bit (R77). -/
def clzE (n x : Nat) : Nat := if x = 0 then n else n - 1 - Nat.log2 x
/-- Index of the least significant set bit (R77). -/
def ffsE (n x : Nat) : Nat := (firstBelow n fun i => x.testBit i).getD n
/-- Number of set bits (R77). -/
def popE (n x : Nat) : Nat := ((List.range n).filter fun i => x.testBit i).length
/-- Bits reversed (R77). -/
def brevE (n x : Nat) : Nat := joinNat 1 ((List.range n).map fun i => elemNat 1 x (n - 1 - i))
/-- Bytes reversed (R77). -/
def bswapE (n x : Nat) : Nat := joinNat 8 ((List.range (n / 8)).map fun i => elemNat 8 x (n / 8 - 1 - i))

/-- BFX: len bits from pos, zero-extended (R75). -/
def bfxV (x : Word) (pos len : Nat) : Word := BitVec.ofNat 64 (x.toNat / 2 ^ pos % 2 ^ len)
/-- BFI: the low len bits of y inserted at pos (R75). -/
def bfiV (x y : Word) (pos len : Nat) : Word :=
  let m : Word := BitVec.ofNat 64 ((2 ^ len - 1) * 2 ^ pos)
  (x &&& ~~~m) ||| (BitVec.ofNat 64 (y.toNat % 2 ^ len * 2 ^ pos) &&& m)

/-! ## Meanings -/

def execAdd (t : IntTy) (sat : Bool) (a b c : GReg) (s : State) : Host.Outcome State Fault Refusal :=
  perform s (.add t sat a b c) fun s => s.wrG a (addV t sat (s.rdG b) (s.rdG c))
def execSub (t : IntTy) (sat : Bool) (a b c : GReg) (s : State) : Host.Outcome State Fault Refusal :=
  perform s (.sub t sat a b c) fun s => s.wrG a (subV t sat (s.rdG b) (s.rdG c))
def execAddi (a b : GReg) (imm : Word32) (s : State) : Host.Outcome State Fault Refusal :=
  perform s (.addi a b imm) fun s => s.wrG a (s.rdG b + sext32 imm)
def execMul (t : IntTy) (sat : Bool) (a b c : GReg) (s : State) : Host.Outcome State Fault Refusal :=
  perform s (.mul t sat a b c) fun s => s.wrG a (mulV t sat (s.rdG b) (s.rdG c))
def execMulh (t : IntTy) (a b c : GReg) (s : State) : Host.Outcome State Fault Refusal :=
  perform s (.mulh t a b c) fun s => s.wrG a (mulhV t (s.rdG b) (s.rdG c))
def execDiv (t : IntTy) (a b c : GReg) (s : State) : Host.Outcome State Fault Refusal :=
  perform s (.div t a b c) fun s => (s.wrG a (divV t (s.rdG b) (s.rdG c))).pend s.cur (Regs.g a) (s.after 24)
def execRem (t : IntTy) (a b c : GReg) (s : State) : Host.Outcome State Fault Refusal :=
  perform s (.rem t a b c) fun s => (s.wrG a (remV t (s.rdG b) (s.rdG c))).pend s.cur (Regs.g a) (s.after 24)
def execMin (t : IntTy) (a b c : GReg) (s : State) : Host.Outcome State Fault Refusal :=
  perform s (.min t a b c) fun s => s.wrG a (minV t (s.rdG b) (s.rdG c))
def execMax (t : IntTy) (a b c : GReg) (s : State) : Host.Outcome State Fault Refusal :=
  perform s (.max t a b c) fun s => s.wrG a (maxV t (s.rdG b) (s.rdG c))
def execAbs (t : IntTy) (sat : Bool) (a b : GReg) (s : State) : Host.Outcome State Fault Refusal :=
  perform s (.abs t sat a b) fun s => s.wrG a (absV t sat (s.rdG b))
def execNeg (t : IntTy) (sat : Bool) (a b : GReg) (s : State) : Host.Outcome State Fault Refusal :=
  perform s (.neg t sat a b) fun s => s.wrG a (negV t sat (s.rdG b))
def execLea (a b : GReg) (imm : Word32) (s : State) : Host.Outcome State Fault Refusal :=
  perform s (.lea a b imm) fun s => s.wrG a (s.rdG b + sext32 imm)
def execSext (w : Wid) (a b : GReg) (s : State) : Host.Outcome State Fault Refusal :=
  perform s (.sext w a b) fun s => s.wrG a (BitVec.ofInt 64 (sx (s.rdG b).toNat (widBits w)))
def execZext (w : Wid) (a b : GReg) (s : State) : Host.Outcome State Fault Refusal :=
  perform s (.zext w a b) fun s => s.wrG a (BitVec.ofNat 64 ((s.rdG b).toNat % 2 ^ widBits w))
def execAnd (a b c : GReg) (s : State) : Host.Outcome State Fault Refusal :=
  perform s (.and a b c) fun s => s.wrG a (s.rdG b &&& s.rdG c)
def execOr (a b c : GReg) (s : State) : Host.Outcome State Fault Refusal :=
  perform s (.or a b c) fun s => s.wrG a (s.rdG b ||| s.rdG c)
def execXor (a b c : GReg) (s : State) : Host.Outcome State Fault Refusal :=
  perform s (.xor a b c) fun s => s.wrG a (s.rdG b ^^^ s.rdG c)
def execAndn (a b c : GReg) (s : State) : Host.Outcome State Fault Refusal :=
  perform s (.andn a b c) fun s => s.wrG a (s.rdG b &&& ~~~(s.rdG c))
def execOrn (a b c : GReg) (s : State) : Host.Outcome State Fault Refusal :=
  perform s (.orn a b c) fun s => s.wrG a (s.rdG b ||| ~~~(s.rdG c))
def execShl (w : Wid) (a b c : GReg) (s : State) : Host.Outcome State Fault Refusal :=
  perform s (.shl w a b c) fun s =>
    s.wrG a (zipElems (widBits w) (fun x y => shlE (widBits w) x (y % widBits w)) (s.rdG b) (s.rdG c))
def execShr (w : Wid) (a b c : GReg) (s : State) : Host.Outcome State Fault Refusal :=
  perform s (.shr w a b c) fun s =>
    s.wrG a (zipElems (widBits w) (fun x y => shrE x (y % widBits w)) (s.rdG b) (s.rdG c))
def execSra (w : Wid) (a b c : GReg) (s : State) : Host.Outcome State Fault Refusal :=
  perform s (.sra w a b c) fun s =>
    s.wrG a (zipElems (widBits w) (fun x y => sraE (widBits w) x (y % widBits w)) (s.rdG b) (s.rdG c))
def execRol (w : Wid) (a b c : GReg) (s : State) : Host.Outcome State Fault Refusal :=
  perform s (.rol w a b c) fun s =>
    s.wrG a (zipElems (widBits w) (fun x y => rolE (widBits w) x (y % widBits w)) (s.rdG b) (s.rdG c))
/-- An imm32 of n or more faults with ILLEGAL (TAILFIELD) (R74). -/
def execShli (w : Wid) (a b : GReg) (imm : Word32) (s : State) : Host.Outcome State Fault Refusal :=
  perform s (.shli w a b imm) fun s =>
    s.wrG a (mapElems (widBits w) (fun x => shlE (widBits w) x imm.toNat) (s.rdG b))
def execShri (w : Wid) (a b : GReg) (imm : Word32) (s : State) : Host.Outcome State Fault Refusal :=
  perform s (.shri w a b imm) fun s => s.wrG a (mapElems (widBits w) (fun x => shrE x imm.toNat) (s.rdG b))
def execSrai (w : Wid) (a b : GReg) (imm : Word32) (s : State) : Host.Outcome State Fault Refusal :=
  perform s (.srai w a b imm) fun s =>
    s.wrG a (mapElems (widBits w) (fun x => sraE (widBits w) x imm.toNat) (s.rdG b))
/-- A field with POS + LEN above 64 faults with ILLEGAL (TAILFIELD) (R75). -/
def execBfx (a b : GReg) (pos lenM1 : BitVec 6) (s : State) : Host.Outcome State Fault Refusal :=
  perform s (.bfx a b pos lenM1) fun s => s.wrG a (bfxV (s.rdG b) pos.toNat (lenM1.toNat + 1))
def execBfi (a b : GReg) (pos lenM1 : BitVec 6) (s : State) : Host.Outcome State Fault Refusal :=
  perform s (.bfi a b pos lenM1) fun s => s.wrG a (bfiV (s.rdG a) (s.rdG b) pos.toNat (lenM1.toNat + 1))
def execClz (w : Wid) (a b : GReg) (s : State) : Host.Outcome State Fault Refusal :=
  perform s (.clz w a b) fun s => s.wrG a (mapElems (widBits w) (clzE (widBits w)) (s.rdG b))
def execFfs (w : Wid) (a b : GReg) (s : State) : Host.Outcome State Fault Refusal :=
  perform s (.ffs w a b) fun s => s.wrG a (mapElems (widBits w) (ffsE (widBits w)) (s.rdG b))
def execPopc (w : Wid) (a b : GReg) (s : State) : Host.Outcome State Fault Refusal :=
  perform s (.popc w a b) fun s => s.wrG a (mapElems (widBits w) (popE (widBits w)) (s.rdG b))
def execBrev (w : Wid) (a b : GReg) (s : State) : Host.Outcome State Fault Refusal :=
  perform s (.brev w a b) fun s => s.wrG a (mapElems (widBits w) (brevE (widBits w)) (s.rdG b))
def execBswap (w : Wid) (a b : GReg) (s : State) : Host.Outcome State Fault Refusal :=
  perform s (.bswap w a b) fun s => s.wrG a (mapElems (widBits w) (bswapE (widBits w)) (s.rdG b))
def execCmpeq (t : IntTy) (a b c : GReg) (s : State) : Host.Outcome State Fault Refusal :=
  perform s (.cmpeq t a b c) fun s => s.wrG a (boolWord (decide (val (s.rdG b) t = val (s.rdG c) t)))
def execCmpne (t : IntTy) (a b c : GReg) (s : State) : Host.Outcome State Fault Refusal :=
  perform s (.cmpne t a b c) fun s => s.wrG a (boolWord (decide (val (s.rdG b) t ≠ val (s.rdG c) t)))
def execCmplt (t : IntTy) (a b c : GReg) (s : State) : Host.Outcome State Fault Refusal :=
  perform s (.cmplt t a b c) fun s => s.wrG a (boolWord (decide (val (s.rdG b) t < val (s.rdG c) t)))
def execCmple (t : IntTy) (a b c : GReg) (s : State) : Host.Outcome State Fault Refusal :=
  perform s (.cmple t a b c) fun s => s.wrG a (boolWord (decide (val (s.rdG b) t ≤ val (s.rdG c) t)))
def execSel (a b c d : GReg) (s : State) : Host.Outcome State Fault Refusal :=
  perform s (.sel a b c d) fun s => s.wrG a (if s.rdG d ≠ 0 then s.rdG b else s.rdG c)
def execMovi (a : GReg) (imm : Word32) (s : State) : Host.Outcome State Fault Refusal :=
  perform s (.movi a imm) fun s => s.wrG a (sext32 imm)
def execMovhi (a : GReg) (imm : Word32) (s : State) : Host.Outcome State Fault Refusal :=
  perform s (.movhi a imm) fun s => s.wrG a (imm ++ (s.rdG a).setWidth 32)
def execMov (a b : GReg) (s : State) : Host.Outcome State Fault Refusal :=
  perform s (.mov a b) fun s => s.wrG a (s.rdG b)

/-- Write a loop counter of the executing thread. -/
def State.wrLc (s : State) (l : LReg) (w : Word32) : State :=
  s.updThr s.cur fun h => if l = 0 then { h with lc0 := w } else { h with lc1 := w }
/-- Read a loop counter, as at issue. -/
def State.rdLc (s : State) (l : LReg) : Word32 := if l = 0 then s.me.lc0 else s.me.lc1

/-- Only the leader of a gang holds lc0 and lc1 (R100): a follower's write does nothing. -/
def execMovToLc (l : LReg) (b : GReg) (s : State) : Host.Outcome State Fault Refusal :=
  perform s (.movToLc l b) fun s => if s.isFollower then s else s.wrLc l ((s.rdG b).setWidth 32)
/-- A follower, of whose lc0 and lc1 R100 says only that they are not there, reads its thread's own (DESIGN CHOICE, log entry 113). -/
def execMovFromLc (a : GReg) (l : LReg) (s : State) : Host.Outcome State Fault Refusal :=
  perform s (.movFromLc a l) fun s => s.wrG a ((s.rdLc l).setWidth 64)

end Sys2Proof.Machine
end

