-- ==== Sys2Proof/Machine/Vector.lean ====
section
/-! DEFINITION. Vector and special-function instructions (R182 to R197). A destination is pending for the latency of R184;
a floating-point result is checked by the shadow unit (R185, R186); masked lanes keep their values (R183). -/

namespace Sys2Proof.Machine

open Sys2Proof Sys2Proof.Num

/-! ## Elements -/

/-- Width of an integer element. -/
def iwBits : IWid → Nat
  | .b8 => 8
  | .b16 => 16
  | .b32 => 32

/-- Element width b of R182. -/
def eltBits : VElt → Nat
  | .flt f _ => (ofTy f).width
  | .int w _ _ => iwBits w

/-- The float format of an element type. -/
def eltFmt : VElt → Option Fmt
  | .flt f _ => some (ofTy f)
  | .int _ _ _ => none

/-- A function of one element: on values rounded by RND, or on integers by put (R190). -/
def elt1 (e : VElt) (ff : Val → Val) (fi : Int → Int) (x : Nat) : Nat :=
  match e with
  | .flt f md => code (ofTy f) (rnd (ofTy f) md (ff (decode (ofTy f) x)))
  | .int w u sat => putW (!u) (iwBits w) sat (fi (valW (!u) (iwBits w) x))

/-- A function of two elements. -/
def elt2 (e : VElt) (ff : RMode → Val → Val → Val) (fi : Int → Int → Int) (x y : Nat) : Nat :=
  match e with
  | .flt f md => code (ofTy f) (rnd (ofTy f) md (ff md (decode (ofTy f) x) (decode (ofTy f) y)))
  | .int w u sat => putW (!u) (iwBits w) sat (fi (valW (!u) (iwBits w) x) (valW (!u) (iwBits w) y))

/-- A function of three elements. -/
def elt3 (e : VElt) (ff : RMode → Val → Val → Val → Val) (fi : Int → Int → Int → Int) (x y z : Nat) : Nat :=
  match e with
  | .flt f md =>
    code (ofTy f) (rnd (ofTy f) md (ff md (decode (ofTy f) x) (decode (ofTy f) y) (decode (ofTy f) z)))
  | .int w u sat =>
    putW (!u) (iwBits w) sat
      (fi (valW (!u) (iwBits w) x) (valW (!u) (iwBits w) y) (valW (!u) (iwBits w) z))

def addE (e : VElt) : Nat → Nat → Nat := elt2 e (fun md x y => Num.add md x y) (· + ·)
def subE (e : VElt) : Nat → Nat → Nat := elt2 e (fun md x y => Num.add md x (neg y)) (· - ·)
def mulE (e : VElt) : Nat → Nat → Nat := elt2 e (fun _ x y => Num.mul x y) (· * ·)
def minE (e : VElt) : Nat → Nat → Nat := elt2 e (fun _ x y => Num.minV x y) min
def maxE (e : VElt) : Nat → Nat → Nat := elt2 e (fun _ x y => Num.maxV x y) max
/-- z + x * y and z - x * y, rounded once (R189). -/
def fmaE (e : VElt) : Nat → Nat → Nat → Nat :=
  elt3 e (fun md x y z => Num.add md z (Num.mul x y)) (fun x y z => z + x * y)
def fmsE (e : VElt) : Nat → Nat → Nat → Nat :=
  elt3 e (fun md x y z => Num.add md z (neg (Num.mul x y))) (fun x y z => z - x * y)

/-- Apply a function to every element of width b. -/
def map1 (b : Nat) (f : Nat → Nat) (x : VWord) : VWord := ofElems b ((elems b x).map f)
def map2 (b : Nat) (f : Nat → Nat → Nat) (x y : VWord) : VWord := ofElems b (List.zipWith f (elems b x) (elems b y))
def map3 (b : Nat) (f : Nat → Nat → Nat → Nat) (x y z : VWord) : VWord :=
  ofElems b ((List.range (4096 / b)).map fun i => f (elem b x i) (elem b y i) (elem b z i))

/-- A vector given lane by lane. -/
def ofLanes (f : Nat → Nat) : VWord := ofElems 32 ((List.range 128).map f)

/-! ## Writing a result -/

/-- Sign, exponent field and top three mantissa bits of a code (R185). -/
def shadowFields (f : Fmt) (c : Nat) : ShadowRes :=
  { sign := decide (c / 2 ^ (f.p + f.ebits) % 2 = 1), exp := c / 2 ^ f.p % 2 ^ f.ebits, top := c / 2 ^ (f.p - 3) % 8 }

/-- The bound of R185 on the main result's fields and the shadow's. -/
def ShadowRes.diverge (m s : ShadowRes) : Bool :=
  m.sign != s.sign || decide (1 < m.exp - s.exp) || decide (1 < s.exp - m.exp) ||
  (decide (m.exp = s.exp) && (decide (1 < m.top - s.top) || decide (1 < s.top - m.top)))

/-- Does a result diverge from what its shadow unit forms? A unit without a defect forms the fields of the result but for a carry of
rounding, which never diverges (R185). DEDUCED, log entry 10. -/
def diverges (f : Fmt) (unit : Option ShadowRes) (c : Nat) : Bool := unit.any fun u => (shadowFields f c).diverge u

/-- The lowest diverging element of a result with n elements to a lane, of those the mask lets be written (R185, R186). -/
def State.shadowBad (s : State) (f : Fmt) (n : Nat) (m : Mask128) (r : VWord) : Option Nat :=
  s.rd.defects.vector.findSome? fun d =>
    if maskBit m d.1 then
      ((List.range n).map (d.1 * n + ·)).find? fun e => diverges f (some d.2) (elem (32 / n) r e % 2 ^ f.width)
    else none

/-- Write a vector result under a mask; a floating-point result is first checked by the shadow unit. -/
def State.vres (s : State) (f : Option Fmt) (a : VOp) (m : Mask128) (r : VWord) (lat : Nat) : Except FaultRec State :=
  match f.bind fun f => s.shadowBad f (32 / f.width) m r with
  | some e => .error (shadowF e)
  | none => .ok (s.wrV a (blend m r (s.oldV a)) lat)

/-- Two sources. -/
def vec2 (s : State) (i : Instr) (f : Option Fmt) (k : VMask) (a b c : VOp) (lat : Nat) (g : VWord → VWord → VWord) :
    Host.Outcome State Fault Refusal :=
  performE s i fun s => s.vres f a (s.mask k) (g (s.rdV b) (s.rdV c)) lat

/-- One source. -/
def vec1 (s : State) (i : Instr) (f : Option Fmt) (k : VMask) (a b : VOp) (lat : Nat) (g : VWord → VWord) :
    Host.Outcome State Fault Refusal :=
  performE s i fun s => s.vres f a (s.mask k) (g (s.rdV b)) lat

/-! ## Arithmetic (R190) -/

def execVadd (e : VElt) (k : VMask) (a b c : VOp) (s : State) : Host.Outcome State Fault Refusal :=
  vec2 s (.vadd e k a b c) (eltFmt e) k a b c 8 (map2 (eltBits e) (addE e))
def execVsub (e : VElt) (k : VMask) (a b c : VOp) (s : State) : Host.Outcome State Fault Refusal :=
  vec2 s (.vsub e k a b c) (eltFmt e) k a b c 8 (map2 (eltBits e) (subE e))
def execVmul (e : VElt) (k : VMask) (a b c : VOp) (s : State) : Host.Outcome State Fault Refusal :=
  vec2 s (.vmul e k a b c) (eltFmt e) k a b c 8 (map2 (eltBits e) (mulE e))
def execVfma (e : VElt) (k : VMask) (a b c : VOp) (s : State) : Host.Outcome State Fault Refusal :=
  performE s (.vfma e k a b c) fun s =>
    s.vres (eltFmt e) a (s.mask k) (map3 (eltBits e) (fmaE e) (s.rdV b) (s.rdV c) (s.rdV a)) 8
def execVfms (e : VElt) (k : VMask) (a b c : VOp) (s : State) : Host.Outcome State Fault Refusal :=
  performE s (.vfms e k a b c) fun s =>
    s.vres (eltFmt e) a (s.mask k) (map3 (eltBits e) (fmsE e) (s.rdV b) (s.rdV c) (s.rdV a)) 8
def execVmin (e : VElt) (k : VMask) (a b c : VOp) (s : State) : Host.Outcome State Fault Refusal :=
  vec2 s (.vmin e k a b c) (eltFmt e) k a b c 8 (map2 (eltBits e) (minE e))
def execVmax (e : VElt) (k : VMask) (a b c : VOp) (s : State) : Host.Outcome State Fault Refusal :=
  vec2 s (.vmax e k a b c) (eltFmt e) k a b c 8 (map2 (eltBits e) (maxE e))
def execVabs (e : VElt) (k : VMask) (a b : VOp) (s : State) : Host.Outcome State Fault Refusal :=
  vec1 s (.vabs e k a b) (eltFmt e) k a b 8 (map1 (eltBits e) (elt1 e Num.abs fun x => if x < 0 then -x else x))
def execVneg (e : VElt) (k : VMask) (a b : VOp) (s : State) : Host.Outcome State Fault Refusal :=
  vec1 s (.vneg e k a b) (eltFmt e) k a b 8 (map1 (eltBits e) (elt1 e Num.neg fun x => -x))

/-! ## Special functions on FP32 (R191) -/

/-- A function of one FP32 lane. -/
def fp1 (f : Val → Val) (x : Nat) : Nat := code f32 (f (decode f32 x))

def execVdiv (md : RMode) (k : VMask) (a b c : VOp) (s : State) : Host.Outcome State Fault Refusal :=
  vec2 s (.vdiv md k a b c) (some f32) k a b c 32
    (map2 32 fun x y => code f32 (Num.div f32 md (decode f32 x) (decode f32 y)))
def execVsqrt (md : RMode) (k : VMask) (a b : VOp) (s : State) : Host.Outcome State Fault Refusal :=
  vec1 s (.vsqrt md k a b) (some f32) k a b 32 (map1 32 (fp1 (Num.sqrt f32 md)))
def execVrcp (md : RMode) (k : VMask) (a b : VOp) (s : State) : Host.Outcome State Fault Refusal :=
  vec1 s (.vrcp md k a b) (some f32) k a b 24 (map1 32 (fp1 (Num.div f32 md (.fin false 1 0))))
def execVrsq (md : RMode) (k : VMask) (a b : VOp) (s : State) : Host.Outcome State Fault Refusal :=
  vec1 s (.vrsq md k a b) (some f32) k a b 24 (map1 32 (fp1 (Num.rsqrt f32 md)))
def execVexp2 (md : RMode) (k : VMask) (a b : VOp) (s : State) : Host.Outcome State Fault Refusal :=
  vec1 s (.vexp2 md k a b) (some f32) k a b 24 (map1 32 (fp1 (Num.exp2 f32 md)))
def execVlog2 (md : RMode) (k : VMask) (a b : VOp) (s : State) : Host.Outcome State Fault Refusal :=
  vec1 s (.vlog2 md k a b) (some f32) k a b 24 (map1 32 (fp1 (Num.log2 f32 md)))
def execVsin (md : RMode) (k : VMask) (a b : VOp) (s : State) : Host.Outcome State Fault Refusal :=
  vec1 s (.vsin md k a b) (some f32) k a b 24 (map1 32 (fp1 (Num.trig f32 md false)))
def execVcos (md : RMode) (k : VMask) (a b : VOp) (s : State) : Host.Outcome State Fault Refusal :=
  vec1 s (.vcos md k a b) (some f32) k a b 24 (map1 32 (fp1 (Num.trig f32 md true)))

/-! ## Logical operations, shifts, bit counts (R192) -/

def execVand (k : VMask) (a b c : VOp) (s : State) : Host.Outcome State Fault Refusal :=
  vec2 s (.vand k a b c) none k a b c 8 (· &&& ·)
def execVor (k : VMask) (a b c : VOp) (s : State) : Host.Outcome State Fault Refusal :=
  vec2 s (.vor k a b c) none k a b c 8 (· ||| ·)
def execVxor (k : VMask) (a b c : VOp) (s : State) : Host.Outcome State Fault Refusal :=
  vec2 s (.vxor k a b c) none k a b c 8 (· ^^^ ·)
def execVshl (w : IWid) (k : VMask) (a b c : VOp) (s : State) : Host.Outcome State Fault Refusal :=
  vec2 s (.vshl w k a b c) none k a b c 8 (map2 (iwBits w) fun x y => shlE (iwBits w) x (y % iwBits w))
def execVshr (w : IWid) (k : VMask) (a b c : VOp) (s : State) : Host.Outcome State Fault Refusal :=
  vec2 s (.vshr w k a b c) none k a b c 8 (map2 (iwBits w) fun x y => shrE x (y % iwBits w))
def execVsra (w : IWid) (k : VMask) (a b c : VOp) (s : State) : Host.Outcome State Fault Refusal :=
  vec2 s (.vsra w k a b c) none k a b c 8 (map2 (iwBits w) fun x y => sraE (iwBits w) x (y % iwBits w))
def execVclz (w : IWid) (u : Bool) (k : VMask) (a b : VOp) (s : State) : Host.Outcome State Fault Refusal :=
  vec1 s (.vclz w u k a b) none k a b 8 (map1 (iwBits w) (clzE (iwBits w)))
def execVffs (w : IWid) (u : Bool) (k : VMask) (a b : VOp) (s : State) : Host.Outcome State Fault Refusal :=
  vec1 s (.vffs w u k a b) none k a b 8 (map1 (iwBits w) (ffsE (iwBits w)))
def execVpopc (w : IWid) (u : Bool) (k : VMask) (a b : VOp) (s : State) : Host.Outcome State Fault Refusal :=
  vec1 s (.vpopc w u k a b) none k a b 8 (map1 (iwBits w) (popE (iwBits w)))

/-! ## Compare, select, masks (R193 to R195) -/

/-- The relation of VCMP on two lanes. -/
def vcmpLane (c : VCond) (t : VCmpTy) (x y : Nat) : Bool :=
  match t with
  | .f32 =>
    let p := decode f32 x
    let q := decode f32 y
    match c with
    | .eq => Num.eq p q
    | .ne => !Num.eq p q
    | .lt => Num.ltCmp p q
    | .le => Num.ltCmp p q || Num.eq p q
  | .i32 => vcondInt c (valW true 32 x) (valW true 32 y)
  | .n32 => vcondInt c (valW false 32 x) (valW false 32 y)

/-- The mask with bit i as given. -/
def ofBits (f : Nat → Bool) : Mask128 := BitVec.ofNat 128 (joinNat 1 ((List.range 128).map fun i => if f i then 1 else 0))

def execVcmp (c : VCond) (t : VCmpTy) (m : MReg) (a b : VOp) (s : State) : Host.Outcome State Fault Refusal :=
  perform s (.vcmp c t m a b) fun s =>
    s.wrM m (ofBits fun i => vcmpLane c t (elem 32 (s.rdV a) i) (elem 32 (s.rdV b) i)) 8
def execVsel (m : MReg) (a b c : VOp) (s : State) : Host.Outcome State Fault Refusal :=
  perform s (.vsel m a b c) fun s => s.wrV a (blend (s.rdM m) (s.rdV b) (s.rdV c)) 8
def execMand (a b c : MReg) (s : State) : Host.Outcome State Fault Refusal :=
  perform s (.mand a b c) fun s => s.wrM a (s.rdM b &&& s.rdM c) 8
def execMor (a b c : MReg) (s : State) : Host.Outcome State Fault Refusal :=
  perform s (.mor a b c) fun s => s.wrM a (s.rdM b ||| s.rdM c) 8
def execMxor (a b c : MReg) (s : State) : Host.Outcome State Fault Refusal :=
  perform s (.mxor a b c) fun s => s.wrM a (s.rdM b ^^^ s.rdM c) 8
def execMnot (a b : MReg) (s : State) : Host.Outcome State Fault Refusal :=
  perform s (.mnot a b) fun s => s.wrM a (~~~(s.rdM b)) 8
def execMpop (a : GReg) (b : MReg) (s : State) : Host.Outcome State Fault Refusal :=
  perform s (.mpop a b) fun s => s.wrG a (BitVec.ofNat 64 (popE 128 (s.rdM b).toNat))
def execMfirst (a : GReg) (b : MReg) (s : State) : Host.Outcome State Fault Refusal :=
  perform s (.mfirst a b) fun s => s.wrG a (BitVec.ofNat 64 (ffsE 128 (s.rdM b).toNat))

/-! ## Moves and permutations (R196) -/

/-- A lane index from a g register: bits [6:0]. -/
def laneIdx (w : Word) : Nat := w.toNat % 128

def execVmov (k : VMask) (a b : VOp) (s : State) : Host.Outcome State Fault Refusal :=
  vec1 s (.vmov k a b) none k a b 8 id
def execVbcast (k : VMask) (a : VOp) (b : GReg) (s : State) : Host.Outcome State Fault Refusal :=
  performE s (.vbcast k a b) fun s => s.vres none a (s.mask k) (ofLanes fun _ => (s.rdG b).toNat % 2 ^ 32) 8
def execVins (k : VMask) (a : VOp) (b c : GReg) (s : State) : Host.Outcome State Fault Refusal :=
  performE s (.vins k a b c) fun s =>
    let one : Mask128 := BitVec.ofNat 128 (2 ^ laneIdx (s.rdG c))
    s.vres none a (s.mask k &&& one) (ofLanes fun _ => (s.rdG b).toNat % 2 ^ 32) 8
def execVext (a : GReg) (b : VOp) (c : GReg) (s : State) : Host.Outcome State Fault Refusal :=
  perform s (.vext a b c) fun s => s.wrG a ((lane (s.rdV b) (laneIdx (s.rdG c))).setWidth 64)
def execVperm (k : VMask) (a b c : VOp) (s : State) : Host.Outcome State Fault Refusal :=
  vec2 s (.vperm k a b c) none k a b c 8 fun x y =>
    ofLanes fun i => let j := elem 32 y i; if 2 ^ 31 ≤ j then 0 else elem 32 x (j % 128)
def execVrot (k : VMask) (a b : VOp) (c : GReg) (s : State) : Host.Outcome State Fault Refusal :=
  performE s (.vrot k a b c) fun s =>
    s.vres none a (s.mask k) (ofLanes fun i => elem 32 (s.rdV b) ((i + laneIdx (s.rdG c)) % 128)) 8
def execViota (k : VMask) (a : VOp) (s : State) : Host.Outcome State Fault Refusal :=
  performE s (.viota k a) fun s => s.vres none a (s.mask k) (ofLanes fun i => i) 8

/-! ## Reductions and scans (R197) -/

/-- One step of a reduction, with the arithmetic of R190. -/
def redOp : RedOp → VElt → Nat → Nat → Nat
  | .add, e => addE e
  | .min, e => minE e
  | .max, e => maxE e

/-- The identity of a reduction. -/
def redIdent (op : RedOp) (e : VElt) : Nat :=
  match op, e with
  | .add, _ => 0
  | .min, .flt f _ => code (ofTy f) (.inf false)
  | .max, .flt f _ => code (ofTy f) (.inf true)
  | .min, .int w u _ => wrap (hiW (!u) (iwBits w)) (iwBits w)
  | .max, .int w u _ => wrap (loW (!u) (iwBits w)) (iwBits w)

/-- A NaN code becomes the canonical one. -/
def canonNan (e : VElt) (x : Nat) : Nat :=
  match e with
  | .flt f _ => if isNan (decode (ofTy f) x) then (ofTy f).nanCode else x
  | .int _ _ _ => x

def optOp (f : Nat → Nat → Nat) : Option Nat → Option Nat → Option Nat
  | none, y => y
  | x, none => x
  | some x, some y => some (f x y)

/-- The tree of VRED: each level combines element e with element e + s. -/
def redTree (f : Nat → Nat → Nat) : Nat → List (Option Nat) → Option Nat
  | 0, l => l.headD none
  | k + 1, l => redTree f k (List.zipWith (optOp f) (l.take (2 ^ k)) (l.drop (2 ^ k)))

/-- The active elements of a vector, in order. -/
def active (b : Nat) (m : Mask128) (v : VWord) : List (Option Nat) :=
  (List.range (4096 / b)).map fun i => if maskBit m (i * b / 32) then some (elem b v i) else none

def vredV (op : RedOp) (e : VElt) (m : Mask128) (v : VWord) : VWord :=
  let b := eltBits e
  ofElems b [canonNan e ((redTree (redOp op e) (Nat.log2 (4096 / b)) (active b m v)).getD (redIdent op e))]

/-- Inclusive prefixes in ascending order. -/
def scanGo (f : Nat → Nat → Nat) (z : Nat) (c : Nat → Nat) : List (Option Nat) → Option Nat → List Nat
  | [], _ => []
  | x :: r, acc =>
    let acc' := (optOp f acc x).map c
    (acc'.getD z) :: scanGo f z c r acc'

def vscanV (op : RedOp) (e : VElt) (m : Mask128) (v : VWord) : VWord :=
  ofElems (eltBits e) (scanGo (redOp op e) (redIdent op e) (canonNan e) (active (eltBits e) m v) none)

def execVred (op : RedOp) (e : VElt) (k : VMask) (a b : VOp) (s : State) : Host.Outcome State Fault Refusal :=
  performE s (.vred op e k a b) fun s =>
    s.vres (eltFmt e) a (BitVec.allOnes 128) (vredV op e (s.mask k) (s.rdV b)) 16
def execVscan (op : RedOp) (e : VElt) (k : VMask) (a b : VOp) (s : State) : Host.Outcome State Fault Refusal :=
  performE s (.vscan op e k a b) fun s =>
    s.vres (eltFmt e) a (BitVec.allOnes 128) (vscanV op e (s.mask k) (s.rdV b)) 16

end Sys2Proof.Machine
end

