-- ==== Sys2Proof/Machine/Formats.lean ====
section
/-! DEFINITION. Number formats and conversions (R170 to R181): decode, encode, tencode, VCVT, VPACK, VUNPK, VDEC, VENC, and
the decode tables with DTLD and the replacement of a table. -/

namespace Sys2Proof.Machine

open Sys2Proof Sys2Proof.Num

/-! ## Format codes (R172) -/

/-- Element width in bits of a format code. -/
def fmtWidth : Nat → Nat
  | 1 | 4 | 12 | 13 => 4
  | 8 | 9 => 16
  | _ => 8

/-- Is the format code reserved? -/
def fmtReserved (f : BitVec 4) : Bool := decide (14 ≤ f.toNat)

/-- Entry c of a decode table. -/
def tabEntry (t : FMap (BitVec 19)) (c : Nat) : Val := decode e8m10 (FMap.get 0 t c).toNat

/-- decode(c, f) (R170). -/
def decodeFmt (ta tb : FMap (BitVec 19)) (f c : Nat) : Val :=
  match f with
  | 0 => ofInt (sx c 8)
  | 1 => ofInt (sx c 4)
  | 2 => decode e4m3 c
  | 3 => decode e5m2 c
  | 4 => decode e2m1 c
  | 5 => decode e3m2 c
  | 6 => decode e2m3 c
  | 7 => if c % 256 = 255 then .nan else .fin false 1 ((c % 256 : Nat) - 127)
  | 8 => decode f16 c
  | 9 => decode bf16 c
  | 10 => tabEntry ta (c % 256)
  | 12 => tabEntry ta (c % 16)
  | 11 => tabEntry tb (c % 256)
  | _ => tabEntry tb (c % 16)

/-- Encode to a two's complement integer of width w: always saturating (R171). -/
def encInt (w : Nat) (x : Val) : Nat :=
  match x with
  | .nan => 0
  | .inf s => wrap (if s then loW true w else hiW true w) w
  | x => wrap (clampW true w (toIntMode .rne x)) w

/-- Encode to E8M0 (R171). -/
def encE8m0 (sat : Bool) (x : Val) : Nat :=
  let top := if sat then 0xFE else 0xFF
  match x with
  | .nan => 0xFF
  | .inf s => if s then 0xFF else top
  | .fin s m e =>
    if s ∨ m = 0 then 0xFF
    else
      let l := Nat.log2 m
      let k : Int := (l : Int) + e
      let c : Int := k + 127
      let c := if 3 * 2 ^ l < 2 * m then c + 1
        else if 3 * 2 ^ l = 2 * m then (if c % 2 = 0 then c else c + 1)
        else c
      if 254 < c then top else (max c 0).toNat

/-- Encode to a floating-point format (R171). -/
def encFlt (f : Fmt) (sat : Bool) (x : Val) : Nat :=
  match x with
  | .nan => if f.hasNan then f.nanCode else 0
  | x =>
    match rnd f .rne x with
    | .inf s =>
      if sat ∨ (¬f.hasInf ∧ ¬f.hasNan) then code f (.fin s f.maxM f.maxE)
      else if f.hasInf then code f (.inf s)
      else f.nanCode
    | y => code f y

/-- The first entry of a list that no later entry beats. -/
def pick (better : Val → Val → Bool) : List (Nat × Val) → Option (Nat × Val)
  | [] => none
  | x :: r =>
    match pick better r with
    | some y => if better y.2 x.2 then some y else some x
    | none => some x

/-- tencode(x, f, sat) over the first n codes of a table (R173). -/
def tencode (t : FMap (BitVec 19)) (n : Nat) (sat : Bool) (x : Val) : Nat :=
  let all := (List.range n).map fun c => (c, tabEntry t c)
  let fin := all.filter fun e => match e.2 with | .fin _ _ _ => true | _ => false
  let nancode := ((all.find? fun e => isNan e.2).map (·.1)).getD 0
  let infCode (s : Bool) : Option Nat :=
    if sat then none else (all.find? fun e => decide (e.2 = Val.inf s)).map (·.1)
  if isNan x then nancode
  else
    match pick (fun y z => ltCmp z y) fin, pick (fun y z => ltCmp y z) fin with
    | some hi, some lo =>
      if ltCmp hi.2 x then (infCode false).getD hi.1
      else if ltCmp x lo.2 then (infCode true).getD lo.1
      else
        match fin.find? fun e => Num.eq e.2 x with
        | some e => e.1
        | none =>
          match pick (fun y z => ltCmp z y) (fin.filter fun e => ltCmp e.2 x),
              pick (fun y z => ltCmp y z) (fin.filter fun e => ltCmp x e.2) with
          | some a, some b =>
            let da := Num.add .rne x (neg a.2)
            let db := Num.add .rne b.2 (neg x)
            if ltCmp da db then a.1 else if ltCmp db da then b.1 else min a.1 b.1
          | _, _ => nancode
    | _, _ => nancode

/-- encode(x, f, sat) (R171). -/
def encodeFmt (ta tb : FMap (BitVec 19)) (f : Nat) (sat : Bool) (x : Val) : Nat :=
  match f with
  | 0 => encInt 8 x
  | 1 => encInt 4 x
  | 2 => encFlt e4m3 sat x
  | 3 => encFlt e5m2 sat x
  | 4 => encFlt e2m1 sat x
  | 5 => encFlt e3m2 sat x
  | 6 => encFlt e2m3 sat x
  | 7 => encE8m0 sat x
  | 8 => encFlt f16 sat x
  | 9 => encFlt bf16 sat x
  | 10 => tencode ta 256 sat x
  | 12 => tencode ta 16 sat x
  | 11 => tencode tb 256 sat x
  | _ => tencode tb 16 sat x

/-! ## VCVT, VPACK, VUNPK (R178, R179) -/

/-- rint of R178 to 32 bits. -/
def rint (signed : Bool) (md : RMode) (sat : Bool) (x : Val) : Nat :=
  match x with
  | .nan => 0
  | .inf s => if sat then wrap (if s then loW signed 32 else hiW signed 32) 32 else 0
  | x => if sat then wrap (clampW signed 32 (toIntMode md x)) 32 else wrap (toIntMode md x) 32

/-- VCVT on one lane. -/
def cvtLane (op : CvtOp) (x : Nat) : Nat :=
  match op with
  | .f32_i32 => code f32 (rne (ofInt (sx x 32)))
  | .i32_f32 md sat => rint true md sat (decode f32 x)
  | .f32_n32 => code f32 (rne (ofInt (x % 2 ^ 32 : Nat)))
  | .n32_f32 md sat => rint false md sat (decode f32 x)
  | .f16_f32 md => code f16 (rnd f16 md (decode f32 x))
  | .bf16_f32 md => code bf16 (rnd bf16 md (decode f32 x))
  | .f32_f16 => code f32 (decode f16 x)
  | .f32_bf16 => code f32 (decode bf16 x)

/-- The format whose result the shadow unit checks (R185). -/
def cvtFmt : CvtOp → Option Fmt
  | .f32_i32 | .f32_n32 | .f32_f16 | .f32_bf16 => some f32
  | .f16_f32 _ => some f16
  | .bf16_f32 _ => some bf16
  | .i32_f32 _ _ | .n32_f32 _ _ => none

/-- The lowest diverging lane of a result of one element to a lane. -/
def State.shadowLane (s : State) (f : Option Fmt) (m : Mask128) (r : VWord) : Option Nat := f.bind fun f => s.shadowBad f 1 m r

def execVcvt (op : CvtOp) (k : VMask) (a b : VOp) (s : State) : Host.Outcome State Fault Refusal :=
  performE s (.vcvt op k a b) fun s =>
    let r := map1 32 (cvtLane op) (s.rdV b)
    match s.shadowLane (cvtFmt op) (s.mask k) r with
    | some l => .error (shadowF l)
    | none => .ok (s.wrV a (blend (s.mask k) r (s.oldV a)) 8)

/-- The narrowed elements, element e governed by mask bit e mod 128; with a mask, bytes past the last element keep their
values, without one they are 0 (R181). -/
def narrow (b : Nat) (k : VMask) (m : Mask128) (l : List Nat) (old : VWord) : VWord :=
  match k with
  | none => ofElems b l
  | some _ =>
    ofElems b ((List.range (4096 / b)).map fun e =>
      match l[e]? with
      | some x => if maskBit m (e % 128) then x else elem b old e
      | none => elem b old e)

def pkBits : PkW → Nat
  | .w16 => 16
  | .w8 => 8

def execVpack (w : PkW) (k : VMask) (a b c : VOp) (s : State) : Host.Outcome State Fault Refusal :=
  perform s (.vpack w k a b c) fun s =>
    s.wrV a (narrow (pkBits w) k (s.mask k) (elems 32 (s.rdV b) ++ elems 32 (s.rdV c)) (s.oldV a)) 8
def execVunpk (w : PkW) (u : Bool) (k : VMask) (a b : VOp) (s : State) : Host.Outcome State Fault Refusal :=
  perform s (.vunpk w u k a b) fun s =>
    let r := ofLanes fun i => wrap (valW (!u) (pkBits w) (elem (pkBits w) (s.rdV b) i)) 32
    s.wrV a (blend (s.mask k) r (s.oldV a)) 8

/-! ## VDEC, VENC (R180) -/

/-- The format register that .a or .b names, of the executing thread. -/
def State.fmtReg (s : State) : Ab → BitVec 4
  | .a => s.me.fmta
  | .b => s.me.fmtb

def execVdec (f : Ab) (k : VMask) (a b : VOp) (s : State) : Host.Outcome State Fault Refusal :=
  performE s (.vdec f k a b) fun s =>
    let fc := s.fmtReg f
    if fmtReserved fc then .error (illegal subFORMAT)
    else
      let w := fmtWidth fc.toNat
      let r := ofLanes fun i => code f32 (decodeFmt s.rd.tabs.a s.rd.tabs.b fc.toNat (elem w (s.rdV b) i))
      match s.shadowLane (some f32) (s.mask k) r with
      | some l => .error (shadowF l)
      | none => .ok (s.wrV a (blend (s.mask k) r (s.oldV a)) 8)
def execVenc (f : Ab) (sat : Bool) (k : VMask) (a b : VOp) (s : State) : Host.Outcome State Fault Refusal :=
  performE s (.venc f sat k a b) fun s =>
    let fc := s.fmtReg f
    if fmtReserved fc then .error (illegal subFORMAT)
    else
      let l := (elems 32 (s.rdV b)).map fun x => encodeFmt s.rd.tabs.a s.rd.tabs.b fc.toNat sat (decode f32 x)
      .ok (s.wrV a (narrow (fmtWidth fc.toNat) k (s.mask k) l (s.oldV a)) 8)

/-! ## Decode tables (R175, R176) -/

/-- A load among the others, in the order of their issue (R176). -/
def putTabLoad (l : TabLoad) : List TabLoad → List TabLoad
  | [] => [l]
  | x :: r => if l.issued < x.issued then l :: x :: r else x :: putTabLoad l r

/-- DTLD reads its table once every earlier access of the core to ULM is performed, and parks its thread until the table
is replaced; it does not wait for relaxed accesses (DESIGN CHOICE, log entry 126). -/
def execDtld (tab : Ab) (a : GReg) (off : Off16) (s : State) : Host.Outcome State Fault Refusal :=
  performK s (.dtld tab a off) fun s =>
    let ad := s.rdG a + sext16 off
    if ad.toNat % 64 ≠ 0 then .stop (s.fault (alignF ad))
    else if 0x27FFF < ad.toNat + 1023 then .stop (s.fault (protF ad))
    else if s.ulmWaits then .stop s.atPort
    else
      match s.ulmBlock ad.toNat 1024 with
      | (_, some (p, w)) => .stop (s.fault (killF p (BitVec.ofNat 64 w)))
      | (d, none) =>
        let es : FMap (BitVec 19) := (List.range 256).map fun c => (c, BitVec.ofNat 19 (field d (4 * c) 4 / 2 ^ 13))
        let ld : TabLoad :=
          { thread := s.cur % 64, b := decide (tab = .b), entries := es, issued := s.issuePlace, due := s.cycOf s.ck + 256 }
        let (id, s') := s.claim
        .done ((s'.updCore s.ck fun c => { c with tabs := { c.tabs with loading := putTabLoad ld c.tabs.loading } }).park s.cur
          (.unit id))

/-- Has a DTLD to the same table that was issued before a load still to read its table: it waits at the port, or its bundle's other half
has still to answer (R176, R404)? -/
def State.dtldAhead (s : State) (ck : Nat) (l : TabLoad) : Bool :=
  (s.core ck).threads.any fun (h : Nat × Thread) => h.2.issue.any fun i =>
    decide (i.place < l.issued) && (h.2.wait == [.port] || h.2.withheld.isSome) &&
    (h.2.withheld.toList ++ i.ops).any fun x => match x with
      | .dtld t _ _ => decide (t = .b) == l.b && !((s.core ck).tabs.loading.any fun y => y.thread == h.1)
      | _ => false

/-- Does an entry of the matrix queue decode its operand with the tables (R176)? -/
def mxDecodes : MxOp → Bool
  | .mma _ _ _ _ _ _ _ _ _ _ _ | .bld _ _ _ => true
  | _ => false

/-- DECODE_TABLE_REPLACE at core State.subj: the oldest loaded table replaces its predecessor, 256 cycles after it was read, once every MMA,
MMAS and BLD issued before the DTLD has decoded its operands and every DTLD issued before it has replaced its table (R175, R176); the DTLD
retires. -/
def occDecodeTableReplace (s : State) : Option State :=
  let c := s.core s.subj
  match c.tabs.loading with
  | [] => none
  | l :: r =>
    if s.cycOf s.subj < l.due ∨ c.mx.queue.any (fun e => mxDecodes e.op && decide (e.id < l.issued)) ∨ s.dtldAhead s.subj l then none
    else
      let tabs : VecTables := if l.b then { c.tabs with b := l.entries, loading := r } else { c.tabs with a := l.entries, loading := r }
      some ((s.setCore s.subj { c with tabs := tabs }).doneWaiting (s.subj * 64 + l.thread) (.unit l.issued))

def execDecodeTableReplace (s : State) : Host.Outcome State Fault Refusal := s.happen (occDecodeTableReplace s)

end Sys2Proof.Machine
end

