-- ==== Sys2Proof/Machine/Matrix.lean ====
section
/-! DEFINITION. The matrix unit (R198 to R219): MMA and MMAS, BLD, BROT, SWAPT, LDT, MCMD, and the performance of the entries
of the command queue. -/

namespace Sys2Proof.Machine

open Sys2Proof Sys2Proof.Num

/-! ## Scales, intervals, handles (R202 to R204, R221) -/

def sclMode (w : Word32) : Nat := w.toNat / 2 ^ 30
def sclFmt (w : Word32) : Nat := w.toNat / 2 ^ 26 % 16
def sclVal (w : Word32) : Nat := w.toNat % 2 ^ 18

/-- The FORMAT check of a scale word (R203). -/
def sclOk (w : Word32) : Bool :=
  let f := sclFmt w
  let v := sclVal w
  match sclMode w with
  | 0 => true
  | 3 => false
  | m => [2, 3, 7, 8, 9].contains f && decide (w.toNat / 2 ^ 18 % 2 ^ 8 = 0) &&
    (m != 1 || decide (v < if fmtWidth f = 8 then 2 ^ 8 else 2 ^ 16))

/-- The address checks of a vector scale word (R203). -/
def sclAddr (w : Word32) : Option FaultRec :=
  let v := sclVal w
  if sclMode w ≠ 2 then none
  else if v % 64 ≠ 0 then some (alignF (BitVec.ofNat 64 v))
  else if 0x27FC0 < v then some (protF (BitVec.ofNat 64 v))
  else none

def ivLoff (w : Word) : Nat := w.toNat / 2 ^ 48 % 2 ^ 8
def ivKn (w : Word) : Nat := w.toNat / 2 ^ 32 % 2 ^ 9
def ivKlo (w : Word) : Nat := w.toNat % 2 ^ 32

/-- Is the interval operand of MMA as R204 requires? -/
def ivOk (w : Word) : Bool :=
  decide (w.toNat / 2 ^ 56 = 0) && decide (w.toNat / 2 ^ 41 % 2 ^ 7 = 0) && decide (ivKn w ≤ 256) &&
  decide (ivLoff w + ivKn w ≤ 256)

/-- Is the handle well formed (R221)? -/
def handleOk (h : Word) : Bool := decide (h.toNat % 2 ^ 23 = 0)
def handlePkg (h : Word) : Nat := h.toNat / 2 ^ 56
/-- The core that a handle, or an MCMD target word, names. -/
def handleCore (h : Word) : Nat := h.toNat / 2 ^ 53 % 8 * 512 + h.toNat / 2 ^ 44 % 512
def handleSlot (h : Word) : Nat := h.toNat / 2 ^ 39 % 32
def handleGen (h : Word) : BitVec 16 := BitVec.ofNat 16 (h.toNat / 2 ^ 23)

def subLATCH : Nat := 0x11
def subSHAPE : Nat := 0x12
def subSWAPLEN : Nat := 0x13
def subMCMDBLK : Nat := 0x14
def subBADHANDLE : Nat := 0x10

/-- Do two format codes give integer mode (R201)? None where they do not go together or one is reserved. -/
def mxMode (fa fb : BitVec 4) : Option Bool :=
  let isInt := fun (f : BitVec 4) => decide (f.toNat ≤ 1)
  if fmtReserved fa ∨ fmtReserved fb ∨ isInt fa ≠ isInt fb then none else some (isInt fa)

/-- The operands of an MMA or MMAS, from registers or from a command block. -/
structure MmaArgs where
  fmta : BitVec 4
  fmtb : BitVec 4
  scla : Word32
  sclb : Word32
  handle : Word
  interval : Word
  /-- 32 for MMA, 16 or 8 for MMAS -/
  n : Nat
  /-- AB address of A; none for a stream -/
  addr : Option Word
  metaAt : Option Word

/-- Contraction rows of A that the operation takes (R209). -/
def MmaArgs.rows (m : MmaArgs) : Nat := ivKn m.interval * m.n / 32

/-- 512-byte vectors of A that a stream delivers. -/
def MmaArgs.vectors (m : MmaArgs) : Nat := (m.rows * fmtWidth m.fmta.toNat + 127) / 128

/-- Checks 2 to 6 of R209, in order; remaining: the vectors left in the stream, none where it has no end. SCLA is
checked before SCLB (DESIGN CHOICE, log entry 114). -/
def mmaCheck (m : MmaArgs) (remaining : Option Nat) : Except FaultRec Bool :=
  let b := fmtWidth m.fmta.toNat
  match mxMode m.fmta m.fmtb with
  | none => .error (illegal subFORMAT)
  | some intMode =>
    if ¬intMode ∧ ¬(sclOk m.scla ∧ sclOk m.sclb) then .error (illegal subFORMAT)
    else
      match if intMode then none else (sclAddr m.scla).or (sclAddr m.sclb) with
      | some f => .error f
      | none =>
        if !handleOk m.handle then .error (tileF subBADHANDLE m.handle)
        else if !ivOk m.interval then .error (tileF subLATCH m.interval)
        else if m.n ≠ 32 ∧ ivKn m.interval % 32 ≠ 0 then .error (tileF subSHAPE m.interval)
        else
          let src : Option FaultRec := match m.addr with
            | some a =>
              if a.toNat % 64 ≠ 0 then some (alignF a)
              else if 0x30000 < a.toNat + 4 * b * m.rows then some (protF a) else none
            | none => match remaining with
              | some r => if r < m.vectors then some (streamF 0 0) else none
              | none => none
          let md : Option FaultRec := match m.metaAt with
            | some a =>
              if a.toNat % 32 ≠ 0 then some (alignF a)
              else if 0x30000 < a.toNat + 32 * m.rows then some (protF a) else none
            | none => none
          match src.or md with
          | some f => .error f
          | none => .ok intMode

/-- The queue operation of checked operands. -/
def MmaArgs.op (m : MmaArgs) (intMode : Bool) (src : ASource) : MxOp :=
  .mma src m.n (m.metaAt.map (·.toNat)) m.fmta intMode m.scla m.sclb m.handle (ivLoff m.interval) (ivKlo m.interval)
    (ivKn m.interval)

/-- A BLD operand (R213): its fields, or the fault of its checks. -/
def bldCheck (g : Word) (fmtb : BitVec 4) : Except FaultRec (Nat × Nat) :=
  let a := g.toNat % 2 ^ 18
  let n := g.toNat / 2 ^ 32 % 2 ^ 9
  if g.toNat / 2 ^ 18 % 2 ^ 14 ≠ 0 ∨ g.toNat / 2 ^ 41 ≠ 0 ∨ n = 0 ∨ 256 < n then .error (tileF subLATCH g)
  else if fmtReserved fmtb then .error (illegal subFORMAT)
  else if a % 64 ≠ 0 then .error (alignF (BitVec.ofNat 64 a))
  else if 0x40000 < a + 4 * fmtWidth fmtb.toNat * n then .error (protF (BitVec.ofNat 64 a))
  else .ok (a, n)

/-! ## The queue (R199) -/

namespace State

/-- Enter an operation in the command queue of core ck. -/
def mxPush (s : State) (ck : Nat) (e : MxEntry) : State :=
  let s := { s with nextId := max s.nextId (e.id + 1) }
  s.updCore ck fun c => { c with mx := { c.mx with queue := c.mx.queue ++ [e] } }

/-- The place of an entry of the queue or a SWAPT of the executing thread: that of its bundle, or behind what has entered before it. -/
def entryPlace (s : State) : Nat :=
  let x := (s.core s.ck).mx
  if x.queue.any (fun e => decide (s.issuePlace ≤ e.id)) || x.swaps.any (fun w => decide (s.issuePlace ≤ w.id)) then s.nextId
  else s.issuePlace

/-- A queue entry of the executing thread. -/
def mxEntry (s : State) (reg : Nat) (op : MxOp) : MxEntry :=
  { id := s.entryPlace, thr := some (s.cur % 64), tenant := s.myTenant, rcpt := s.loc s.cur, reg := reg, op := op
    tabA := s.rd.tabs.a, tabB := s.rd.tabs.b, bad := none }

/-- Has the queue no room for n more entries? DESIGN CHOICE, log entry 98. -/
def mxFull (s : State) (ck n : Nat) : Bool := decide (16 < (s.core ck).mx.queue.length + n)

/-- Where the executing thread's operation may not enter the queue yet: a bundle that meets a full queue is not issued (R199); one that has
been issued, or that an operation issued earlier keeps from its place, waits. -/
def mxStop (s : State) : Option State :=
  if s.waits (s.mxFull s.ck 1) then some (if s.old then s.atPort else s.unissued)
  else if s.waits (s.ahead s.ck s.issuePlace .matrix) then some s.atPort
  else none

/-- The vector scales that an operand of float mode names: address and length in ULM (R203). -/
def sclBlock (w : Word32) : Option (Nat × Nat) := if sclMode w = 2 then some (sclVal w, 32 * (fmtWidth (sclFmt w) / 8)) else none

/-- The codes of a block of vector scales. -/
def sclCodes (w : Word32) (d : List Byte) : List Nat :=
  let z := fmtWidth (sclFmt w) / 8
  (List.range 32).map fun i => field d (i * z) z

/-- The vector scales of the executing MMA, read at its bundle's place (R27). -/
def readScales (s : State) : List Nat × List Nat × Option (Bool × Word) :=
  let rd := fun (w : Word32) => match sclBlock w with
    | some (a, n) => let b := s.ulmBlock a n; (sclCodes w b.1, b.2.map fun (x : Bool × Nat) => (x.1, BitVec.ofNat 64 x.2))
    | none => ([], none)
  let a := rd s.me.scla
  let b := rd s.me.sclb
  (a.1, b.1, a.2.or b.2)

/-- Does the other half of the executing bundle write to ULM as soon as it executes or is answered? -/
def pairWritesUlm (s : State) : Bool :=
  s.began.any fun i => i.ops.any fun x => match x with
    | .stff .. | .stfe .. => true
    | .amo _ _ m .. | .cas _ m .. | .amof _ m .. | .join m .. | .leave m .. | .arrive m .. | .arriveBytes m .. => m.sp == .ulm
    | _ => false

/-- Does an MMA of the executing bundle read its vector scales at the bundle's place, so that it does not see what the other half writes
(R27)? -/
def scalesNow (s : State) (intMode : Bool) : Bool :=
  s.pairWritesUlm && !intMode && ((sclBlock s.me.scla).isSome || (sclBlock s.me.sclb).isSome)

/-- MMA and MMAS from AB or from a stream: the receipt register is pending, and with a stream the thread is parked until
its vectors are delivered (R209, R210). An operation that meets a full queue is checked before it waits (DESIGN CHOICE, log entry 115). -/
def mmaEff (s : State) (a b d : GReg) (n : Nat) (q : Option Nat) (addr metaAt : Option GReg) : Eff :=
  let m : MmaArgs :=
    { fmta := s.me.fmta, fmtb := s.me.fmtb, scla := s.me.scla, sclb := s.me.sclb, handle := s.rdG b, interval := s.rdG d
      n := n, addr := addr.map s.rdG, metaAt := metaAt.map s.rdG }
  let st := q.bind s.stream
  if q.isSome ∧ st.isNone then .stop (s.fault (streamF 0 0))
  else
    match mmaCheck m (st.bind fun x => x.desc.len.map (· - x.pos)) with
    | .error f => .stop (s.fault f)
    | .ok intMode =>
      match s.mxStop with
      | some s' => .stop s'
      | none =>
        if s.scalesNow intMode && s.ulmWaits then .stop s.atPort
        else
          let src := match q with
            | some q => ASource.stream q m.vectors []
            | none => .ab ((m.addr.map (·.toNat)).getD 0)
          let e := { s.mxEntry a.toNat (m.op intMode src) with scl := if s.scalesNow intMode then some s.readScales else none }
          let s' := (s.mxPush s.ck e).pend s.cur (Regs.g a) none
          match q with
          | some q =>
            if m.vectors = 0 then .done s'
            else
              match s'.mxGive s.ck q 4 with
              | (s', .all _ _) => .done s'
              | (s', .faults t f) => .stop (s'.takeFault t f)
              | (s', .waits) => .done (s'.park s.cur (.unit e.id))
          | none => .done s'

end State

def execMmaStream (a b : GReg) (q : BitVec 2) (d : GReg) (s : State) : Host.Outcome State Fault Refusal :=
  performK s (.mmaStream a b q d) fun s => s.mmaEff a b d 32 (some q.toNat) none none
def execMmaAb (a b c d : GReg) (s : State) : Host.Outcome State Fault Refusal :=
  performK s (.mmaAb a b c d) fun s => s.mmaEff a b d 32 none (some c) none
def execMmasK16Stream (a b : GReg) (q : BitVec 2) (d e : GReg) (s : State) : Host.Outcome State Fault Refusal :=
  performK s (.mmasK16Stream a b q d e) fun s => s.mmaEff a b d 16 (some q.toNat) none (some e)
def execMmasK16Ab (a b c d e : GReg) (s : State) : Host.Outcome State Fault Refusal :=
  performK s (.mmasK16Ab a b c d e) fun s => s.mmaEff a b d 16 none (some c) (some e)
def execMmasK8Stream (a b : GReg) (q : BitVec 2) (d e : GReg) (s : State) : Host.Outcome State Fault Refusal :=
  performK s (.mmasK8Stream a b q d e) fun s => s.mmaEff a b d 8 (some q.toNat) none (some e)
def execMmasK8Ab (a b c d e : GReg) (s : State) : Host.Outcome State Fault Refusal :=
  performK s (.mmasK8Ab a b c d e) fun s => s.mmaEff a b d 8 none (some c) (some e)

def execBld (a : GReg) (s : State) : Host.Outcome State Fault Refusal :=
  performK s (.bld a) fun s =>
    match bldCheck (s.rdG a) s.me.fmtb with
    | .error f => .stop (s.fault f)
    | .ok (ad, n) =>
      match s.mxStop with
      | some s' => .stop s'
      | none => .done (s.mxPush s.ck (s.mxEntry 0 (.bld ad n s.me.fmtb)))

def execBrot (s : State) : Host.Outcome State Fault Refusal :=
  performK s .brot fun s =>
    match s.mxStop with
    | some s' => .stop s'
    | none => .done (s.mxPush s.ck (s.mxEntry 0 (.brot false)))

/-! ## SWAPT, LDT (R215, R216) -/

/-- SWAPT: a length outside R215's range faults with SWAPLEN (DEDUCED, log entry 23), which is tested
after ALIGN and PROT (DESIGN CHOICE, log entry 137). -/
def execSwapt (a b : GReg) (s : State) : Host.Outcome State Fault Refusal :=
  performK s (.swapt a b) fun s =>
    let ad := s.rdG a
    let len := s.rdG b
    if ad.toNat % 64 ≠ 0 then .stop (s.fault (alignF ad))
    else if 0x30000 < ad.toNat + len.toNat then .stop (s.fault (protF ad))
    else if len.toNat % 64 ≠ 0 ∨ len.toNat = 0 ∨ 4096 < len.toNat then .stop (s.fault (tileF subSWAPLEN len))
    else if transposed s.ck = s.ck then .done s
    else
      let id := s.entryPlace
      let s := { s with nextId := max s.nextId (id + 1) }
      .done ((s.updCore s.ck fun c =>
        { c with mx := { c.mx with swaps := c.mx.swaps ++ [{ id := id, thread := s.cur % 64, addr := ad.toNat, len := len.toNat }] } }).park
        s.cur (.unit id))

/-- Element (row, col) of the 32 x 32 block at an AB address. -/
def State.abElem (s : State) (base row col : Nat) : Nat := s.rd.ab.nat (base + 128 * row + 4 * col) 4

/-- LDT does not wait for relaxed accesses (DESIGN CHOICE, log entry 126). -/
def execLdt (a : BitVec 6) (b : GReg) (s : State) : Host.Outcome State Fault Refusal :=
  performK s (.ldt a b) fun s =>
    let ad := s.rdG b
    if ad.toNat % 128 ≠ 0 then .stop (s.fault (alignF ad))
    else if 0x2FFFF < ad.toNat + 4095 then .stop (s.fault (protF ad))
    else if s.waits (!s.portClear s.ck .ab s.issuePlace) then .stop s.atPortHeld
    else
      match s.rd.ab.badIn ad.toNat 4096 with
      | some (p, w) => .stop (s.fault (killF p (BitVec.ofNat 64 w)))
      | none => .done ((List.range 8).foldl (fun s' r =>
          s'.wrVr (a.toNat + r) (ofLanes fun l => s.abElem ad.toNat (l % 32) (4 * r + l / 32)) 16) s)

namespace State

/-- Mark the first SWAPT of core ck: it has met its partner. -/
def setMet (s : State) (ck : Nat) : State :=
  s.updCore ck fun k => { k with mx := { k.mx with swaps := match k.mx.swaps with
    | w :: r => { w with met := true } :: r
    | [] => [] } }

/-- The exchange of the first SWAPTs x and y of cores c and d; a bad word stays bad where it is written. -/
def exchange (s : State) (c d : Nat) (x y : Swap) : State :=
  let mine := (s.core c).ab.read x.addr x.len
  let theirs := (s.core d).ab.read y.addr y.len
  let bx := (s.core c).ab.badOf x.addr x.len
  let by' := (s.core d).ab.badOf y.addr y.len
  let s := (s.writeMem (.buf d .ab y.addr) mine).writeMem (.buf c .ab x.addr) theirs
  let s := s.updCore d fun k => { k with ab := k.ab.putBad y.addr bx, mx := { k.mx with swaps := k.mx.swaps.drop 1 } }
  s.updCore c fun k => { k with ab := k.ab.putBad x.addr by', mx := { k.mx with swaps := k.mx.swaps.drop 1 } }

end State

/-- SWAPT_PAIR_COMPLETE at core State.subj: its first SWAPT and its partner's, of one length, exchange their bytes, once the earlier accesses
of each core to its AB are performed; of different lengths, both fault (R215). Where the other half of a bundle may still fault, that half is
executed first (R404; DEDUCED, log entry 96). -/
def occSwaptPairComplete (s : State) : Option State :=
  let c := s.subj
  let d := transposed c
  match (s.core c).mx.swaps, (s.core d).mx.swaps with
  | x :: _, y :: _ =>
    let tx := c * 64 + x.thread
    let ty := d * 64 + y.thread
    if c = d then none
    else if x.len ≠ y.len then
      some ((s.takeFault tx (tileF subSWAPLEN (BitVec.ofNat 64 x.len))).takeFault ty (tileF subSWAPLEN (BitVec.ofNat 64 y.len)))
    else if (x.hold && !x.met) || (y.hold && !y.met) then
      (let s := (s.setMet c).setMet d
       let s := if x.hold then s.doneWaiting tx (.unit x.id) else s
       some (if y.hold then s.doneWaiting ty (.unit y.id) else s))
    else if x.hold || y.hold || !s.portClear c .ab x.id || !s.portClear d .ab y.id then none
    else some (((s.exchange c d x y).doneWaiting tx (.unit x.id)).doneWaiting ty (.unit y.id))
  | _, _ => none

def execSwaptPairComplete (s : State) : Host.Outcome State Fault Refusal := s.happen (occSwaptPairComplete s)

end Sys2Proof.Machine
end

