-- ==== Sys2Proof/Machine/MatrixQueue.lean ====
section
/-! DEFINITION. What the matrix unit does with its queue (R199, R205 to R207, R211 to R214, R219), the commands of MCMD (R217,
R218), and receipts (R228, R229). -/

namespace Sys2Proof.Machine

open Sys2Proof Sys2Proof.Num

/-! ## One contribution (R205, R206, R211) -/

/-- The E8M10 value of element j of a latch row. -/
def Latch.elem (l : Latch) (row j : Nat) : Val :=
  Num.decode e8m10 (((FMap.get 0 l.rows row) >>> (19 * j)).toNat % 2 ^ 19)

/-- A latch value in integer mode (R201). -/
def latchInt : Val → Int
  | .nan => 0
  | .inf s => if s then -128 else 127
  | x => min (max (toIntMode .rtz x) (-128)) 127

/-- The integer of an exact integer value. -/
def valInt : Val → Int
  | .fin s m e => toIntMode .rtz (.fin s m e)
  | _ => 0

/-- The compressed rows and latch rows of group g: pairs (row of A, row of the latch from LOFF on) for row i of C. n is 32 for
MMA; x i c is the metadata index of compressed row c. -/
def groupTerms (n kn : Nat) (x : Nat → Nat → Nat) (i g : Nat) : List (Nat × Nat) :=
  if n = 32 then ((List.range 32).filter fun r => decide (32 * g + r < kn)).map fun r => (32 * g + r, 32 * g + r)
  else (List.range n).map fun r => (n * g + r, 32 * g + x i (n * g + r))

/-- Element (i, j) of an integer contribution. -/
def contribInt (aval : Nat → Nat → Val) (l : Latch) (loff n kn : Nat) (x : Nat → Nat → Nat) (i j : Nat) : Word32 :=
  BitVec.ofInt 32 (((List.range ((kn + 31) / 32)).flatMap fun g => (groupTerms n kn x i g).map fun t =>
    valInt (aval i t.1) * latchInt (l.elem (loff + t.2) j)).foldl (· + ·) 0)

/-- A value truncated to E8M10, as the drain's shadow unit takes its operands (R207). -/
def truncE8M10 (v : Val) : Val := Num.decode f32 (code f32 v / 2 ^ 13 * 2 ^ 13)

/-- The product and the sum of two values as RNE steps: the result, and that which the shadow unit forms from the truncated operands (R207). -/
def mulStep (a b : Val) : Val × Val := (rne (Num.mul a b), rne (Num.mul (truncE8M10 a) (truncE8M10 b)))
def addStep (a b : Val) : Val × Val := (rne (Num.add .rne a b), rne (Num.add .rne (truncE8M10 a) (truncE8M10 b)))

/-- Element (i, j) of a float contribution, with its RNE steps: the result of each and what the shadow unit forms (R205, R207). The operands of
a group's sum have no more bits than E8M10. -/
def contribFlt (aval : Nat → Nat → Val) (l : Latch) (loff n kn : Nat) (x : Nat → Nat → Nat) (sa sb : Nat → Val)
    (i j : Nat) : Val × List (Val × Val) :=
  let t := (List.range ((kn + 31) / 32)).map fun g =>
    rne (Num.sum .rne ((groupTerms n kn x i g).map fun t => Num.mul (aval i t.1) (l.elem (loff + t.2) j)))
  let s := match t with
    | [] => (Val.fin false 0 0, [])
    | v :: r => r.foldl (fun (s : Val × List (Val × Val)) t => (let v := addStep s.1 t; (v.1, s.2 ++ [v]))) (v, [])
  let sab := mulStep (sa i) (sb j)
  let e := mulStep s.1 sab.1
  (e.1, t.map (fun v => (v, v)) ++ s.2 ++ [sab, e])

/-- Do the RNE steps of element p of a contribution diverge, by what the drain's shadow unit forms or, where the unit has a defect, by what that
makes of it (R185, R207)? DEDUCED, log entry 10. -/
def stepsDiverge (unit : Option ShadowRes) (steps : List (Val × Val)) : Bool :=
  steps.any fun v => diverges f32 (some (shadowFields f32 (code f32 v.2))) (code f32 v.1) || diverges f32 unit (code f32 v.1)

/-- The latch rows that a contribution reads. -/
def rowsRead (loff n kn : Nat) (x : Nat → Nat → Nat) : List Nat :=
  (List.range 32).flatMap fun i => (List.range ((kn + 31) / 32)).flatMap fun g => (groupTerms n kn x i g).map fun t => loff + t.2

/-- Scale i of a scale word (R202, R203); vec reads a code of a vector scale. -/
def scaleAt (w : Word32) (vec : Nat → Nat) (i : Nat) : Val :=
  match sclMode w with
  | 0 => .fin false 1 0
  | 1 => decodeFmt [] [] (sclFmt w) (sclVal w % 2 ^ 16)
  | _ => decodeFmt [] [] (sclFmt w) (vec i)

/-! ## Receipts (R228, R229) -/

/-- A receipt with bits [27:8] zero. -/
def bareReceipt (code : Nat) : Word := BitVec.ofNat 64 code

namespace State

/-- Send a receipt to the place that waits for it. -/
def receipt (s : State) (dst : Loc) (reg : Nat) (w : Word) : State := s.post dst.pkg (.receipt dst reg w)

/-- Send a contribution to the owner that its handle names; an absent package is answered NOSLOT (R212, R396). -/
def contribute (s : State) (c : Contribution) : State :=
  let p := handlePkg c.handle
  if p = s.pkg ∨ s.isPresent p then s.post p (.contribution c) else s.receipt c.src c.reg (bareReceipt 6)

/-- The receipt of a contribution that read a bad word, with the notice to the issuing tenant's supervisor (R219). -/
def poisoned (s : State) (e : MxEntry) (ck : Nat) (poison : Bool) (a : Word) : State :=
  let s := s.receipt e.rcpt e.reg (bareReceipt 9)
  s.post e.rcpt.pkg (.faultMsg e.rcpt.pkg
    { cause := if poison then 0x12#8 else 0x07#8, sub := 0, tenant := e.tenant, killed := false, notice := true, thread := 0xFF#8
      src := s.loc (ck * 64), faddr := a, fpc := 0, fprog := 0 })

/-- The metadata index of compressed row k for row i of C (R210). -/
def mxIndex (s : State) (ck : Nat) (metaAt : Option Nat) (rows : Nat) : Nat → Nat → Nat :=
  let md := match metaAt with
    | some a => (s.core ck).ab.nat a (32 * rows)
    | none => 0
  fun i k => md / 2 ^ (256 * k + 5 * i) % 32

/-- The first bad word that an entry reads: A, metadata, the marked latch rows that it takes, vector scales. The spec does not order
them (DESIGN CHOICE, log entry 109). -/
def mxBad (s : State) (ck : Nat) (e : MxEntry) (src : ASource) (n : Nat) (metaAt : Option Nat) (fmta : BitVec 4)
    (intMode : Bool) (scla sclb : Word32) (loff kn : Nat) : Option (Bool × Word) :=
  let c := s.core ck
  let rows := kn * n / 32
  let word := fun (o : Option (Bool × Nat)) => o.map fun x => (x.1, BitVec.ofNat 64 x.2)
  let scl := fun (w : Word32) =>
    if intMode ∨ sclMode w ≠ 2 ∨ e.scl.isSome then none else word (c.ulm.badIn (sclVal w) (32 * (fmtWidth (sclFmt w) / 8)))
  let a := match src with
    | .ab a => word (c.ab.badIn a (4 * fmtWidth fmta.toNat * rows))
    | .stream _ _ _ => e.bad
  let latch := if c.mx.active.marks = [] then none
    else (let read := rowsRead loff n kn (s.mxIndex ck metaAt rows)
          (List.find? (fun m => read.contains m.1) c.mx.active.marks).map (·.2))
  (a.or (metaAt.bind fun a => word (c.ab.badIn a (32 * rows)))).or (latch.or ((e.scl.bind (·.2.2)).or ((scl scla).or (scl sclb))))

/-- The drain holds a result until the cycle in which it is sent (R212). -/
def mxDrain (s : State) (ck at' : Nat) (m : NetMsg) : State :=
  s.updCore ck fun c => { c with mx := { c.mx with drain := c.mx.drain ++ [(at', m)] } }

/-- The cycles for which an MMA or MMAS occupies the unit (R212). -/
def mxCycles (n kn : Nat) : Nat := (kn * n / 32 + 1) / 2

/-- Perform an MMA or MMAS entry: it occupies the unit, and its contribution goes through the drain, or its receipt is written without
one (R205 to R207, R211, R212, R219). -/
def performMma (s : State) (ck : Nat) (e : MxEntry) (src : ASource) (n : Nat) (metaAt : Option Nat) (fmta : BitVec 4)
    (intMode : Bool) (scla sclb : Word32) (handle : Word) (loff klo kn : Nat) : State :=
  let c := s.core ck
  let rows := kn * n / 32
  let ends := s.cycOf ck + mxCycles n kn
  let s := s.updCore ck fun c => { c with mx := { c.mx with free := ends } }
  match s.mxBad ck e src n metaAt fmta intMode scla sclb loff kn with
  | some (poison, a) => s.poisoned e ck poison a
  | none =>
    let b := fmtWidth fmta.toNat
    let ab := match src with
      | .ab a => c.ab.nat a (4 * b * rows)
      | .stream _ _ got => joinNat 4096 (got.map (·.toNat))
    let aval := fun i k => decodeFmt e.tabA e.tabB fmta.toNat (elemNat b ab (32 * k + i))
    let x := s.mxIndex ck metaAt rows
    let vec := fun (read : Option (List Nat)) (w : Word32) i => match read with
      | some l => (l[i]?).getD 0
      | none => let z := fmtWidth (sclFmt w) / 8; c.ulm.nat (sclVal w + i * z) z
    let idx := List.range 1024
    let flt := fun p => contribFlt aval c.mx.active loff n kn x (scaleAt scla (vec (e.scl.map (·.1)) scla)) (scaleAt sclb (vec (e.scl.map (·.2.1)) sclb)) (p / 32) (p % 32)
    let diverged := !intMode && idx.any fun p => stepsDiverge (FMap.find? c.defects.drain p) (flt p).2
    if diverged then s.mxDrain ck (ends + 16) (.receipt e.rcpt e.reg (bareReceipt 8))
    else
      let vals := if intMode then idx.map fun p => contribInt aval c.mx.active loff n kn x (p / 32) (p % 32)
        else idx.map fun p => BitVec.ofNat 32 (code f32 (flt p).1)
      s.mxDrain ck (ends + 16) (.contribution
        { handle := handle, klo := klo, kn := kn, intMode := intMode, anyMode := false
          nan := !intMode && vals.any fun w => isNan (Num.decode f32 w.toNat)
          tenant := e.tenant, vals := vals, unit := s.loc (ck * 64), src := e.rcpt, reg := e.reg })

/-- What the drain of core ck sends in the present cycle. -/
def drainWork (s : State) (ck : Nat) : Option State :=
  ((s.core ck).mx.drain.find? fun d => decide (d.1 ≤ s.cycOf ck)).map fun d =>
    let s := s.updCore ck fun c => { c with mx := { c.mx with drain := c.mx.drain.erase d } }
    match d.2 with
    | .contribution x => s.contribute x
    | .receipt dst reg w => s.receipt dst reg w
    | _ => s

/-- The latch that BLD loads (R213). -/
def bldLatch (s : State) (ck : Nat) (e : MxEntry) (addr n : Nat) (fmtb : BitVec 4) : Latch :=
  let c := s.core ck
  let b := fmtWidth fmtb.toNat
  { rows := (List.range n).map fun r =>
      let row := c.wb.nat (addr + 4 * b * r) (4 * b)
      (r, BitVec.ofNat 608 (joinNat 19 ((List.range 32).map fun i =>
        code e8m10 (decodeFmt e.tabA e.tabB fmtb.toNat (elemNat b row i)))))
    kind := decide (fmtb.toNat ≤ 1)
    marks := (List.range n).filterMap fun r =>
      (c.wb.badIn (addr + 4 * b * r) (4 * b)).map fun x => (r, (x.1, BitVec.ofNat 64 x.2)) }

/-- Take the head entry out of the queue. -/
def mxPop (s : State) (ck : Nat) : State :=
  s.updCore ck fun c => { c with mx := { c.mx with queue := c.mx.queue.drop 1, moved := none } }

/-- The core that follows core ck on the ring of R214. -/
def ringNext (ck : Nat) : Nat :=
  let p := ck % 16
  let y := p / 4
  ck / 16 * 16 +
  (if y % 2 = 0 then (if p % 4 = 3 then p + 4 else p + 1) else (if p % 4 = 0 then (if p = 12 then 0 else p + 4) else p - 1))

/-- The entries that take hold of the incoming latch. -/
def takesLatch : MxOp → Bool
  | .bld _ _ _ | .brot _ => true
  | _ => false

/-- What the latches of core ck begin in the present cycle: the BLD that is next to take the incoming latch fills it, 128 bytes per cycle,
over what a neighbour has sent (R213); the BROT at the head of the queue sends the active latch, in 32 cycles (R214). -/
def latchWork (s : State) (ck : Nat) : Option State :=
  let x := (s.core ck).mx
  let c := s.cycOf ck
  match x.queue.find? fun e => takesLatch e.op with
  | some e =>
    (match e.op with
     | .bld _ n fmtb =>
       if x.inc ≠ .filling ∧ s.portClear ck .wb e.id then
         some (s.updCore ck fun k => { k with mx := { k.mx with
           incoming := Latch.reset, inc := .filling, filled := c + (4 * fmtWidth fmtb.toNat * n + 127) / 128 } })
       else none
     | _ =>
       if (x.queue.head?.map (·.op)) = some (.brot false) ∧ x.moved = none ∧ x.free ≤ c ∧ (s.core (ringNext ck)).mx.inc = .empty then
         some (s.updCore ck fun k => { k with mx := { k.mx with moved := some (c + 32) } })
       else none)
  | none => none

end State

/-! ## MATRIX_QUEUE_ENTRY, LATCH_ARRIVAL (R199, R213, R214) -/

/-- Has the head entry everything it waits for, the entries before it no longer occupying the unit (R199, R212)? -/
def State.mxReady (s : State) (ck : Nat) : Bool :=
  let x := (s.core ck).mx
  let c := s.cycOf ck
  match x.queue with
  | [] => false
  | e :: _ =>
    let clear := fun sp => !mxTouches e sp || s.portClear ck sp e.id
    decide (x.free ≤ c) && !e.hold &&
    (match e.op with
     | .mma (.stream _ need got) _ _ _ _ _ _ _ _ _ _ => decide (got.length = need) && clear .ab && clear .ulm
     | .mma (.ab _) _ _ _ _ _ _ _ _ _ _ => clear .ab && clear .ulm
     | .bld _ _ _ => decide (x.inc = .filling) && decide (x.filled ≤ c) && clear .wb
     | .brot sent => sent && decide (x.inc = .received)
     | .tcont _ _ _ _ => true)

/-- The incoming latch becomes the active one (R213, R214). -/
def State.activate (s : State) (ck : Nat) (l : Latch) : State :=
  (s.mxPop ck).updCore ck fun c => { c with mx := { c.mx with active := l, inc := .empty, incoming := Latch.reset } }

/-- MATRIX_QUEUE_ENTRY at core State.subj: the head entry is performed. -/
def occMatrixQueueEntry (s : State) : Option State :=
  let ck := s.subj
  match (s.core ck).mx.queue with
  | [] => none
  | e :: _ =>
    if !s.mxReady ck then none
    else
      match e.op with
      | .mma src n metaAt fmta intMode scla sclb handle loff klo kn =>
        some ((s.performMma ck e src n metaAt fmta intMode scla sclb handle loff klo kn).mxPop ck)
      | .bld addr n fmtb => some (s.activate ck (s.bldLatch ck e addr n fmtb))
      | .brot _ => some (s.activate ck (s.core ck).mx.incoming)
      | .tcont handle klo kn vals =>
        some ((s.contribute { handle := handle, klo := klo, kn := kn, intMode := false, anyMode := true
                              nan := vals.any fun w => isNan (Num.decode f32 w.toNat)
                              tenant := e.tenant, vals := vals, unit := s.loc (ck * 64), src := e.rcpt, reg := e.reg }).mxPop ck)

def execMatrixQueueEntry (s : State) : Host.Outcome State Fault Refusal := s.happen (occMatrixQueueEntry s)

/-- The ring of R214: the position that sends to position p. -/
def ringBefore (p : Nat) : Nat :=
  let y := p / 4
  if y % 2 = 0 then (if p % 4 = 0 then (if p = 0 then 12 else p - 4) else p - 1)
  else (if p % 4 = 3 then p - 4 else p + 1)

/-- LATCH_ARRIVAL at core State.subj: the active latch of the previous core of the ring, whose BROT stands at the head of its
queue, is copied into the incoming latch, which is EMPTY, 32 cycles after it began to move (R214). -/
def occLatchArrival (s : State) : Option State :=
  let ck := s.subj
  let p := ck / 16 * 16 + ringBefore (ck % 16)
  match (s.core p).mx.queue with
  | e :: r =>
    match e.op with
    | .brot false =>
      if (s.core ck).mx.inc = .empty ∧ (s.core p).mx.moved.any (fun m => decide (m ≤ s.cycOf p)) then
        let l := (s.core p).mx.active
        let s := s.updCore p fun c => { c with mx := { c.mx with queue := { e with op := .brot true } :: r } }
        some (s.updCore ck fun c => { c with mx := { c.mx with incoming := l, inc := .received } })
      else none
    | _ => none
  | [] => none

def execLatchArrival (s : State) : Host.Outcome State Fault Refusal := s.happen (occLatchArrival s)

/-! ## MCMD (R217, R218) -/

/-- The operands of a command, as MMA from AB takes them. -/
def mcmdArgs (m : MCommand) : MmaArgs :=
  { fmta := m.fmtA, fmtb := m.fmtB, scla := m.scla, sclb := m.sclb, handle := m.handle, interval := m.interval, n := 32
    addr := some m.aaddr, metaAt := none }

/-- The checks of R217 on the fields of a block. -/
def mcmdOk (d : List Byte) (m : MCommand) : Bool :=
  decide (m.kind ≤ 1) && decide (field d 1 1 < 16) && decide (field d 2 1 < 16) && decide (field d 3 1 = 0) &&
  decide (field d 12 4 = 0) && decide (leNat (slice d 48 16) = 0) &&
  (match mmaCheck (mcmdArgs m) none with | .ok _ => true | .error _ => false) &&
  (if m.kind = 0 then decide (m.bload = 0) else match bldCheck m.bload m.fmtB with | .ok _ => true | .error _ => false)

/-- MCMD: the handle gb is tested before the address gc (DESIGN CHOICE, log entry 131). It does not wait for relaxed accesses (DESIGN CHOICE, log
entry 126). -/
def execMcmd (a b c : GReg) (s : State) : Host.Outcome State Fault Refusal :=
  performK s (.mcmd a b c) fun s =>
    let tgt := s.rdG b
    let ad := s.rdG c
    if tgt.toNat % 2 ^ 44 ≠ 0 then .stop (s.fault (tileF subBADHANDLE tgt))
    else if ad.toNat % 64 ≠ 0 then .stop (s.fault (alignF ad))
    else if 0x27FC0 < ad.toNat then .stop (s.fault (protF ad))
    else if s.ulmWaits then .stop s.atPort
    else
      match s.ulmBlock ad.toNat 64 with
      | (_, some (p, w)) => .stop (s.fault (killF p (BitVec.ofNat 64 w)))
      | (d, none) =>
        let w := fun i => BitVec.ofNat 64 (field d i 8)
        let dst := handlePkg tgt
        let m : MCommand :=
          { kind := field d 0 1, fmtA := BitVec.ofNat 4 (field d 1 1), fmtB := BitVec.ofNat 4 (field d 2 1)
            scla := BitVec.ofNat 32 (field d 4 4), sclb := BitVec.ofNat 32 (field d 8 4), handle := w 16, interval := w 24
            aaddr := w 32, bload := w 40, capt := (s.core s.ck).capt, tenant := s.myTenant
            target := { pkg := dst, die := handleCore tgt / 512, core := handleCore tgt % 512, thread := 0 }
            src := s.loc s.cur, reg := a.toNat }
        if !mcmdOk d m then .stop (s.fault (tileF subMCMDBLK ad))
        else
          let s := s.pend s.cur (Regs.g a) none
          .done (if dst = s.pkg ∨ s.isPresent dst then s.post dst (.mcmd m)
            else s.receipt m.src m.reg (bareReceipt 6))

/-- The commands in transit to core ck, oldest first. -/
def State.mcmdsTo (s : State) (ck : Nat) : List (Nat × MCommand) :=
  s.net.filterMap fun i => match i.msg with
    | .mcmd m => if m.target.pkg = s.pkg ∧ locCore m.target = ck then some (i.id, m) else none
    | _ => none

/-- Queue entries that a command becomes. DEDUCED, log entry 44. -/
def mcmdEntries (m : MCommand) : Nat := if m.kind = 1 then 2 else 1

/-- May the first command for core ck be taken: it is refused, or the queue has room (R218)? -/
def State.mcmdAdmits (s : State) (ck : Nat) (m : MCommand) : Bool :=
  match s.holder ck with
  | none => true
  | some (_, capt, away) => decide (capt ≠ m.capt) || away || !s.mxFull ck (mcmdEntries m)

/-- MCMD_ARRIVAL of the item State.subj: refused, or entered in the queue of its target core (R218). Its entries decode with the tables that
the target core holds as they enter: the spec does not say which (DESIGN CHOICE, log entry 110). -/
def occMcmdArrival (s : State) : Option State :=
  match s.net.findSome? fun i => match i.msg with | .mcmd m => if i.id = s.subj then some m else none | _ => none with
  | none => none
  | some m =>
    let ck := locCore m.target
    let c := s.core ck
    if m.target.pkg ≠ s.pkg ∨ (s.mcmdsTo ck).head?.map (·.1) ≠ some s.subj ∨ !s.mcmdAdmits ck m then
      none
    else
      let s := { s with net := s.net.filter fun i => i.id != s.subj }
      let held := s.holder ck
      if held.all fun h => decide (h.2.1 ≠ m.capt) then
        some ((s.vlogAt ck m.handle 0x04 m.tenant (locWord m.src)).receipt m.src m.reg (bareReceipt 5))
      else if held.any (·.2.2) then some (s.receipt m.src m.reg (bareReceipt 10))
      else
        let e := fun (s : State) (op : MxOp) =>
          { id := s.nextId, thr := none, tenant := m.tenant, rcpt := m.src, reg := m.reg, op := op, tabA := c.tabs.a
            tabB := c.tabs.b, bad := none : MxEntry }
        let s := match m.kind, bldCheck m.bload m.fmtB with
          | 1, .ok (a, n) => s.mxPush ck (e s (.bld a n m.fmtB))
          | _, _ => s
        some (s.mxPush ck (e s ((mcmdArgs m).op ((mxMode m.fmtA m.fmtB).getD false) (.ab m.aaddr.toNat))))

def execMcmdArrival (s : State) : Host.Outcome State Fault Refusal := s.happen (occMcmdArrival s)

end Sys2Proof.Machine
end

