-- ==== Sys2Proof/Machine/Tiles.lean ====
section
/-! DEFINITION. Accumulator tiles (R220 to R245): coverage records, accepting and refusing contributions, the additions, the
eight tile instructions and the ACC diagnostic window (R116). -/

namespace Sys2Proof.Machine

open Sys2Proof Sys2Proof.Num

/-! ## Slots and records (R222, R223) -/

def Core.slot (c : Core) (n : Nat) : TileSlot := FMap.get TileSlot.reset c.tiles.slots n

def State.updSlot (s : State) (ck n : Nat) (f : TileSlot → TileSlot) : State :=
  s.updCore ck fun c => { c with tiles := { slots := FMap.set c.tiles.slots n (f (c.slot n)) } }

/-- Coverage is complete (R223). -/
def TileSlot.covered (t : TileSlot) : Bool := decide (t.frags = [(0, t.k)])

/-- Is a handle's generation stale for the slot (R224)? -/
def TileSlot.stale (t : TileSlot) (h : Word) : Bool :=
  t.gen != handleGen h || t.st == .free || t.st == .abandoned

def tileCode : TileState → Nat
  | .free => 0
  | .open => 1
  | .complete => 2
  | .abandoned => 3

/-- The 64 bytes of a coverage record (R222). -/
def TileSlot.record (t : TileSlot) : List Byte :=
  let b := fun (x : Bool) => if x then 1 else 0
  leBytes 4 t.k ++ leBytes 2 t.gen.toNat ++
  leBytes 1 (b t.poison * 128 + b t.nan * 64 + t.frags.length * 8 + b t.int34 * 4 + tileCode t.st) ++ leBytes 1 (b t.govf) ++
  leBytes 2 t.accepted ++ leBytes 2 t.refused ++ leBytes 4 t.tenant ++
  (List.range 6).flatMap fun i => match t.frags[i]? with
    | some (lo, hi) => leBytes 4 lo ++ leBytes 4 hi
    | none => leBytes 8 0

/-- Merge an interval with the fragments it abuts, in LO order (R226). -/
def mergeFrag (lo hi : Nat) : List (Nat × Nat) → List (Nat × Nat)
  | [] => [(lo, hi)]
  | (l, h) :: r =>
    if h = lo then mergeFrag l hi r
    else if hi = l then (lo, h) :: r
    else if hi < l then (lo, hi) :: (l, h) :: r
    else (l, h) :: mergeFrag lo hi r

/-! ## Additions (R226, R230, R231) -/

/-- The 34-bit signed value of an INT34 element. -/
def int34 (d : Word32) (g : BitVec 2) : Int := sx (g.toNat * 2 ^ 32 + d.toNat) 34

/-- One addition to an element: data, guard bits, overflow. -/
def tileAdd (isInt : Bool) (d : Word32) (g : BitVec 2) (v : Word32) : Word32 × BitVec 2 × Bool :=
  if isInt then
    let x := int34 d g + sx v.toNat 32
    let w := wrap x 34
    (BitVec.ofNat 32 w, BitVec.ofNat 2 (w / 2 ^ 32), decide (x < -(2 ^ 33)) || decide ((2 : Int) ^ 33 ≤ x))
  else (BitVec.ofNat 32 (code f32 (rne (Num.add .rne (Num.decode f32 d.toNat) (Num.decode f32 v.toNat)))), g, false)

def TileSlot.elemAt (t : TileSlot) (e : Nat) : Word32 × BitVec 2 := (FMap.get 0 t.data e, FMap.get 0 t.guard e)

/-- An element after the first n of the additions that still land. -/
def TileSlot.elemAfter (t : TileSlot) (n e : Nat) : Word32 × BitVec 2 :=
  (t.landing.take n).foldl (fun x vs =>
    let r := tileAdd t.int34 x.1 x.2 ((vs[e]?).getD 0)
    (r.1, r.2.1)) (t.elemAt e)

/-- An element as a read of a tile whose additions still land shows it: after some of them (R242, DESIGN CHOICE, log entry 18). -/
def State.elemSeen (s : State) (t : TileSlot) (e : Nat) : Word32 × BitVec 2 :=
  t.elemAfter (Config.landed s.freeCount e % (t.landing.length + 1)) e

/-- The slot once the oldest of its landing contributions has been added; it becomes COMPLETE with the last one of a complete
coverage. -/
def TileSlot.land (t : TileSlot) : TileSlot :=
  match t.landing with
  | [] => t
  | vs :: r =>
    let res := (List.range 1024).map fun e =>
      let x := t.elemAt e
      (e, tileAdd t.int34 x.1 x.2 ((vs[e]?).getD 0))
    let t : TileSlot := { t with data := res.filterMap fun x => if x.2.1 = 0 then none else some (x.1, x.2.1)
                                 guard := res.filterMap fun x => if x.2.2.1 = 0 then none else some (x.1, x.2.2.1)
                                 govf := t.govf || res.any (·.2.2.2)
                                 landing := r }
    if t.st = .open ∧ r = [] ∧ t.covered then { t with st := .complete } else t

/-- TILE_ADDITIONS_LAND at slot State.subj = core key * 32 + slot. -/
def occTileAdditionsLand (s : State) : Option State :=
  let ck := s.subj / 32
  let n := s.subj % 32
  if ((s.core ck).slot n).landing = [] then none
  else some (s.updSlot ck n TileSlot.land)

def execTileAdditionsLand (s : State) : Host.Outcome State Fault Refusal := s.happen (occTileAdditionsLand s)

/-! ## Examining a contribution (R225, R226, R228, R229) -/

/-- The code of R225 for a contribution that fails the tests on handle, state and tenant; none where the record decides. -/
def earlyCode (t : TileSlot) (evicted : Bool) (c : Contribution) : Option Nat :=
  if evicted then some 10
  else if handleGen c.handle ≠ t.gen then some 3
  else if t.st = .free ∨ t.st = .abandoned then some 6
  else if c.tenant ≠ t.tenant then some 6
  else none

/-- The code of R225 that the record decides. -/
def lateCode (t : TileSlot) (c : Contribution) : Nat :=
  let hi := c.klo + c.kn
  if t.poison then 9
  else if c.kn = 0 ∨ t.k < hi ∨ (¬c.anyMode ∧ c.intMode ≠ t.int34) then 7
  else if t.frags.any fun f => decide (f.1 < hi) && decide (c.klo < f.2) then 1
  else if t.frags.length = 6 ∧ !t.frags.any fun f => decide (f.2 = c.klo) || decide (f.1 = hi) then 2
  else 0

/-- The record after a contribution with a code that the record decides. -/
def TileSlot.take (t : TileSlot) (c : Contribution) (code : Nat) : TileSlot :=
  if code = 0 then
    { t with frags := mergeFrag c.klo (c.klo + c.kn) t.frags, accepted := min (t.accepted + 1) 0xFFFF
             nan := t.nan || (c.nan && !t.int34), landing := t.landing ++ [c.vals] }
  else { t with refused := min (t.refused + 1) 0xFFFF }

/-- A receipt filled from the record (R228). -/
def fullReceipt (t : TileSlot) (code : Nat) : Word :=
  BitVec.ofNat 64 (t.accepted * 4096 + (if t.covered then 2048 else 0) + t.frags.length * 256 + code)

namespace State

/-- The slot that a contribution names, and whether its tenant is pre-empted. Where the contributor's tenant is saved from this core, the
record is the one saved with it; where the core is assigned to none, that of a tenant saved from it (R225, R244). DEDUCED, log entry
102. -/
def slotNamed (s : State) (c : Contribution) : TileSlot × Bool :=
  let ck := handleCore c.handle
  let n := handleSlot c.handle
  let saved := s.saved.filterMap fun x => (FMap.find? x.cores ck).map fun k => (x.tenant, k.slot n)
  let away := fun (x : Nat × TileSlot) => decide (x.2.tenant = x.1) && (s.tenant x.1).preempted
  let own := if (s.core ck).assigned ∧ (s.core ck).tenant = c.tenant then none else saved.find? fun x => x.1 == c.tenant
  match if (s.core ck).assigned then own else (own.or (saved.find? away)).or saved.head? with
  | some x => (x.2, away x)
  | none => ((s.core ck).slot n, (s.tenant ((s.core ck).slot n).tenant).preempted)

/-- The owner's answer to a contribution (R225, R226). -/
def examine (s : State) (c : Contribution) : State :=
  let ck := handleCore c.handle
  let n := handleSlot c.handle
  let (t, evicted) := s.slotNamed c
  match earlyCode t evicted c with
  | some code =>
    let foreign := code = 6 ∧ t.st ≠ .free ∧ t.st ≠ .abandoned
    let s := if foreign then s.vlogAt ck c.handle 0x05 c.tenant (locWord c.unit) else s
    s.receipt c.src c.reg (bareReceipt code)
  | none =>
    let code := lateCode t c
    let t' := t.take c code
    (s.updSlot ck n fun _ => t').receipt c.src c.reg (fullReceipt t' code)

/-- Contributions for this package that stand in transit before item id, of the same unit of this package and for the same
owner: they are examined first (R243). -/
def contributionBehind (s : State) (id : Nat) (c : Contribution) : Bool :=
  (s.net.takeWhile fun i => i.id != id).any fun i =>
    match i.msg with
    | .contribution d => d.unit == c.unit && c.unit.pkg == s.pkg && handlePkg d.handle == s.pkg &&
        handleCore d.handle == handleCore c.handle
    | _ => false

end State

/-- CONTRIBUTION_EXAMINE of the item State.subj: the owner accepts or refuses it. -/
def occContributionExamine (s : State) : Option State :=
  match s.net.findSome? fun i => match i.msg with | .contribution c => if i.id = s.subj then some c else none | _ => none with
  | none => none
  | some c =>
    if handlePkg c.handle ≠ s.pkg ∨ s.contributionBehind s.subj c then none
    else some (({ s with net := s.net.filter fun i => i.id != s.subj } : State).examine c)

def execContributionExamine (s : State) : Host.Outcome State Fault Refusal := s.happen (occContributionExamine s)

/-! ## The tile instructions (R232 to R242) -/

def subINCOMPLETE : Nat := 0x01
def subNOSLOT : Nat := 0x02
def subSTALE : Nat := 0x03
def subNOTOWNER : Nat := 0x04
def subBADK : Nat := 0x05
def subMODE : Nat := 0x06

namespace State

/-- The handle of a slot of the executing core. -/
def handleOf (s : State) (n : Nat) (gen : BitVec 16) : Word :=
  BitVec.ofNat 64 (s.pkg % 256 * 2 ^ 56 + s.ck / 512 % 8 * 2 ^ 53 + s.ck % 512 * 2 ^ 44 + n * 2 ^ 39 + gen.toNat * 2 ^ 23)

/-- The executing core's slot that a handle names. -/
def slotOf (s : State) (h : Word) : TileSlot := (s.core s.ck).slot (handleSlot h)

/-- Checks 3 to 5 of R233 for an owner form. -/
def ownerCheck (s : State) (h : Word) (checkStale : Bool) : Option FaultRec :=
  if !handleOk h then some (tileF subBADHANDLE h)
  else if handlePkg h ≠ s.pkg ∨ handleCore h ≠ s.ck then some (tileF subNOTOWNER h)
  else if checkStale && (s.slotOf h).stale h then some (tileF subSTALE h)
  else none

/-- Does an owner form that the core issued earlier come first: it waits at the port, a TREAD that has found its tile COMPLETE among them, or
its bundle's other half has still to answer (R122, R243)? -/
def tileHeld (s : State) : Bool := s.waits (s.ahead s.ck s.issuePlace .tiles)

/-- Where the executing owner form stops on its handle, or at its place in the order of the core's owner forms (R233, R243); parks: whether
the form parks its thread. -/
def ownerStop (s : State) (h : Word) (checkStale parks : Bool) : Option State :=
  match s.ownerCheck h false with
  | some f => some (s.fault f)
  | none =>
    if s.tileHeld then some (if parks then s.atPort else s.atPortHeld)
    else (s.ownerCheck h checkStale).map s.fault

/-- The ACC diagnostic address of a slot (R245). -/
def slotAddr (s : State) (h : Word) : Word := BitVec.ofNat 64 (s.windowAddr s.ck (0x300000 + 0x1000 * handleSlot h))

end State

/-- The slot that a TALLOC of the executing thread takes: the one that it has picked, else the lowest that is FREE or ABANDONED. No other owner
form changes a slot while a TALLOC waits for the one that it has picked (R243). -/
def State.pickSlot (s : State) : Option Nat :=
  let own := fun n => let t := (s.core s.ck).slot n; s.old && t.taker == some (s.cur % 64)
  let free := fun n => let t := (s.core s.ck).slot n; t.st == .free || t.st == .abandoned
  (firstBelow 32 own).or (firstBelow 32 free)

/-- TALLOC: the slot is picked at issue; its last additions land first (R234). DEDUCED, log entry 51. -/
def execTalloc (int34 : Bool) (a b : GReg) (s : State) : Host.Outcome State Fault Refusal :=
  performK s (.talloc int34 a b) fun s =>
    let k := s.rdG b
    if k = 0 ∨ k.toNat / 2 ^ 32 ≠ 0 then .stop (s.fault (tileF subBADK k))
    else if s.tileHeld then .stop s.atPort
    else
      match s.pickSlot with
      | none => .stop (s.fault (tileF subNOSLOT 0))
      | some n =>
        let t := (s.core s.ck).slot n
        if s.waits (decide (t.landing ≠ [])) then
          .stop (s.updSlot s.ck n fun t => { t with taker := some (s.cur % 64) }).atPort
        else
          let s' := s.updSlot s.ck n fun t =>
            { TileSlot.reset with k := k.toNat, gen := t.gen, int34 := int34, st := .open, tenant := s.myTenant }
          .done (s'.wrG a (s.handleOf n t.gen))

/-- TCONT: eight vector registers go to the owner through the matrix queue (R235). -/
def execTcont (a b : GReg) (c : BitVec 6) (d : GReg) (s : State) : Host.Outcome State Fault Refusal :=
  performK s (.tcont a b c d) fun s =>
    let h := s.rdG b
    if !handleOk h then .stop (s.fault (tileF subBADHANDLE h))
    else
      let iv := s.rdG d
      let vals := (List.range 1024).map fun e => lane (s.rdVr (c.toNat + e / 128)) (e % 128)
      match s.mxStop with
      | some s' => .stop s'
      | none => .done ((s.mxPush s.ck (s.mxEntry a.toNat (.tcont h (iv.toNat % 2 ^ 32) (iv.toNat / 2 ^ 32) vals))).pend s.cur
        (Regs.g a) none)

/-- The summary word of TSTAT (R236). -/
def TileSlot.summary (t : TileSlot) (h : Word) : Word :=
  let b := fun (x : Bool) => if x then 1 else 0
  BitVec.ofNat 64 (t.gen.toNat * 2 ^ 48 + t.accepted * 2 ^ 32 + t.refused * 2 ^ 16 + b (handleGen h == t.gen) * 512 +
    b t.govf * 256 + b t.poison * 128 + b t.nan * 64 + t.frags.length * 8 + b t.int34 * 4 + tileCode t.st)

def execTstat (a b : GReg) (s : State) : Host.Outcome State Fault Refusal :=
  performK s (.tstat a b) fun s =>
    let h := s.rdG b
    match s.ownerStop h false false with
    | some s' => .stop s'
    | none => .done (s.wrG a ((s.slotOf h).summary h))

/-- Element width in bits of a TREAD format: SUB 0xE is FP32, 0xF is I32 (R237). -/
def treadWidth (f : BitVec 4) : Nat := if 14 ≤ f.toNat then 32 else fmtWidth f.toNat

/-- The code that TREAD writes for an element (R237). -/
def treadElem (ta tb : FMap (BitVec 19)) (fmt : BitVec 4) (sat wrp isInt : Bool) (tscl : Word32) (x : Word32 × BitVec 2) :
    Nat :=
  if isInt then
    let z := int34 x.1 x.2
    wrap (if wrp then z else clampW true 32 z) 32
  else
    let y := rne (Num.mul (Num.decode f32 x.1.toNat) (Num.decode f32 tscl.toNat))
    if fmt = 14 then code f32 y else encodeFmt ta tb fmt.toNat sat y

/-- A TREAD of a POISON slot is checked, and waits, before the kill (R245; DESIGN CHOICE, log entry 117). It does not wait for relaxed
accesses (DESIGN CHOICE, log entry 126). -/
def execTread (fmt : BitVec 4) (sat wrap : Bool) (a : GReg) (off : Off16) (b : GReg) (s : State) :
    Host.Outcome State Fault Refusal :=
  performK s (.tread fmt sat wrap a off b) fun s =>
    let ad := s.rdG a + sext16 off
    let w := treadWidth fmt
    let h := s.rdG b
    if ad.toNat % 64 ≠ 0 then .stop (s.fault (alignF ad))
    else if 0x30000 < ad.toNat + 128 * w then .stop (s.fault (protF ad))
    else
      match s.ownerStop h true true with
      | some s' => .stop s'
      | none =>
        let t := s.slotOf h
        if t.int34 ≠ decide (fmt = 15) then .stop (s.fault (tileF subMODE h))
        else if !t.covered then .stop (s.fault (tileF subINCOMPLETE h))
        else if s.waits (decide (t.st ≠ .complete)) then .stop s.atPort
        else if t.poison then .stop (s.fault (killF false (s.slotAddr h)))
        else if s.waits (!s.portClear s.ck .ab s.issuePlace) then .stop s.atPort
        else
          let es := (List.range 1024).map fun e =>
            treadElem s.rd.tabs.a s.rd.tabs.b fmt sat wrap t.int34 s.me.tscl (t.elemAt e)
          .done (s.writeMem (.buf s.ck .ab ad.toNat) (leBytes (128 * w) (joinNat w es)))

def execTwait (a : GReg) (s : State) : Host.Outcome State Fault Refusal :=
  performK s (.twait a) fun s =>
    let h := s.rdG a
    match s.ownerStop h true true with
    | some s' => .stop s'
    | none => if s.waits (decide ((s.slotOf h).st ≠ .complete)) then .stop s.again else .done s

/-- End a tile: its generation moves on (R240, R241). -/
def State.endTile (s : State) (h : Word) (st : TileState) : State :=
  s.updSlot s.ck (handleSlot h) fun t => { t with st := st, gen := t.gen + 1 }

def execTaban (a : GReg) (s : State) : Host.Outcome State Fault Refusal :=
  performK s (.taban a) fun s =>
    let h := s.rdG a
    match s.ownerStop h true false with
    | some s' => .stop s'
    | none => .done (s.endTile h .abandoned)
def execTfree (a : GReg) (s : State) : Host.Outcome State Fault Refusal :=
  performK s (.tfree a) fun s =>
    let h := s.rdG a
    match s.ownerStop h true false with
    | some s' => .stop s'
    | none =>
      if (s.slotOf h).st ≠ .complete then .stop (s.fault (tileF subINCOMPLETE h))
      else .done (s.endTile h .free)

/-- TPEEK reads at its issue, the first of the moments that R242 allows (DESIGN CHOICE, log entry 116). -/
def execTpeek (a : BitVec 6) (b : GReg) (s : State) : Host.Outcome State Fault Refusal :=
  performK s (.tpeek a b) fun s =>
    let h := s.rdG b
    match s.ownerStop h true false with
    | some s' => .stop s'
    | none =>
      let t := s.slotOf h
      if t.poison then .stop (s.fault (killF false (s.slotAddr h)))
      else
        let s' := { s with freeCount := s.freeCount + 1 }
        .done ((List.range 8).foldl (fun s' r =>
          s'.wrVr (a.toNat + r) (ofLanes fun l => (s.elemSeen t (128 * r + l)).1.toNat) 40) s')

/-! ## The ACC diagnostic window (R116) -/

/-- n bytes of the window of core ck from offset off; an element of a slot whose additions still land as R242 states. -/
def State.readAcc (s : State) (ck off n : Nat) : List Byte :=
  let c := s.core ck
  let at' := fun (l : List Byte) (i : Nat) => (l[i]?).getD 0
  (List.range n).map fun i =>
    let o := off + i
    if o < 0x20000 then at' (leBytes 4 (s.elemSeen (c.slot (o / 4096)) (o % 4096 / 4)).1.toNat) (o % 4)
    else if o < 0x22000 then
      let g := fun k => (s.elemSeen (c.slot ((o - 0x20000) / 256)) (o % 256 * 4 + k)).2.toNat
      BitVec.ofNat 8 (g 0 + 4 * g 1 + 16 * g 2 + 64 * g 3)
    else if o < 0x22800 then at' (c.slot ((o - 0x22000) / 64)).record (o % 64)
    else 0

end Sys2Proof.Machine
end

