-- ==== Sys2Proof/Machine/Means.lean ====
section
/-! DEFINITION. The mean unit (R246 to R264, R402): shapes, table pairs, folding, merging and finishing triples. -/

namespace Sys2Proof.Machine

open Sys2Proof Sys2Proof.Num

/-! ## Shapes (R247, R248) -/

/-- The shape of QSP once valid. -/
inductive Shape where
  | power (p : Int)
  | geometric
  | maximum
  | table (t : MeanPair)

/-- The shape that a QSP value names; a table kind takes its pair from the second argument. -/
def shapeOfQsp (q : BitVec 16) (pair : Nat → Option MeanPair) : Option Shape :=
  let kind := q.toNat / 4096
  let p := sx q.toNat 12
  if kind = 0 then (if -16 ≤ p ∧ p ≤ 1024 ∧ p ≠ 0 then some (.power p) else none)
  else if p ≠ 0 then none
  else if kind = 1 then some .geometric
  else if kind = 2 then some .maximum
  else if 4 ≤ kind ∧ kind ≤ 7 then (pair (kind - 4)).map .table
  else none

/-- Is an imm16 valid for QSHAPE: as QSP, with the named pair taken as loaded (R262)? -/
def qshapeOk (q : BitVec 16) : Bool :=
  let kind := q.toNat / 4096
  (shapeOfQsp q fun _ => none).isSome || (decide (4 ≤ kind) && decide (kind ≤ 7) && decide (q.toNat % 4096 = 0))

/-- Table pair n of a core. -/
def Core.meanPair (c : Core) (n : Nat) : Option MeanPair := FMap.get none c.means.pairs n

/-- The shape in force for the executing thread (R248). -/
def State.shape (s : State) : Option Shape := shapeOfQsp s.me.qsp s.rd.meanPair

/-! ## The steps of a lane (R256 to R261) -/

def dec (c : Nat) : Val := Num.decode f32 c
def enc (v : Val) : Nat := code f32 v

/-- The computation of a lane: none is a domain error; the list holds the FP32 codes that the shadow unit checks, those of the RNE steps
that it takes and those written to T, s or the result (R261). -/
abbrev Run := OptionT (StateM (List Nat))

/-- What comes of a lane's computation: its value, or a domain error, and what the shadow unit checks. -/
def runLane {α : Type} (f : Run α) : Option α × List Nat := f.run.run []

/-- A value that the shadow unit checks by its code. -/
def checked {α : Type} (c : Nat) (v : α) : Run α := OptionT.mk fun l => (some v, l ++ [c])

/-- An RNE step. -/
def rneStep (v : Val) : Run Val := checked (enc v) v

/-- A value written as it stands. -/
def written (c : Nat) : Run Nat := checked c c

/-- A domain error. -/
def domErr {α : Type} : Run α := OptionT.mk fun l => (none, l)

/-- A step that may be a domain error. -/
def rneStep? : Option Val → Run Val
  | some v => rneStep v
  | none => domErr

def addS (a b : Val) : Run Val := rneStep (rne (Num.add .rne a b))
def subS (a b : Val) : Run Val := rneStep (rne (Num.add .rne a (neg b)))
def mulS (a b : Val) : Run Val := rneStep (rne (Num.mul a b))
def divS (a b : Val) : Run Val := rneStep (Num.div f32 .rne a b)

/-! ## Interpolation (R251) -/

/-- floor of a non-negative value, at most 255. -/
def floor255 : Val → Nat
  | .fin _ m e => min (Num.shl m e) 255
  | _ => 255

def fdec (w : Word32) : Val := Num.decode f32 w.toNat

/-- interp of R251. -/
def interp (pts : List Word32) (lo hi : Word32) (x : Val) : Run Val :=
  if isNan x || ltCmp x (fdec lo) || ltCmp (fdec hi) x then domErr
  else do
    let u ← subS x (fdec lo)
    let w ← subS (fdec hi) (fdec lo)
    let m ← mulS u (ofInt 256)
    let t ← divS m w
    let i := floor255 t
    let fr ← subS t (ofInt i)
    let pt := fun k => fdec ((pts[k]?).getD 0)
    let d ← subS (pt (i + 1)) (pt i)
    let p ← mulS fr d
    addS (pt i) p

def entryF (t : MeanPair) : Val → Run Val := interp t.f t.elo t.ehi
def exitG (t : MeanPair) : Val → Run Val := interp t.g t.xlo t.xhi

/-- rel(a, b) of R256. -/
def rel (t : MeanPair) (a b : Val) : Run Val :=
  match t.rescale with
  | .add => subS a b
  | _ => divS a b

/-! ## One lane (R256 to R260) -/

/-- Lane i of a triple: T and s as FP32 codes, n as a signed integer. -/
structure Trip where
  t : Nat
  n : Int
  s : Nat
  deriving DecidableEq, Repr

def Trip.empty : Trip := { t := 0, n := 0, s := 0 }

def oneV : Val := .fin false 1 0

/-- pow(r, p) for p = P/16, rounded; a negative base is a domain error. -/
def powP (p : Int) (r : Val) : Run Val := rneStep? (Num.pow p.natAbs 16 (decide (p < 0)) r)

/-- F(rel(a, b)). -/
def relF (t : MeanPair) (a b : Val) : Run Val := do entryF t (← rel t a b)

/-- dom(x, s) of R256. -/
def dom (p : Int) (x s : Val) : Bool := if 0 < p then ltCmp s x else ltCmp x s

/-- QACC on one lane (R256, R257). -/
def foldLane (sh : Shape) (a : Trip) (xc : Nat) : Run Trip :=
  let x := dec xc
  let t := dec a.t
  let s := dec a.s
  let n := a.n + 1
  let isPos := ltCmp (.fin false 0 0) x
  if isNan x || decide (a.n = 2 ^ 31 - 1) then domErr
  else
    match sh with
    | .power p =>
      if (decide (p < 0) && !isPos) || (decide (0 < p) && ltCmp x (.fin false 0 0)) then domErr
      else if a.n = 0 then return { t := ← written (enc oneV), n := n, s := ← written xc }
      else if Num.eq x s then return { a with t := enc (← addS t oneV), n := n }
      else if dom p x s then do
        let f ← powP p (← divS s x)
        return { t := enc (← addS (← mulS t f) oneV), n := n, s := ← written xc }
      else do
        let f ← powP p (← divS x s)
        return { a with t := enc (← addS t f), n := n }
    | .geometric =>
      if !isPos then domErr
      else do
        let l ← rneStep (Num.log2 f32 .rne x)
        if a.n = 0 then return { t := enc l, n := n, s := ← written xc }
        else return { t := enc (← addS t l), n := n, s := ← written (enc (Num.maxV s x)) }
    | .maximum => return { a with n := n, s := ← written (if a.n = 0 then xc else enc (Num.maxV s x)) }
    | .table tb =>
      match tb.rescale with
      | .none => do
        let f ← entryF tb x
        let t' ← if a.n = 0 then pure f else addS t f
        match t' with
        | .inf _ => domErr
        | _ => return { a with t := enc t', n := n }
      | r =>
        if (match r with | .mult => !isPos | _ => false) then domErr
        else if a.n = 0 then do
          let f ← relF tb x x
          return { t := enc f, n := n, s := ← written xc }
        else if ltCmp s x then do
          let f ← relF tb s x
          let g ← relF tb x x
          return { t := enc (← addS (← mulS t f) g), n := n, s := ← written xc }
        else do
          let f ← relF tb x s
          return { a with t := enc (← addS t f), n := n }

/-- QMERGE on one lane: b into a (R258). -/
def mergeLane (sh : Shape) (a b : Trip) : Run Trip :=
  let ta := dec a.t
  let sa := dec a.s
  let tb := dec b.t
  let sb := dec b.s
  let n := a.n + b.n
  if b.n = 0 then return a
  else if a.n = 0 then return { t := ← written b.t, n := b.n, s := ← written b.s }
  else if 2 ^ 31 - 1 < n then domErr
  else if isNan ta || isNan sa || isNan tb || isNan sb then
    return { t := ← written f32.nanCode, n := n, s := ← written f32.nanCode }
  else
    match sh with
    | .power p =>
      if dom p sb sa then do
        let f ← powP p (← divS sa sb)
        return { t := enc (← addS (← mulS ta f) tb), n := n, s := ← written b.s }
      else if Num.eq sa sb then return { t := enc (← addS ta tb), n := n, s := ← written a.s }
      else do
        let f ← powP p (← divS sb sa)
        return { t := enc (← addS ta (← mulS tb f)), n := n, s := ← written a.s }
    | .geometric => return { t := enc (← addS ta tb), n := n, s := ← written (enc (Num.maxV sa sb)) }
    | .maximum => return { t := a.t, n := n, s := ← written (enc (Num.maxV sa sb)) }
    | .table p =>
      match p.rescale with
      | .none => return { t := enc (← addS ta tb), n := n, s := a.s }
      | _ =>
        if ltCmp sa sb then do
          let f ← relF p sa sb
          return { t := enc (← addS (← mulS ta f) tb), n := n, s := ← written b.s }
        else do
          let f ← relF p sb sa
          return { t := enc (← addS ta (← mulS tb f)), n := n, s := ← written a.s }

/-- QFIN on one lane (R260). -/
def finLane (sh : Shape) (a : Trip) (dflt : Nat) : Run Nat :=
  let t := dec a.t
  let s := dec a.s
  if a.n = 0 then written dflt
  else if isNan t || isNan s then written f32.nanCode
  else do
    let m ← divS t (ofInt a.n)
    match sh with
    | .power p => return enc (← mulS s (← rneStep? (Num.pow 16 p.natAbs (decide (p < 0)) m)))
    | .geometric => return enc (← rneStep (Num.exp2 f32 .rne m))
    | .maximum => written a.s
    | .table tb =>
      let g ← exitG tb m
      match tb.rescale with
      | .none => return enc g
      | .mult => return enc (← mulS s g)
      | .add => return enc (← addS s g)

/-! ## Triples in registers -/

/-- Lane i of the triple at register a, as read at issue. -/
def State.trip (s : State) (a i : Nat) : Trip :=
  { t := elem 32 (s.rdVr a) i, n := sx (elem 32 (s.rdVr (a + 1)) i) 32, s := elem 32 (s.rdVr (a + 2)) i }

/-- The three vectors of 128 lanes. -/
def tripVecs (l : List Trip) : VWord × VWord × VWord :=
  (ofElems 32 (l.map (·.t)), ofElems 32 (l.map fun x => wrap x.n 32), ofElems 32 (l.map (·.s)))

/-- Write a triple, pending for lat cycles. -/
def State.wrTrip (s : State) (a : BitVec 6) (l : List Trip) (lat : Nat) : State :=
  let (t, n, w) := tripVecs l
  ((s.wrVr a.toNat t lat).wrVr (a.toNat + 1) n lat).wrVr (a.toNat + 2) w lat

/-- A lane of a result: its value, whether it is in domain error, and what the shadow unit checks. -/
structure LaneRes (α : Type) where
  val : α
  err : Bool
  steps : List Nat

/-- The lanes of an operation: each lane that the mask allows computed, the others kept. In a lane in error, the steps that it has taken are
checked, and the codes that it takes for its error. -/
def runLanes {α : Type} (m : Mask128) (f : Nat → Run α) (keep : Nat → α) (taken : List Nat) : List (LaneRes α) :=
  (List.range 128).map fun i =>
    if maskBit m i then
      (match runLane (f i) with
       | (some x, l) => { val := x, err := false, steps := l }
       | (none, l) => { val := keep i, err := true, steps := l ++ taken })
    else { val := keep i, err := false, steps := [] }

/-- The lowest lane in domain error. -/
def firstErr {α : Type} (l : List (LaneRes α)) : Option Nat := firstBelow 128 fun i => ((l[i]?).map (·.err)).getD false

/-- Do the values that lane i of the mean unit checks diverge (R261)? -/
def Core.meanDiverges (c : Core) (i : Nat) (steps : List Nat) : Bool := steps.any (diverges f32 (FMap.find? c.defects.mean i))

/-- The lowest diverging lane (R186, R261). -/
def Core.meanShadow {α : Type} (c : Core) (l : List (LaneRes α)) : Option Nat :=
  firstBelow 128 fun i => ((l[i]?).map fun x => c.meanDiverges i x.steps).getD false

/-- Mask bits of the lanes in error. -/
def errMask {α : Type} (l : List (LaneRes α)) : Mask128 :=
  BitVec.ofNat 128 (joinNat 1 (l.map fun x => if x.err then 1 else 0))

/-- m7 gathers the lanes in error (R257). -/
def State.gather {α : Type} (s : State) (l : List (LaneRes α)) (lat : Nat) : State :=
  s.wrM 7 (s.rdM 7 ||| errMask l) lat

/-! ## The instructions (R253 to R262) -/

/-- QSHAPE (R262). Its own TAILFIELD fault judges the value of imm16, and is tested after checks 1 to 5 of R38, the guest's PRIV among what
precedes it (DESIGN CHOICE, log entry 136). -/
def execQshape (imm : BitVec 16) (s : State) : Host.Outcome State Fault Refusal :=
  performE s (.qshape imm) fun s =>
    if qshapeOk imm then .ok (s.updThr s.cur fun h => { h with qsp := imm }) else .error (illegal subTAILFIELD)

/-- The 2,240 bytes of a table block as a pair; none where it is not well formed (R250). -/
def parsePair (d : List Byte) : Option MeanPair :=
  let w := fun i => BitVec.ofNat 32 (field d i 4)
  let fs := (List.range 257).map fun k => w (64 + 4 * k)
  let gs := (List.range 257).map fun k => w (1152 + 4 * k)
  let finite := fun (v : Val) => match v with | .fin _ _ _ => true | _ => false
  let r := field d 16 1
  let p : MeanPair := { elo := w 0, ehi := w 4, xlo := w 8, xhi := w 12
                        rescale := if r = 0 then .none else if r = 1 then .mult else .add, f := fs, g := gs }
  let span := fun (a b : Word32) => ltCmp (fdec a) (fdec b) && finite (rne (Num.add .rne (fdec b) (neg (fdec a))))
  if 2 < r ∨ leNat (slice d 17 47) ≠ 0 then none
  else if !([p.elo, p.ehi, p.xlo, p.xhi] ++ fs ++ gs).all (fun x => finite (fdec x)) then none
  else if span p.elo p.ehi && span p.xlo p.xhi then some p
  else none

/-- QTLD reads its block once every earlier access of the core to ULM is performed, and parks its thread until the pair is
replaced (R263); it does not wait for relaxed accesses (DESIGN CHOICE, log entry 126). -/
def execQtld (n : BitVec 2) (a : GReg) (off : Off16) (s : State) : Host.Outcome State Fault Refusal :=
  performK s (.qtld n a off) fun s =>
    let ad := s.rdG a + sext16 off
    if ad.toNat % 64 ≠ 0 then .stop (s.fault (alignF ad))
    else if 0x27FFF < ad.toNat + 2239 then .stop (s.fault (protF ad))
    else if s.ulmWaits then .stop s.atPort
    else
      match s.ulmBlock ad.toNat 2240 with
      | (_, some (p, w)) => .stop (s.fault (killF p (BitVec.ofNat 64 w)))
      | (d, none) =>
        match parsePair d with
        | none => .stop (s.fault (.of 0x01 subFORMAT ad))
        | some p =>
          let (id, s) := s.claim
          .done ((s.updCore s.ck fun c =>
            { c with means := { c.means with
                loading := c.means.loading ++ [{ id := id, thread := s.cur % 64, n := n.toNat, pair := p, due := s.cycOf s.ck + 64 }] } }).park
            s.cur (.unit id))

/-- MEAN_PAIR_REPLACE at core State.subj: the oldest loaded pair replaces its predecessor, 64 cycles after it was read, and its QTLD
retires (R263). -/
def occMeanPairReplace (s : State) : Option State :=
  match (s.core s.subj).means.loading with
  | [] => none
  | l :: r =>
    if s.cycOf s.subj < l.due then none
    else
      some ((s.updCore s.subj fun c =>
        { c with means := { c.means with pairs := FMap.set c.means.pairs l.n (some l.pair), loading := r } }).doneWaiting
        (s.subj * 64 + l.thread) (.unit l.id))

def execMeanPairReplace (s : State) : Host.Outcome State Fault Refusal := s.happen (occMeanPairReplace s)

def execQclr (k : VMask) (a : BitVec 6) (s : State) : Host.Outcome State Fault Refusal :=
  perform s (.qclr k a) fun s =>
    let l := (List.range 128).map fun i => if maskBit (s.mask k) i then Trip.empty else s.trip a.toNat i
    s.wrTrip a l 8

/-- Fold, merge or finish under the shape in force: FORMAT where QSP is not valid (R248). -/
def withShape (s : State) (f : Shape → Except FaultRec State) : Except FaultRec State :=
  match s.shape with
  | none => .error (illegal subFORMAT)
  | some sh => f sh

def execQacc (q : Bool) (k : VMask) (a : BitVec 6) (b : VOp) (s : State) : Host.Outcome State Fault Refusal :=
  performE s (.qacc q k a b) fun s => withShape s fun sh =>
    let m := s.mask k
    let bad := fun (x : Trip) => ({ t := f32.nanCode, n := if x.n = 2 ^ 31 - 1 then x.n else x.n + 1, s := f32.nanCode } : Trip)
    let r := runLanes m (fun i => foldLane sh (s.trip a.toNat i) (elem 32 (s.rdV b) i)) fun i =>
      if maskBit m i then bad (s.trip a.toNat i) else s.trip a.toNat i
    let r := r [f32.nanCode, f32.nanCode]
    match if q then none else firstErr r, s.rd.meanShadow r with
    | some i, _ => .error (domainF i)
    | none, some i => .error (shadowF i)
    | none, none =>
      let s' := s.wrTrip a (r.map (·.val)) 24
      .ok (if q then s'.gather r 24 else s')

def execQmerge (k : VMask) (a b : BitVec 6) (s : State) : Host.Outcome State Fault Refusal :=
  performE s (.qmerge k a b) fun s => withShape s fun sh =>
    let m := s.mask k
    let r := runLanes m (fun i => mergeLane sh (s.trip a.toNat i) (s.trip b.toNat i)) (fun i => s.trip a.toNat i) []
    match firstErr r, s.rd.meanShadow r with
    | some i, _ => .error (domainF i)
    | none, some i => .error (shadowF i)
    | none, none => .ok (s.wrTrip a (r.map (·.val)) 24)

/-- The tree of R259: the first w lanes each take the merge with the lane w above them. The result is that of lane 0, with what the nodes
of each lane check; an error is the lane of a node in domain error, of the first level that has one its lowest (DESIGN CHOICE, log entry
108). -/
def qredTree (sh : Shape) : Nat → List Trip → List (Nat × List Nat) → Except Nat (List Trip × List (Nat × List Nat))
  | 0, l, checks => .ok (l, checks)
  | lev + 1, l, checks =>
    let w := 2 ^ lev
    let step := (List.range w).map fun e => runLane (mergeLane sh ((l[e]?).getD Trip.empty) ((l[e + w]?).getD Trip.empty))
    match firstBelow w fun e => ((step[e]?).map (·.1.isNone)).getD false with
    | some e => .error e
    | none => qredTree sh lev (step.map fun x => x.1.getD Trip.empty)
        (checks ++ (List.range w).map fun e => (e, ((step[e]?).map (·.2)).getD []))

/-- QRED: a diverging node is reported by its lane, the lowest of all (R186). It occupies the mean unit for 8 cycles (R254). -/
def execQred (k : VMask) (a : BitVec 6) (s : State) : Host.Outcome State Fault Refusal :=
  performE s (.qred k a) fun s => withShape s fun sh =>
    let m := s.mask k
    let l := (List.range 128).map fun i => if maskBit m i then s.trip a.toNat i else Trip.empty
    match qredTree sh 7 l [] with
    | .error e => .error (domainF e)
    | .ok (r, checks) =>
      match firstBelow 128 fun e => checks.any fun c => c.1 == e && s.rd.meanDiverges e c.2 with
      | some e => .error (shadowF e)
      | none =>
        let s := s.updCore s.ck fun c => { c with means := { c.means with free := max c.means.free (s.issueCycle + 8) } }
        .ok (s.wrTrip a ((List.range 128).map fun i => if i = 0 then (r[0]?).getD Trip.empty else Trip.empty) 176)

def execQfin (q : Bool) (k : VMask) (a : BitVec 6) (b : VOp) (s : State) : Host.Outcome State Fault Refusal :=
  performE s (.qfin q k a b) fun s => withShape s fun sh =>
    let m := s.mask k
    let r := runLanes m (fun i => finLane sh (s.trip a.toNat i) (elem 32 (s.rdV b) i)) fun i =>
      if maskBit m i then f32.nanCode else elem 32 (s.rdVr a.toNat) i
    let r := r [f32.nanCode]
    match if q then none else firstErr r, s.rd.meanShadow r with
    | some i, _ => .error (domainF i)
    | none, some i => .error (shadowF i)
    | none, none =>
      let s' := s.wrVr a.toNat (ofElems 32 (r.map (·.val))) 32
      .ok (if q then s'.gather r 32 else s')

end Sys2Proof.Machine
end

