-- ==== Sys2Proof/Machine/Grids.lean ====
section
/-! DEFINITION. Grids and their halos (R265 to R282): descriptors, ghost cells and their sources, publication, strips, the grid
instructions. -/

namespace Sys2Proof.Machine

open Sys2Proof

/-! ## Descriptors (R266, R267) -/

def ruleOf : Nat → Option Rule
  | 0 => some .none
  | 1 => some .periodic
  | 2 => some .reflect
  | 3 => some .clamp
  | 4 => some .constant
  | _ => none

/-- Element size in bytes of a grid format. -/
def gBytes : GFmt → Nat
  | .f32 | .i32 => 4
  | .bf16 | .f16 => 2

namespace GDesc

def usesY (d : GDesc) : Bool := decide (2 ≤ d.dims)
def usesZ (d : GDesc) : Bool := decide (d.dims = 3)
def wy (d : GDesc) : Nat := if d.usesY then d.w else 0
def wz (d : GDesc) : Nat := if d.usesZ then d.w else 0
def px (d : GDesc) : Nat := d.x.b + 2 * d.w
def py (d : GDesc) : Nat := if d.usesY then d.y.b + 2 * d.w else 1
def pz (d : GDesc) : Nat := if d.usesZ then d.z.b + 2 * d.w else 1
def e (d : GDesc) : Nat := gBytes d.fmt
def space (d : GDesc) : Space := if d.inUlm then .ulm else .ab

/-- addr(x, y, z) of R265. -/
def addr (d : GDesc) (x y z : Int) : Nat :=
  d.base + d.e * (((z + d.wz) * d.py + (y + d.wy)) * d.px + (x + d.w)).toNat

end GDesc

/-- One dimension is as R267 requires. -/
def gdimOk (used : Bool) (w : Nat) (g : GDim) : Bool :=
  (if used then decide (w ≤ g.b) && decide (1 ≤ g.g) && decide (g.o + g.b ≤ g.g)
   else decide (g.b = 1) && decide (g.g = 1) && decide (g.o = 0) && g.lo == .none && g.hi == .none) &&
  ((g.lo == .periodic) == (g.hi == .periodic))

/-- The grid of a 128-byte descriptor; none where it is not well formed. -/
def parseGrid (d : List Byte) : Option GDesc :=
  let b0 := field d 0 1
  let dims := b0 % 4
  let dim := fun (i : Nat) =>
    match ruleOf (field d (40 + i) 1 % 16), ruleOf (field d (40 + i) 1 / 16) with
    | some lo, some hi =>
      some ({ b := field d (10 + 2 * i) 2, g := field d (16 + 4 * i) 4, o := field d (28 + 4 * i) 4, lo := lo, hi := hi } : GDim)
    | _, _ => none
  match dim 0, dim 1, dim 2 with
  | some x, some y, some z =>
    let nb := leNat (slice d 52 65)
    let g : GDesc :=
      { dims := dims
        fmt := match b0 / 4 % 4 with | 0 => .f32 | 1 => .bf16 | 2 => .f16 | _ => .i32
        inUlm := decide (b0 / 16 % 2 = 1), w := field d 1 1, rad := field d 2 1, depth := field d 3 1, base := field d 4 4
        gid := BitVec.ofNat 16 (field d 8 2), x := x, y := y, z := z, const := BitVec.ofNat 32 (field d 44 4)
        last0 := field d 48 4, nbr := (List.range 26).map fun j => nb / 2 ^ (20 * j) % 2 ^ 20 }
    if dims = 0 ∨ b0 / 32 ≠ 0 ∨ g.w = 0 ∨ 8 < g.w ∨ g.rad = 0 ∨ 4 < g.rad ∨ g.depth = 0 ∨ 8 < g.depth ∨
        field d 43 1 ≠ 0 ∨ leNat (slice d 117 11) ≠ 0 ∨ (g.e = 2 ∧ 2 ^ 16 ≤ g.const.toNat) ∨ g.w < g.depth * g.rad ∨
        !(gdimOk true g.w x && gdimOk g.usesY g.w y && gdimOk g.usesZ g.w z) ∨ g.last0 % g.depth ≠ 0 ∨
        0xFFFFFFFF < g.last0 + g.depth ∨ g.base % 64 ≠ 0 ∨ bufSize g.space < g.base + g.e * g.px * g.py * g.pz then none
    else some g
  | _, _, _ => none

/-! ## Directions and sources (R268, R269) -/

/-- The components of direction k = (dx + 1) + 3 (dy + 1) + 9 (dz + 1); 13 is no direction. -/
def dirOf (k : Nat) : Int × Int × Int := ((k % 3 : Nat) - 1, (k / 3 % 3 : Nat) - 1, (k / 9 % 3 : Nat) - 1)

def dirKey (dx dy dz : Int) : Nat := ((dx + 1) + 3 * (dy + 1) + 9 * (dz + 1)).toNat

/-- The opposite direction. -/
def oppKey (k : Nat) : Nat := 26 - k

/-- Is a face, low or high, open? -/
def GDim.faceOpen (g : GDim) (high : Bool) : Bool :=
  if high then g.o + g.b != g.g || g.hi == .periodic else g.o != 0 || g.lo == .periodic

def GDim.dirOpen (g : GDim) (used : Bool) (d : Int) : Bool :=
  if d = 0 then true else used && g.faceOpen (decide (0 < d))

/-- Is direction k exchanged? -/
def GDesc.exchanged (d : GDesc) (k : Nat) : Bool :=
  let (dx, dy, dz) := dirOf k
  decide (k < 27) && k != 13 && d.x.dirOpen true dx && d.y.dirOpen d.usesY dy && d.z.dirOpen d.usesZ dz

/-- The place that the neighbour table gives for direction k. -/
def GDesc.neighbour (d : GDesc) (k : Nat) : Loc := locOf ((d.nbr[if 13 < k then k - 1 else k]?).getD 0) 0

/-- The component of a cell's direction in one dimension. -/
def side (b : Nat) (c : Int) : Int := if c < 0 then -1 else if (b : Int) ≤ c then 1 else 0

/-- One dimension of R269 step 2: whether its rule is NONE, whether it is CONSTANT, the component that remains, the mapped
coordinate. -/
def GDim.source (g : GDim) (c : Int) : Bool × Bool × Int × Int :=
  let d := side g.b c
  if d = 0 then (false, false, 0, c)
  else if g.faceOpen (decide (0 < d)) then (false, false, d, c)
  else
    match if d < 0 then g.lo else g.hi with
    | .constant => (false, true, 0, c)
    | .reflect => (false, false, 0, if d < 0 then -1 - c else 2 * (g.b : Int) - 1 - c)
    | .clamp => (false, false, 0, if d < 0 then 0 else (g.b : Int) - 1)
    | _ => (true, false, 0, c)

/-- The source of a ghost cell. -/
inductive GSrc where
  | none
  | const
  /-- the frame of direction k (13: the block's own interior) at mapped coordinates -/
  | cell (k : Nat) (x y z : Int)
  deriving DecidableEq, Repr

def GDesc.source (d : GDesc) (x y z : Int) : GSrc :=
  let (nx, cx, dx, mx) := d.x.source x
  let (ny, cy, dy, my) := d.y.source y
  let (nz, cz, dz, mz) := d.z.source z
  if nx || ny || nz then .none
  else if cx || cy || cz then .const
  else .cell (dirKey dx dy dz) mx my mz

def GDesc.isGhost (d : GDesc) (x y z : Int) : Bool := side d.x.b x != 0 || side d.y.b y != 0 || side d.z.b z != 0

/-- Integers from lo on, n of them. -/
def intRange (lo : Int) (n : Nat) : List Int := (List.range n).map fun (i : Nat) => lo + i

/-- All cells of a box, x fastest. -/
def box (x y z : Int × Nat) : List (Int × Int × Int) :=
  (intRange z.1 z.2).flatMap fun c => (intRange y.1 y.2).flatMap fun b => (intRange x.1 x.2).map fun a => (a, b, c)

/-- The ghost cells of the padded array. -/
def GDesc.ghosts (d : GDesc) : List (Int × Int × Int) :=
  (box (-(d.w : Int), d.px) (-(d.wy : Int), d.py) (-(d.wz : Int), d.pz)).filter fun p => d.isGhost p.1 p.2.1 p.2.2

/-- One dimension of the interior strip toward, or the ghost region of, a component. -/
def stripDim (b w : Nat) (d : Int) : Int × Nat := if d < 0 then (0, w) else if 0 < d then ((b : Int) - w, w) else (0, b)
def ghostDim (b w : Nat) (d : Int) : Int × Nat := if d < 0 then (-(w : Int), w) else if 0 < d then ((b : Int), w) else (0, b)

/-- The interior cells of the strip sent in direction k, and the ghost region of direction k (R270). DEDUCED, log entry 48. -/
def GDesc.strip (d : GDesc) (k : Nat) : List (Int × Int × Int) :=
  let (dx, dy, dz) := dirOf k
  box (stripDim d.x.b d.w dx) (stripDim d.y.b d.w dy) (stripDim d.z.b d.w dz)
def GDesc.region (d : GDesc) (k : Nat) : List (Int × Int × Int) :=
  let (dx, dy, dz) := dirOf k
  box (ghostDim d.x.b d.w dx) (ghostDim d.y.b d.w dy) (ghostDim d.z.b d.w dz)

/-- The exchanged directions. -/
def GDesc.exchanges (d : GDesc) : List Nat := (List.range 27).filter d.exchanged

/-! ## The registered grids of a core -/

namespace State

/-- The grid registered at an address. -/
def gridAt (s : State) (ck addr : Nat) : Option GridReg := (s.core ck).grid.regs.find? fun g => g.addr == addr

def setGrid (s : State) (ck : Nat) (g : GridReg) : State :=
  s.updCore ck fun c => { c with grid := { c.grid with regs := c.grid.regs.map fun h => if h.addr = g.addr then g else h } }

/-- The cell at an address of the grid's buffer, and whether it holds a bad word. -/
def readCell (m : Mem) (d : GDesc) (a : Nat) : Word32 × Bool := (BitVec.ofNat 32 (m.nat a d.e), (m.badIn a d.e).isSome)

/-- Write cells at once, then poison those read from bad words. A word all of whose cells are written has fresh check bits. -/
def writeCells (s : State) (ck : Nat) (d : GDesc) (l : List (Nat × Word32 × Bool)) : State :=
  let whole := fun (w : Nat) => (List.range (8 / d.e)).all fun i => l.any fun x => x.1 == 8 * w + d.e * i
  s.updCore ck fun c =>
    let m := l.foldl (fun m x => m.write x.1 (leBytes d.e x.2.1.toNat)) (c.buf d.space)
    let m := { m with bad := m.bad.filter fun e => !whole e.1 }
    c.setBuf d.space ((l.filter (·.2.2)).foldl (fun m x => m.mark x.1 d.e true) m)

/-- The ghost cells whose source is a strip's frame: the number of the strip's cell, the address, the cell, and whether it was read from a bad
word (R269). -/
def stripCells (g : GridReg) (p : Strip) : List (Nat × Nat × Word32 × Bool) :=
  let d := g.desc
  let region := d.region p.dir
  d.ghosts.filterMap fun c =>
    match d.source c.1 c.2.1 c.2.2 with
    | .cell k x y z =>
      if k = p.dir then
        (region.findIdx? fun r => r == (x, y, z)).map fun i => (i, d.addr c.1 c.2.1 c.2.2, (p.cells[i]?).getD 0, p.bad.contains i)
      else none
    | _ => none

/-- Install a strip: the ghost cells whose source is its frame take its cells, and the frame its tag (R269, R270). -/
def installStrip (s : State) (ck : Nat) (g : GridReg) (p : Strip) : State :=
  (s.writeCells ck g.desc ((stripCells g p).map (·.2))).setGrid ck
    { g with tags := FMap.set g.tags p.dir (some p.tag), staged := FMap.set g.staged p.dir none }

/-- Is a strip installed as it comes, neither refused, discarded, staged nor held (R270)? -/
def installs (g : GridReg) (p : Strip) : Bool :=
  g.desc.exchanged p.dir && p.cells.length == (g.desc.region p.dir).length && p.fmt == g.desc.fmt && decide (g.desc.last0 ≤ p.tag) &&
  (FMap.get none g.staged p.dir).isNone && decide (p.tag ≤ g.last)

/-- The registered grid that a strip is for. -/
def stripGrid (s : State) (p : Strip) : Option GridReg :=
  (s.core (locCore p.dst)).grid.regs.find? fun g => g.tenant == p.tenant && g.desc.gid == p.gid

/-- Offer a strip to its receiver: none where it stays held (R270). -/
def offerStrip (s : State) (p : Strip) : Option State :=
  let ck := locCore p.dst
  match s.stripGrid p with
  | none => none
  | some g =>
    if !g.desc.exchanged p.dir ∨ p.cells.length ≠ (g.desc.region p.dir).length ∨ p.fmt ≠ g.desc.fmt then
      some (s.vlogAt ck (p.gid.setWidth 64) 0x06 p.tenant (locWord p.src))
    else if p.tag < g.desc.last0 then some s
    else
      match FMap.get none g.staged p.dir with
      | some _ => none
      | none =>
        if p.tag ≤ g.last then some (s.installStrip ck g p)
        else some (s.setGrid ck { g with staged := FMap.set g.staged p.dir (some p) })

/-- Offer the held strips of a core's grids again, in order; behind a strip that stays held, those of its direction stay held
too. -/
def offerHeld (s : State) (ck : Nat) : State :=
  let (s, kept, _) := s.heldStrips.foldl (fun (acc : State × List Strip × List (Nat × BitVec 16 × Nat)) p =>
    let (s, kept, blocked) := acc
    let key := (p.tenant, p.gid, p.dir)
    if locCore p.dst ≠ ck ∨ blocked.contains key then (s, kept ++ [p], blocked)
    else match s.offerStrip p with
      | some s' => (s', kept, blocked)
      | none => (s, kept ++ [p], blocked ++ [key])) (s, [], [])
  { s with heldStrips := kept }

/-- Publish a registered grid at step t: snapshot, own-sourced and constant ghost cells, LAST, staged strips, strips sent
(R269, R270, R278). DEDUCED, log entry 47. -/
def publish (s : State) (ck : Nat) (g : GridReg) (t : Nat) : State :=
  let d := g.desc
  let m := s.rd.buf d.space
  let strips := d.exchanges.map fun k =>
    let cs := (d.strip k).map fun c => readCell m d (d.addr c.1 c.2.1 c.2.2)
    ({ tenant := g.tenant, gid := d.gid, dst := d.neighbour k, src := s.loc (ck * 64), dir := oppKey k, tag := t, fmt := d.fmt
       cells := cs.map (·.1), bad := (List.range cs.length).filter fun i => ((cs[i]?).map (·.2)).getD false } : Strip)
  let own := d.ghosts.filterMap fun c =>
    match d.source c.1 c.2.1 c.2.2 with
    | .const => some (d.addr c.1 c.2.1 c.2.2, d.const, false)
    | .cell 13 x y z => some (d.addr c.1 c.2.1 c.2.2, readCell m d (d.addr x y z))
    | _ => none
  let s := s.writeCells ck d own
  let s := s.writeMem (.buf ck .ulm (g.addr + 48)) (leBytes 4 t)
  let s := s.setGrid ck { g with last := t }
  let s := d.exchanges.foldl (fun s k =>
    match s.gridAt ck g.addr with
    | some h =>
      match FMap.get none h.staged k with
      | some p => if p.tag ≤ t then s.installStrip ck h p else s
      | none => s
    | none => s) s
  (strips.foldl (fun s p => s.post p.dst.pkg (.strip p)) s).offerHeld ck

end State

/-- STRIP_ARRIVAL of the item State.subj: the strip is installed, staged or discarded, or held at its sender (R270). -/
def occStripArrival (s : State) : Option State :=
  match s.net.findSome? fun i => match i.msg with | .strip p => if i.id = s.subj then some (p, i.pkt) else none | _ => none with
  | none => none
  | some (p, k) =>
    let same := fun (q : Strip) => q.src == p.src && q.dst == p.dst && q.tenant == p.tenant && q.gid == p.gid && q.dir == p.dir
    let behind := (s.net.takeWhile fun i => i.id != s.subj).any fun i => match i.msg with | .strip q => same q | _ => false
    if p.dst.pkg ≠ s.pkg ∨ behind then none
    else
      let s := { s with net := s.net.filter fun i => i.id != s.subj }
      if s.heldStrips.any same then some { s with heldStrips := s.heldStrips ++ [p] }
      else
        match s.offerStrip p with
        | some s' => some (s'.heal k)
        | none => some { s with heldStrips := s.heldStrips ++ [p] }

def execStripArrival (s : State) : Host.Outcome State Fault Refusal := s.happen (occStripArrival s)

/-! ## The instructions (R273 to R280) -/

namespace State

/-- The address checks of R274. -/
def descCheck (a : Word) : Option FaultRec :=
  if a.toNat % 64 ≠ 0 then some (alignF a) else if 0x27F80 < a.toNat then some (protF a) else none

/-- Does a grid operation that the core issued earlier still wait at the port (R281)? -/
def gridsAhead (s : State) : Bool := s.waits (s.ahead s.ck s.issuePlace .grids)

/-- The registered grid that a descriptor operand names, with the checks on it, after the grid operations that the core issued before
(R281); parks: whether the operation parks its thread (R277, R279). -/
def withGrid (s : State) (parks : Bool) (a : Word) (k : GridReg → Eff) : Eff :=
  match descCheck a with
  | some f => .stop (s.fault f)
  | none =>
    if s.gridsAhead then .stop (if parks then s.atPort else s.atPortHeld)
    else
      match s.gridAt s.ck a.toNat with
      | none => .stop (s.fault (gridF 0x02 a))
      | some g => k g

/-- Every access to the local buffers that the core issued earlier is performed (R122). -/
def buffersClear (s : State) : Bool := s.portClear s.ck .ulm s.issuePlace && s.portClear s.ck .ab s.issuePlace

/-- Every access that the core's port accepted earlier is performed, and those to the local buffers that it issued earlier (R278). -/
def acceptedClear (s : State) : Bool :=
  s.buffersClear && !(s.flight.any fun a => a.core == s.ck && decide (a.turn < s.issuePlace) && a.ans.isNone && !a.isHeld)

/-- Exchanged ghost regions of a grid in bytes: its frame store (R275). -/
def frameBytes (d : GDesc) : Nat := (d.exchanges.map fun k => d.e * (d.region k).length).foldl (· + ·) 0

/-- The grids registered with the halo engine of a die. -/
def dieGrids (s : State) (die : Nat) : List GridReg := (s.cores.filter fun c => c.1 / 512 == die).flatMap fun c => c.2.grid.regs

/-- The coordinates operand: x, y, z, N (R274). -/
def coords (w : Word) : Int × Int × Int × Nat :=
  (sx w.toNat 16, sx (w.toNat / 2 ^ 16) 16, sx (w.toNat / 2 ^ 32) 16, w.toNat / 2 ^ 48 % 128 + 1)

/-- The checks that GLD and GST share: buffer, format, range (R276, R277). -/
def runCheck (g : GridReg) (a : Word) (f : GFmt) (w : Word) : Option FaultRec :=
  let d := g.desc
  let (x, y, z, n) := coords w
  let inside := fun (c : Int) (b m : Nat) => decide (-(m : Int) ≤ c) && decide (c < (b : Int) + m)
  if d.inUlm then some (gridF 0x09 a)
  else if f ≠ d.fmt then some (gridF 0x08 a)
  else if w.toNat / 2 ^ 55 ≠ 0 ∨ (!d.usesY ∧ y ≠ 0) ∨ (!d.usesZ ∧ z ≠ 0) ∨ x < -(d.w : Int) ∨ (d.x.b : Int) + d.w < x + n ∨
      !inside y d.y.b d.wy ∨ !inside z d.z.b d.wz then some (gridF 0x03 a)
  else none

/-- What R271 makes of one cell of a load that demands tag tau: its fault, or whether it is current. -/
def cellState (g : GridReg) (a : Word) (tau : Nat) (x y z : Int) : Except FaultRec Bool :=
  let d := g.desc
  if !d.isGhost x y z then .ok true
  else
    match d.source x y z with
    | .none => .error (gridF 0x07 a)
    | .const => .ok true
    | .cell k _ _ _ =>
      match if k = 13 then some g.last else FMap.get none g.tags k with
      | none => .ok false
      | some i => if tau < i then .error (gridF 0x06 a) else .ok (decide (i = tau))

end State

open State in
def execGdecl (a : GReg) (s : State) : Host.Outcome State Fault Refusal :=
  performK s (.gdecl a) fun s =>
    let ad := s.rdG a
    match descCheck ad with
    | some f => .stop (s.fault f)
    | none =>
      if s.gridsAhead || s.waits (!s.buffersClear) then .stop s.atPort
      else
        match s.ulmBlock ad.toNat 128 with
        | (_, some (p, w)) => .stop (s.fault (killF p (BitVec.ofNat 64 w)))
        | (b, none) =>
          match parseGrid b with
          | none => .stop (s.fault (gridF 0x01 ad))
          | some d =>
            let rs := (s.core s.ck).grid.regs
            let ds := s.dieGrids (s.ck / 512)
            if rs.any fun g => g.addr == ad.toNat || (g.tenant == s.myTenant && g.desc.gid == d.gid) then
              .stop (s.fault (gridF 0x0C ad))
            else if 64 ≤ ds.length ∨
                0x400000 < (ds.map fun g => frameBytes g.desc).foldl (· + ·) (frameBytes d) then
              .stop (s.fault (gridF 0x0A ad))
            else
              let g : GridReg :=
                { addr := ad.toNat, desc := d, tenant := s.myTenant, last := d.last0, tags := [], staged := [] }
              let s := s.updCore s.ck fun c => { c with grid := { c.grid with regs := c.grid.regs ++ [g] } }
              .done (s.publish s.ck g d.last0)

/-- The value that a GLD of n cells reads: the elements of the run, and zeros (R276). -/
def gldValue (m : Mem) (d : GDesc) (x y z : Int) (n : Nat) : VWord := BitVec.ofNat 4096 (m.nat (d.addr x y z) (d.e * n))

open State in
/-- GLD: the thread is parked until every ghost cell it reads is current; the park begins at its issue (R272, R276). DEDUCED, log entry
52. It reads AB outside R150's classes: it does not wait for relaxed accesses, on which the spec does not speak, and neither do LDT, TREAD,
DTLD, QTLD, MCMD and SBIND (R24, R150; DESIGN CHOICE, log entry 126). -/
def execGld (f : GFmt) (a : VOp) (b c d : GReg) (s : State) : Host.Outcome State Fault Refusal :=
  performK s (.gld f a b c d) fun s =>
    let ad := s.rdG b
    s.withGrid true ad fun g =>
      match runCheck g ad f (s.rdG c) with
      | some e => .stop (s.fault e)
      | none =>
        let (x, y, z, n) := coords (s.rdG c)
        let tau := g.desc.depth * ((s.rdG d).toNat % 2 ^ 32 / g.desc.depth)
        let cells := (intRange x n).map fun i => cellState g ad tau i y z
        match cells.findSome? fun r => match r with | .error e => some e | .ok _ => none with
        | some e => .stop (s.fault e)
        | none =>
          if s.waits (cells.any fun r => match r with | .ok false => true | _ => false) then
            .stop (s.updThr s.cur fun h => { h with st := .parked, wait := [.grid ad.toNat s.issueCycle] })
          else if s.waits (!s.portClear s.ck .ab s.issuePlace) then .stop s.atPort
          else
            match s.rd.ab.badIn (g.desc.addr x y z) (g.desc.e * n) with
            | some (poison, q) => .stop (s.fault (killF poison (BitVec.ofNat 64 q)))
            | none => .done (s.wrV a (gldValue s.rd.ab g.desc x y z n) 0)

open State in
def execGst (f : GFmt) (a b : GReg) (c : VOp) (s : State) : Host.Outcome State Fault Refusal :=
  performK s (.gst f a b c) fun s =>
    let ad := s.rdG a
    s.withGrid false ad fun g =>
      match runCheck g ad f (s.rdG b) with
      | some e => .stop (s.fault e)
      | none =>
        let (x, y, z, n) := coords (s.rdG b)
        if (intRange x n).any fun i => g.desc.isGhost i y z then .stop (s.fault (gridF 0x04 ad))
        else
          let p := g.desc.addr x y z
          s.store Mode.plain false false
            [{ va := BitVec.ofNat 64 p, place := .buf s.ck .ab p
               kind := .store (slice (leBytes (4 * 128) (s.rdV c).toNat) 0 (g.desc.e * n)) }]

def execGstep (a b : GReg) (s : State) : Host.Outcome State Fault Refusal :=
  performK s (.gstep a b) fun s =>
    let ad := s.rdG a
    s.withGrid true ad fun g =>
      let t := (s.rdG b).toNat % 2 ^ 32
      if t ≠ g.last + g.desc.depth then .stop (s.fault (gridF 0x05 ad))
      else if s.waits (!s.acceptedClear) then .stop s.atPort
      else .done (s.publish s.ck g t)

/-- The word of GSTAT (R279). -/
def gstatWord (g : GridReg) : Word :=
  let tags := g.desc.exchanges.map fun k => FMap.get none g.tags k
  let low := if tags = [] ∨ tags.any (·.isNone) then 0xFFFFFFFF
    else (tags.filterMap id).foldl min 0xFFFFFFFF
  BitVec.ofNat 64 (low * 2 ^ 32 + g.last % 2 ^ 32)

def execGstat (a b : GReg) (s : State) : Host.Outcome State Fault Refusal :=
  performK s (.gstat a b) fun s =>
    s.withGrid false (s.rdG b) fun g => .done (s.wrG a (gstatWord g))

/-- GFREE: the grid is withdrawn, and the threads parked in a GLD on it fault (R280). -/
def execGfree (a : GReg) (s : State) : Host.Outcome State Fault Refusal :=
  performK s (.gfree a) fun s =>
    let ad := s.rdG a
    s.withGrid true ad fun g =>
      let s := s.updCore s.ck fun c => { c with grid := { c.grid with regs := c.grid.regs.filter fun h => h.addr != g.addr } }
      let ts := (List.range 64).map fun n => s.ck * 64 + n
      .done (ts.foldl (fun s t =>
        if (s.thr t).wait.any fun w => match w with | .grid d _ => d == g.addr | _ => false then
          s.takeFault t (gridF 0x0B ad)
        else s) s)

/-- The descriptor of the grid load for which thread t has been parked for HALOTO cycles (R272). -/
def State.haloExpired (s : State) (t : Nat) : Option Nat :=
  (s.thr t).wait.findSome? fun w => match w with
    | .grid d c =>
      let lim := (s.core (t / 64)).grid.haloto
      if lim = 0 ∨ s.cycOf (t / 64) < c + lim then none else some d
    | _ => none

/-- HALO_TIMEOUT at thread State.subj: a grid load has been parked for HALOTO cycles (R272). -/
def occHaloTimeout (s : State) : Option State :=
  (s.haloExpired s.subj).map fun d => s.takeFault s.subj (staleHaloF (BitVec.ofNat 64 d))

def execHaloTimeout (s : State) : Host.Outcome State Fault Refusal := s.happen (occHaloTimeout s)

end Sys2Proof.Machine
end

