-- ==== Sys2Proof/Machine/Copy.lean ====
section
/-! DEFINITION. The copy engine (R283 to R299): shadow registers, launching, status, cancelling, the movement of bytes,
completion and user interrupts. -/

namespace Sys2Proof.Machine

open Sys2Proof

/-! ## Shadows (R284 to R288) -/

/-- The number of a shadow register (scheme CPF). -/
def cpIndex : CpField → Nat
  | .from => 0
  | .to => 1
  | .len => 2
  | .len1 => 3
  | .len2 => 4
  | .str1 => 5
  | .str2 => 6
  | .str3 => 7
  | .qsel => 8
  | .act => 9
  | .arg => 10

def execCpset (f : CpField) (a : GReg) (s : State) : Host.Outcome State Fault Refusal :=
  perform s (.cpset f a) fun s => s.updThr s.cur fun h => { h with cp := FMap.set h.cp (cpIndex f) (s.rdG a) }

/-- Shadow n of a list of eleven. -/
def shd (sh : List Word) (n : Nat) : Nat := ((sh[n]?).getD 0).toNat

/-- The shadows of a thread. -/
def Thread.shadows (h : Thread) : List Word := (List.range 11).map fun i => (FMap.find? h.cp i).getD (cpReset i)

/-- A space by its MCW code. -/
def spaceOf : Nat → Space
  | 0 => .dm
  | 1 => .ulm
  | 2 => .wb
  | _ => .ab

def copySsp (sh : List Word) : Space := spaceOf (shd sh 8 / 256 % 4)
def copyDsp (sh : List Word) : Space := spaceOf (shd sh 8 / 1024 % 4)
def copyQueue (sh : List Word) : Nat := shd sh 8 % 8
def copyKind (sh : List Word) : Nat := shd sh 9 % 4
def copyTotal (sh : List Word) : Nat := shd sh 2 * shd sh 3 * shd sh 4

/-- Source and destination of byte o of the copy order (R286). -/
def copySrc (sh : List Word) (o : Nat) : Word :=
  let r := o / shd sh 2
  (sh[0]?).getD 0 + BitVec.ofNat 64 (r / shd sh 3) * (sh[6]?).getD 0 + BitVec.ofNat 64 (r % shd sh 3) * (sh[5]?).getD 0 +
    BitVec.ofNat 64 (o % shd sh 2)
def copyDst (sh : List Word) (o : Nat) : Word :=
  (sh[1]?).getD 0 + BitVec.ofNat 64 (o / shd sh 2) * (sh[7]?).getD 0 + BitVec.ofNat 64 (o % shd sh 2)

/-- The least start and the length of the bytes that n steps of a signed stride take a run of given start and length over. -/
def spread (start : Int) (len : Nat) (n : Nat) (stride : Int) : Int × Nat :=
  let d := stride * ((n : Int) - 1)
  (start + min 0 d, len + d.natAbs)

/-- Do the source and destination extents intersect (R288)? -/
def copyOverlap (sh : List Word) : Bool :=
  let st := fun n => sx (shd sh n) 64
  let (a1, l1) := spread (shd sh 0) (shd sh 2) (shd sh 3) (st 5)
  let (a, la) := spread a1 l1 (shd sh 4) (st 6)
  let (b, lb) := spread (shd sh 1) (shd sh 2) (shd sh 3 * shd sh 4) (st 7)
  decide (wrap (b - a) 64 < la) || decide (wrap (a - b) 64 < lb)

/-- The check of the shadows (R288): the subcode of the first that fails. -/
def copyCheck (sh : List Word) : Option Nat :=
  let cnt := fun n => decide (shd sh n = 0) || decide (2 ^ 32 ≤ shd sh n)
  let kind := copyKind sh
  let bytes := shd sh 9 / 2 ^ 32
  let csp := shd sh 9 / 4 % 2
  let arg := shd sh 10
  if cnt 2 || cnt 3 || cnt 4 || decide (2 ^ 36 < copyTotal sh) then some 0x01
  else if shd sh 8 / 2 ^ 12 ≠ 0 ∨ shd sh 8 / 8 % 32 ≠ 0 then some 0x02
  else if shd sh 9 / 8 % 2 ^ 29 ≠ 0 ∨ (kind ≠ 2 ∧ (bytes ≠ 0 ∨ csp ≠ 0)) ∨ (kind = 2 ∧ (bytes = 0 ∨ 2 ^ 31 ≤ bytes)) ∨
      ((kind = 1 ∨ kind = 3) ∧ 2 ^ 32 ≤ arg) ∨ (kind = 1 ∧ arg % 2 = 1) then some 0x03
  else if copySsp sh = copyDsp sh ∧ copyOverlap sh then some 0x04
  else none

/-! ## Queues and the status table (R283, R288, R289) -/

namespace State

/-- The operations of queue q of core ck. -/
def cpQueue (s : State) (ck q : Nat) : List CopyOp := FMap.get [] (s.core ck).copy.queues q

def setQueue (s : State) (ck q : Nat) (l : List CopyOp) : State :=
  s.updCore ck fun c => { c with copy := { c.copy with queues := FMap.set c.copy.queues q l } }

/-- The bytes of a copy that are performed: those before the first that is kept or in a store that is still on its way (R289). -/
def copyPerformed (s : State) (op : CopyOp) : Nat :=
  (((op.out.filter fun o => (s.issued.any fun a => a.id == o.1) || s.flight.any fun a => a.id == o.1).map (·.2)) ++
    op.kept.map (·.ord)).foldl min op.offset

/-- The status entry of an identifier, if it still names that launch. -/
def cpStat (s : State) (ck xid : Nat) : Option CopyStat :=
  ((FMap.get none (s.core ck).copy.table (xid % 256)).filter fun e => e.xid == xid).map fun e =>
    match e.st, (s.cpQueue ck e.queue).find? fun o => o.fence.isNone && o.xid == xid with
    | .running, some op => { e with offset := s.copyPerformed op }
    | _, _ => e

def setStat (s : State) (ck : Nat) (e : CopyStat) : State :=
  s.updCore ck fun c => { c with copy := { c.copy with table := FMap.set c.copy.table (e.xid % 256) (some e) } }

/-- Must a launch into queue q wait: the queue is full, or the next identifier's entry is outstanding (R288, R289)? -/
def launchWaits (s : State) (ck q : Nat) : Bool :=
  decide (16 ≤ (s.cpQueue ck q).length) ||
  (match FMap.get none (s.core ck).copy.table ((s.core ck).copy.counter % 256) with
   | some e => e.st == .queued || e.st == .running
   | none => false)

/-- Enter an operation and give its identifier; it starts after what the port has accepted (R158). -/
def launchCopy (s : State) (ck : Nat) (thread : Option Nat) (tenant : Nat) (sh : List Word) (node : Option Nat) :
    Nat × State :=
  let xid := (s.core ck).copy.counter
  let q := copyQueue sh
  let op : CopyOp :=
    { id := s.nextId, xid := xid, fence := none, thread := thread, tenant := tenant, shadows := sh, offset := 0
      started := false, await := [], out := [], far := false, after := (s.flight.filter fun a => a.core == ck).map (·.id), cancel := false
      settled := false, node := node }
  let s := { s with nextId := s.nextId + 1 }
  let s := s.setQueue ck q (s.cpQueue ck q ++ [op])
  let s := s.setStat ck { xid := xid, offset := 0, cause := 0, queue := q, st := .queued, far := false }
  (xid, s.updCore ck fun c => { c with copy := { c.copy with counter := (xid + 1) % 2 ^ 16 } })

end State

def execCpgo (a : GReg) (s : State) : Host.Outcome State Fault Refusal :=
  performK s (.cpgo a) fun s =>
    let sh := s.me.shadows
    match copyCheck sh with
    | some sub => .stop (s.fault (copyF sub))
    | none =>
      if s.waits (s.launchWaits s.ck (copyQueue sh)) then .stop s.again
      else
        let (xid, s) := s.launchCopy s.ck (some (s.cur % 64)) s.myTenant sh none
        .done (s.wrG a (BitVec.ofNat 64 xid))

/-- The queues of a mask. -/
def maskQueues (m : BitVec 8) : List Nat := (List.range 8).filter fun q => m.getLsbD q

def execCpqf (mask : BitVec 8) (s : State) : Host.Outcome State Fault Refusal :=
  performK s (.cpqf mask) fun s =>
    if s.waits ((maskQueues mask).any fun q => decide (16 ≤ (s.cpQueue s.ck q).length)) then .stop s.again
    else
      let op : CopyOp :=
        { id := s.nextId, xid := 0, fence := some mask, thread := none, tenant := s.myTenant, shadows := [], offset := 0
          started := false, await := [], out := [], far := false, after := [], cancel := false, settled := false, node := none }
      let s := { s with nextId := s.nextId + 1 }
      .done ((maskQueues mask).foldl (fun s q => s.setQueue s.ck q (s.cpQueue s.ck q ++ [op])) s)

def cpStateCode : CopyState → Nat
  | .queued => 0
  | .running => 1
  | .done => 2
  | .faulted => 3
  | .cancelled => 4

/-- The status word of R289; GONE without an entry. -/
def cpStatWord : Option CopyStat → Word
  | none => 7
  | some e => BitVec.ofNat 64 (min e.offset 0xFFFFFFFF * 2 ^ 32 + e.cause * 2 ^ 24 + e.queue * 2 ^ 16 + cpStateCode e.st)

/-- Is a launch still queued or running? -/
def outstanding : Option CopyStat → Bool
  | some e => e.st == .queued || e.st == .running
  | none => false

/-- Does a thread that finds this entry acquire at system scope (R158, R290)? -/
def acquiresFar : Option CopyStat → Bool
  | some e => e.st == .done && e.far
  | none => false

/-- CPSTAT: one that finds a copy from or to another package DONE waits for the ingress horizon (R148, R290). -/
def execCpstat (a b : GReg) (s : State) : Host.Outcome State Fault Refusal :=
  perform s (.cpstat a b) fun s =>
    let e := s.cpStat s.ck ((s.rdG b).toNat % 2 ^ 16)
    let s := s.wrG a (cpStatWord e)
    if acquiresFar e then s.hold s.cur (.horizon none) else s
def execCpwait (a : GReg) (s : State) : Host.Outcome State Fault Refusal :=
  performK s (.cpwait a) fun s =>
    let e := s.cpStat s.ck ((s.rdG a).toNat % 2 ^ 16)
    if s.waits (outstanding e) then .stop s.again
    else .done (if acquiresFar e then s.park s.cur (.horizon none) else s)

/-- CPCAN: a queued operation is cancelled at once; a running one issues no more, and the thread is parked until it has settled
(R291). -/
def execCpcan (a : GReg) (s : State) : Host.Outcome State Fault Refusal :=
  perform s (.cpcan a) fun s =>
    let xid := (s.rdG a).toNat % 2 ^ 16
    match s.cpStat s.ck xid with
    | none => s
    | some e =>
      let l := s.cpQueue s.ck e.queue
      let isIt := fun (o : CopyOp) => o.fence.isNone && o.xid == xid
      match e.st with
      | .queued => (s.setQueue s.ck e.queue (l.filter fun o => !isIt o)).setStat s.ck { e with st := .cancelled, offset := 0 }
      | .running =>
        (s.setQueue s.ck e.queue (l.map fun o => if isIt o then { o with cancel := true } else o)).park s.cur (.cancel xid)
      | _ => s

/-! ## Moving bytes (R286, R293, R297) -/

/-- One byte of the copy order with the places of its source and destination. -/
structure CopyPair where
  src : Word
  dst : Word
  srcTr : Tr
  dstTr : Tr

namespace State

/-- Checks 1 to 4 of R121 for one byte of a copy (R283). -/
def copyTr (s : State) (ck tenant : Nat) (sp : Space) (va : Word) (u : Use) : Tr :=
  match sp with
  | .dm =>
    match s.translateNow ck tenant va u with
    | .ok p g => if p.isRemote && !s.isPresent (g / 2 ^ 48 % 256) then .bad (protF va) none else .ok p g
    | t => t
  | _ => if bufSize sp ≤ va.toNat then .bad (protF va) none else .ok (.buf ck sp va.toNat) 0

def copyByteAt (s : State) (ck : Nat) (op : CopyOp) (o : Nat) : CopyPair :=
  let a := copySrc op.shadows o
  let b := copyDst op.shadows o
  { src := a, dst := b, srcTr := s.copyTr ck op.tenant (copySsp op.shadows) a .copyRd
    dstTr := s.copyTr ck op.tenant (copyDsp op.shadows) b .copyWr }

/-- Read bytes at a place, the ACC window included. -/
def readAny (s : State) (p : Place) (n : Nat) : List Byte :=
  match p with
  | .acc c o => s.readAcc c o n
  | p => s.readMem p n

/-- What stops a copy at a byte: cause, address, and the target of a window violation. -/
def byteFault (s : State) (b : CopyPair) : Option (Nat × Word × Option Nat) :=
  match b.srcTr with
  | .bad f o => some (f.cause, b.src, o)
  | .miss => some (0x05, b.src, none)
  | .ok p _ =>
    match s.badMem p 1 with
    | some (poison, _) => some (if poison then 0x12 else 0x07, b.src, none)
    | none =>
      match b.dstTr with
      | .bad f o => some (f.cause, b.dst, o)
      | .miss => some (0x05, b.dst, none)
      | .ok _ _ => none

def trPlace : Tr → Place
  | .ok p _ => p
  | _ => .hole

/-- The bytes of the next block: up to 64 bytes of the copy order with destinations in one 64-byte block. DEDUCED, log entry 53. -/
def copyBlock (s : State) (ck : Nat) (op : CopyOp) : List CopyPair :=
  let l := (List.range (min 64 (copyTotal op.shadows - op.offset))).map fun i => s.copyByteAt ck op (op.offset + i)
  match l with
  | [] => []
  | b :: _ => l.takeWhile fun c => c.dst.toNat / 64 == b.dst.toNat / 64

/-- The reads at other packages that a block needs: place in the block and bytes, each of neighbouring bytes of one 64-byte block. -/
def farReads (l : List CopyPair) : List (Nat × Nat × CopyPair) :=
  (((List.range l.length).zip l).foldl (fun (acc : List (Nat × Nat × CopyPair)) x =>
    if !(trPlace x.2.srcTr).isRemote then acc
    else
      match acc with
      | (i, n, b) :: r =>
        if i + n = x.1 ∧ x.2.src = b.src + BitVec.ofNat 64 n ∧ x.2.src.toNat / 64 = b.src.toNat / 64 then (i, n + 1, b) :: r
        else (x.1, 1, x.2) :: acc
      | [] => [(x.1, 1, x.2)]) []).reverse

/-- Is a destination word that begins at w still to get bytes, from number n of the copy order on? The rest of n's row is looked at, then
every row after it at once: a row whose distance from the first, a multiple of the stride, brings it over the word. -/
def wordComes (sh : List Word) (n w : Nat) : Bool :=
  let len := shd sh 2
  let rows := shd sh 3 * shd sh 4
  let st := sx (shd sh 7) 64
  let r := n / len
  let lo : Int := w - shd sh 1
  let later : Bool :=
    if st = 0 then decide (r + 1 < rows) && decide (lo < len) && decide (-8 < lo)
    else
      let (d, a, b) : Int × Int × Int := if 0 < st then (st, lo - len, lo + 8) else (-st, -lo - 8, len - lo)
      let k := max ((r : Int) + 1) (a / d + 1)
      decide (k < rows) && decide (d * k < b)
  (decide (r < rows) && decide (st * r + (n % len : Nat) < lo + 8) && decide (lo < st * r + len)) || later

/-- Bytes with those of the same destinations among new ones replaced. -/
def keepBytes (old new : List CopyByte) : List CopyByte :=
  new.foldl (fun l b => l.filter (fun x => x.dst != b.dst) ++ [b]) old

/-- The bytes of one 64-byte block of destinations, in the order of their addresses from the lowest on; none for a byte that stays. -/
def maskedBytes (l : List CopyByte) : Nat × List (Option Byte) :=
  let at' := fun (o : Nat) => (l.find? fun x => x.dst.toNat % 64 == o).map (·.byte)
  let used := (List.range 64).filter fun o => (at' o).isSome
  let lo := used.headD 0
  (lo, ((List.range 64).drop lo).take (used.getLastD 0 + 1 - lo) |>.map at')

/-- The stores that write bytes, one for each 64-byte block: the first byte of the copy order in it, its lowest byte's address and place,
and its bytes. -/
def copyStores (l : List CopyByte) : List (Nat × Word × Place × List (Option Byte)) :=
  (l.map fun b => b.dst.toNat / 64).eraseDups.map fun k =>
    let mine := l.filter fun b => b.dst.toNat / 64 == k
    let (lo, d) := maskedBytes mine
    let first := (mine.find? fun b => b.dst.toNat % 64 == lo).map fun b => (b.dst, b.place)
    (mine.foldl (fun m b => min m b.ord) ((mine.head?.map (·.ord)).getD 0), (first.map (·.1)).getD 0, (first.map (·.2)).getD .hole, d)

/-- Has the port performed what it had accepted before the launch, at the banks of these places (R158)? -/
def copyMayTouch (s : State) (op : CopyOp) (ps : List Place) : Bool :=
  !(s.flight.any fun a => op.after.contains a.id && a.ans.isNone && !a.isHeld && ps.any fun p => p.bank == a.place.bank)

/-- The engine's accesses of an operation that are still out. -/
def copyOut (s : State) (op : CopyOp) : Bool :=
  s.issued.any (fun a => a.op == op.id && a.thr.isNone) || s.flight.any fun a => a.op == op.id && a.thr.isNone

/-- Issue an access of the engine at another package. -/
def copyAccess (s : State) (ck : Nat) (op : CopyOp) (va : Word) (p : Place) (k : AccKind) : Nat × State :=
  s.unitAccess op.id ck op.tenant va p k

/-- The answers that a block awaits are no longer needed. -/
def dropAnswers (s : State) (op : CopyOp) : State :=
  { s with replies := op.await.foldl (fun r w => FMap.erase r w.1) s.replies }

/-- Replace the head of a queue. -/
def setHead (s : State) (ck q : Nat) (op : CopyOp) : State :=
  match s.cpQueue ck q with
  | _ :: r => s.setQueue ck q (op :: r)
  | [] => s

def popHead (s : State) (ck q : Nat) : State := s.setQueue ck q ((s.cpQueue ck q).drop 1)

/-- The status entry of a running operation at an offset. -/
def setRunning (s : State) (ck q : Nat) (op : CopyOp) : State :=
  s.setStat ck { xid := op.xid, offset := op.offset, cause := 0, queue := q, st := .running, far := op.far }

/-- A user interrupt for a thread; false where its list is full (R295). -/
def pushUint (s : State) (t : Nat) (op : CopyOp) : Bool × State :=
  if 16 ≤ (s.thr t).uiPend.length then (false, s)
  else (true, s.updThr t fun h =>
    { h with uiPend := h.uiPend ++ [(BitVec.ofNat 32 (shd op.shadows 10), BitVec.ofNat 16 op.xid)] })

/-- The operation stops with a cause at its offset: FAULTED, a COPY message, and for UINT the interrupt (R293).
DEDUCED, log entry 39. -/
def copyFaulted (s : State) (ck q : Nat) (op : CopyOp) (cause : Nat) (va : Word) (outside : Option Nat) : State :=
  let src := s.loc (ck * 64 + op.thread.getD 0)
  let s := s.logOutside va op.tenant src outside
  let s := s.setStat ck { xid := op.xid, offset := op.offset, cause := cause, queue := q, st := .faulted, far := op.far }
  let s := s.notice op.tenant 0x14 op.xid src va (BitVec.ofNat 64 op.offset)
  match copyKind op.shadows, op.thread with
  | 1, some t =>
    match s.pushUint (ck * 64 + t) op with
    | (true, s) => s.popHead ck q
    | (false, s) => s.setHead ck q { op with settled := true, started := true }
  | _, _ => s.popHead ck q

/-- A fence entry is passed when it heads every queue it names (R292). -/
def fencePasses (s : State) (ck : Nat) (f : CopyOp) (m : BitVec 8) : Bool :=
  (maskQueues m).all fun q => ((s.cpQueue ck q).head?.map (·.id)) == some f.id

/-- Has every read that the next block awaits been answered? -/
def copyAnswered (s : State) (op : CopyOp) : Bool := op.await.all fun w => (FMap.find? s.replies w.1).isSome

/-- The cause where the answer for the first byte of the next block brings none: a bad word, or a package that has become absent. -/
def copyBadFirst (s : State) (op : CopyOp) : Option Nat :=
  match op.await with
  | (id, 0, _) :: _ => (match FMap.get ([], none) s.replies id with
    | ([], some poison) => some (if poison then 0x12 else 0x07)
    | ([], none) => some 0x06
    | _ => none)
  | _ => none

/-- What stops a transfer at its next byte, once the reads for its block have been answered: cause, address, and the target of a window
violation; a store of it to a position that has become absent before all (R396). -/
def copyStops (s : State) (op : CopyOp) (bs : List CopyPair) : Option (Nat × Word × Option Nat) :=
  match op.stop, bs with
  | some va, _ => some (0x06, va, none)
  | none, [] => none
  | none, b :: _ => (s.byteFault b).or ((s.copyBadFirst op).map fun c => (c, b.src, none))

/-- May the head transfer of a queue go on: not cancelled or settled, its awaited reads answered, earlier accesses at its banks
performed, and, where it stops, its earlier writes acknowledged (R158, R293)? -/
def copyMayMove (s : State) (ck : Nat) (op : CopyOp) : Bool :=
  let bs := s.copyBlock ck op
  !op.cancel && !op.settled && (op.stop.isSome || decide (op.offset < copyTotal op.shadows)) && s.copyAnswered op &&
  s.copyMayTouch op (bs.flatMap fun b => [trPlace b.srcTr, trPlace b.dstTr]) && ((s.copyStops op bs).isNone || !s.copyOut op)

/-- Byte i of a block: read here, or from the answer that brings it; none from the first bad word of an answer on. -/
def copyData (s : State) (op : CopyOp) (i : Nat) (b : CopyPair) : Option Byte :=
  match op.await.find? fun w => decide (w.2.1 ≤ i) && decide (i < w.2.1 + w.2.2) with
  | some (id, j, _) => (FMap.get ([], none) s.replies id).1[i - j]?
  | none => (s.readAny (trPlace b.srcTr) 1).head?

/-- Write bytes: to their places here, or by a store to another package for each 64-byte block. -/
def copyPut (s : State) (ck q : Nat) (op : CopyOp) (l : List CopyByte) : State :=
  let (s, op) := (copyStores l).foldl (fun (x : State × CopyOp) w =>
    if w.2.2.1.isRemote then
      let (id, s) := x.1.copyAccess ck op w.2.1 w.2.2.1 (.masked w.2.2.2)
      (s, { x.2 with out := x.2.out ++ [(id, w.1)] })
    else (x.1.writeMasked w.2.2.1 w.2.2.2, x.2)) (s, op)
  s.setHead ck q op

/-- A block has been read, n bytes of it are good: it is written with what was kept for its words, but for the bytes of words that get more
bytes later, which are kept, so that no word ever holds a part of its new value (R297). -/
def copyWrite (s : State) (ck q : Nat) (op : CopyOp) (bs : List CopyPair) (data : List Byte) : State :=
  let new := ((List.range data.length).zip (bs.zip data)).map fun (x : Nat × CopyPair × Byte) =>
    ({ ord := op.offset + x.1, dst := x.2.1.dst, place := trPlace x.2.1.dstTr, byte := x.2.2 } : CopyByte)
  let (stay, go) := (keepBytes op.kept new).partition fun b =>
    wordComes op.shadows (op.offset + data.length) (b.dst.toNat / 8 * 8)
  let op := { op with kept := stay, offset := op.offset + data.length, started := true, await := [] }
  (s.setRunning ck q op).copyPut ck q op go

/-- What is kept is written: the operation ends before the words are whole (R291, R293). -/
def copyFlush (s : State) (ck q : Nat) (op : CopyOp) : State := s.copyPut ck q { op with kept := [] } op.kept

/-- Issue the reads that a block needs at other packages. -/
def copyAsk (s : State) (ck q : Nat) (op : CopyOp) (l : List (Nat × Nat × CopyPair)) : State :=
  let (s, op) := l.foldl (fun (x : State × CopyOp) r =>
    let (id, s) := x.1.copyAccess ck op r.2.2.src (trPlace r.2.2.srcTr) (.load r.2.1)
    (s, { x.2 with await := x.2.await ++ [(id, r.1, r.2.1)] })) (s, { op with started := true })
  (s.setHead ck q op).setRunning ck q op

/-- One block of a transfer is moved, or its reads at other packages are sent, or the transfer stops at its first byte (R286, R293). -/
def copyMove (s : State) (ck q : Nat) (op : CopyOp) : State :=
  let s := { s with freeCount := s.freeCount + 1 }
  let all := s.copyBlock ck op
  match s.copyStops op all with
  | some (c, va, o) => if op.kept = [] then (s.dropAnswers op).copyFaulted ck q op c va o else s.copyFlush ck q op
  | none =>
    let good := all.takeWhile fun b => (s.byteFault b).isNone
    let op := { op with far := op.far || good.any fun b => (trPlace b.srcTr).isRemote || (trPlace b.dstTr).isRemote }
    if op.await = [] ∧ farReads good ≠ [] then s.copyAsk ck q op (farReads good)
    else
      let data := (((List.range good.length).zip good).map fun x => s.copyData op x.1 x.2).takeWhile (·.isSome)
      (s.dropAnswers op).copyWrite ck q op good (data.filterMap id)

end State

/-- COPY_OPERATION_START at queue State.subj = core key * 8 + queue: the operation at its head moves its next block, or a fence
that heads all its queues is passed. -/
def occCopyOperationStart (s : State) : Option State :=
  let ck := s.subj / 8
  let q := s.subj % 8
  match s.cpQueue ck q with
  | [] => none
  | op :: _ =>
    match op.fence with
    | some m =>
      if s.fencePasses ck op m then some ((maskQueues m).foldl (fun s q => s.popHead ck q) s)
      else none
    | none =>
      if op.cancel ∧ op.kept ≠ [] then some (s.copyFlush ck q op)
      else if s.copyMayMove ck op then some (s.copyMove ck q op) else none

def execCopyOperationStart (s : State) : Host.Outcome State Fault Refusal := s.happen (occCopyOperationStart s)

/-! ## Completion (R294) -/

namespace State

/-- Is the head operation's movement over, with every write acknowledged, and room for the interrupt it still owes? -/
def copyEnds (s : State) (ck : Nat) (op : CopyOp) : Bool :=
  op.fence.isNone && !s.copyOut op && op.kept == [] && op.stop.isNone &&
  (op.cancel || op.settled || decide (copyTotal op.shadows ≤ op.offset)) &&
  (!op.settled || (match op.thread with | some t => decide ((s.thr (ck * 64 + t)).uiPend.length < 16) | none => true))

/-- The conjunction arrival of a finished copy at the record at ARG (R294). -/
def copyArrival (s : State) (ck : Nat) (op : CopyOp) : State :=
  let arg : Word := BitVec.ofNat 64 (shd op.shadows 10)
  let src := s.loc (ck * 64 + op.thread.getD 0)
  let tr : Tr :=
    if arg.toNat % 64 ≠ 0 then .bad (alignF arg) none
    else if shd op.shadows 9 / 4 % 2 = 1 then
      (if 0x27FC0 < arg.toNat then .bad (protF arg) none else .ok (.buf ck .ulm arg.toNat) 0)
    else s.translateNow ck op.tenant arg .atomic
  match tr with
  | .ok p g =>
    if p.isRemote && !s.isPresent (g / 2 ^ 48 % 256) then s.conjCopyFault op.tenant src arg
    else
      let a : Access :=
        { id := s.nextId, core := ck, tenant := op.tenant, va := arg, place := p
          kind := .atomic (.copyArrive (shd op.shadows 9 / 2 ^ 32)) }
      let s := { s with nextId := s.nextId + 1 }
      if p.isRemote then { s with issued := s.issued ++ [a] } else { s with flight := s.flight ++ [a] }
  | _ => s.conjCopyFault op.tenant src arg

/-- The action of a finished copy; false where it must wait for a pending interrupt to be taken (R294, R295). -/
def copyAction (s : State) (ck : Nat) (op : CopyOp) : Bool × State :=
  match copyKind op.shadows, op.thread with
  | 1, some t => s.pushUint (ck * 64 + t) op
  | 2, _ => (true, s.copyArrival ck op)
  | 3, _ => (true, s.decrement ck op.tenant (shd op.shadows 10) (s.loc (ck * 64 + op.thread.getD 0)))
  | _, _ => (true, s)

/-- A COPY node retires once its action is performed: the operations from number n on (R298). -/
def copyNodeDone (s : State) (ck : Nat) (op : CopyOp) (n : Nat) : State :=
  match op.node with
  | some i => s.updDie (ck / 512) fun d =>
      { d with copyDone := d.copyDone ++ [{ tenant := op.tenant, index := i, after := (List.range (s.nextId - n)).map (n + ·) }] }
  | none => s

end State

/-- COPY_COMPLETION at queue State.subj: the operation at its head is DONE and its action is performed, or it is
CANCELLED. -/
def occCopyCompletion (s : State) : Option State :=
  let ck := s.subj / 8
  let q := s.subj % 8
  match s.cpQueue ck q with
  | [] => none
  | op :: _ =>
    if !s.copyEnds ck op then none
    else if op.cancel && !op.settled then
      some (((s.dropAnswers op).setStat ck
        { xid := op.xid, offset := op.offset, cause := 0, queue := q, st := .cancelled, far := op.far }).popHead ck q)
    else
      let s := if op.settled then s
        else s.setStat ck { xid := op.xid, offset := op.offset, cause := 0, queue := q, st := .done, far := op.far }
      match s.copyAction ck op with
      | (true, s') => some ((s'.popHead ck q).copyNodeDone ck op s.nextId)
      | (false, s) => some (s.setHead ck q { op with settled := true })

def execCopyCompletion (s : State) : Host.Outcome State Fault Refusal := s.happen (occCopyCompletion s)

/-! ## User interrupts (R295, R296) -/

/-- May a thread take its oldest pending interrupt before its next bundle? -/
def uintReady (h : Thread) : Bool :=
  h.uiPend != [] && h.st == .run && h.wait == [] && !h.unsettled && h.halting.isNone && h.stopAsk.isNone && !h.uiIn &&
    h.grole == 0

/-- USER_INTERRUPT_TAKE at thread State.subj. -/
def occUserInterruptTake (s : State) : Option State :=
  let h := s.thr s.subj
  match h.uiPend with
  | (hpc, xid) :: r =>
    if !uintReady h then none
    else
      some ((s.updThr s.subj fun h =>
        { h with uipc := h.pc, uixid := xid, uiIn := true, uiHpc := hpc, uiPend := r }).goTo s.subj (hpc.setWidth 64))
  | [] => none

def execUserInterruptTake (s : State) : Host.Outcome State Fault Refusal := s.happen (occUserInterruptTake s)

def execUiret (s : State) : Host.Outcome State Fault Refusal :=
  performE s .uiret fun s =>
    if !s.me.uiIn then .error (copyF 0x05)
    else .ok ((s.updThr s.cur fun h => { h with uiIn := false }).updThr s.cur fun h => { h with npc := h.uipc.setWidth 64 })

end Sys2Proof.Machine
end

