-- ==== Sys2Proof/Machine/Fabric.lean ====
section
/-! DEFINITION. The Stewyn link (R300 to R305, R314 to R318): forming segments, arriving segments, retransmission, rekeying,
ports that stop or fail, and the ingress of each die. -/

namespace Sys2Proof.Machine

open Sys2Proof

/-! ## Sending segments (R314, R315) -/

/-- The flits of a segment at most. -/
def segFlits : Nat := 32

/-- The packets of the next segment: whole packets of at most that many flits in all. -/
def segmentTake : Nat → List Packet → List Packet
  | _, [] => []
  | room, k :: r => if msgFlits k.msg ≤ room then k :: segmentTake (room - msgFlits k.msg) r else []

/-- The number of segments that carry a packet. -/
def packetParts (k : Packet) : Nat := (msgFlits k.msg + segFlits - 1) / segFlits

/-- The counter value that the sender never uses. -/
def segLast : Nat := 2 ^ 48 - 1

/-- The counter value at which the sender starts an exchange. -/
def segRekey : Nat := 2 ^ 48 - 2 ^ 40

/-- The nonce of a segment: the sender's position, the port, the counter (R314). -/
def segNonce (pkg port ctr : Nat) : BitVec 96 := BitVec.ofNat 96 (pkg * 2 ^ 88 + port % 32 * 2 ^ 83 + ctr)

/-- Send packets, or a part of one, as one segment of port n of a package; what it repeats, where it repeats a failed one. -/
def Port.sendSegment (p : Port) (pkg n : Nat) (ks : List Packet) (part : Option (Packet × Nat × Nat)) (again : Option Nat) : Port :=
  let g : Segment :=
    { ctr := p.segctr, nonce := segNonce pkg n p.segctr, key := p.key, first := p.first, tagOk := true, packets := ks, part := part
      again := again, confirm := [] }
  { p with segctr := p.segctr + 1, first := false, unconfirmed := p.unconfirmed ++ [g], wire := p.wire ++ [g] }

/-- The block of memory that a message is for. -/
def blockOf : NetMsg → Option Nat
  | .store _ _ g _ _ | .masked _ _ g _ | .atomic _ _ g _ _ _ | .copyRead _ _ g _ => some (g / 64)
  | _ => none

/-- Must a packet stay behind another: one of the same class and lane (R303), or from the same package to the same block (R149)? -/
def follows (k j : Packet) : Bool :=
  (k.cls == j.cls && k.hops == j.hops) || (k.src == j.src && (blockOf k.msg).isSome && blockOf k.msg == blockOf j.msg)

/-- Is the peer of a port out of room for a class and lane: as many packets sent as it takes without returning a credit (R303)? It always
takes RSP. DESIGN CHOICE, log entry 122. -/
def noCredit (owed : List (LinkClass × Nat)) (cls : LinkClass) (lane : Nat) : Bool :=
  let n := (owed.filter fun x => x == (cls, lane)).length
  cls != .rsp && n != 0 && decide (Config.laneCredit ≤ n)

/-- The packets of a send queue that may leave, in order: those for which the peer has room, and that stand behind none that waits for it. -/
def freePackets (owed : List (LinkClass × Nat)) (q : List Packet) : List Packet :=
  (q.foldl (fun (x : List Packet × List Packet) k =>
    if x.1.any (follows k) || noCredit (owed ++ x.2.map fun j => (j.cls, j.hops)) k.cls k.hops then (x.1 ++ [k], x.2)
    else (x.1, x.2 ++ [k])) ([], [])).2

/-- One cycle of a port: an UP port with something to send, and room for it at its peer, sends a segment. DEDUCED, log entry 54. -/
def Port.cycle (p : Port) (pkg n : Nat) : Port :=
  if p.st ≠ .up ∨ segLast ≤ p.segctr then p
  else
    match if p.sent = 0 then freePackets p.owed p.queue else p.queue with
    | [] => p
    | k :: r =>
      if 1 < packetParts k then
        let rest := p.queue.erase k
        let p' := if p.sent + 1 < packetParts k then { p with sent := p.sent + 1, queue := k :: rest } else { p with sent := 0, queue := rest }
        ({ p' with owed := if p.sent = 0 then p.owed ++ [(k.cls, k.hops)] else p.owed } : Port).sendSegment pkg n []
          (some (k, p.sent, packetParts k)) none
      else
        let ks := segmentTake segFlits (k :: r)
        ({ p with queue := p.queue.filter fun j => !ks.contains j, owed := p.owed ++ ks.map fun j => (j.cls, j.hops) } : Port).sendSegment
          pkg n ks none none

/-- The packets of a segment, one of which it may carry a part. -/
def carried (g : Segment) : List Packet := g.packets ++ (g.part.map (·.1)).toList

/-- The access that a message carries: its source core and number. -/
def accessOf : NetMsg → Option (Loc × Nat)
  | .store l id _ _ _ | .masked l id _ _ | .atomic l id _ _ _ _ | .copyRead l id _ _ => some (l, id)
  | _ => none

/-- The packet of an access to another package. -/
def accessMsg (src : Loc) (a : Access) (g : Nat) : NetMsg :=
  match a.kind with
  | .store d => .store src a.id g d a.ord
  | .masked d => .masked src a.id g d
  | .atomic op => .atomic src a.id g op a.acq a.posted
  | .load n => .copyRead src a.id g n

namespace State

/-- The access of this package that a packet carries. -/
def ownAccess (s : State) (k : Packet) : Option Access :=
  (accessOf k.msg).bind fun x => if x.1.pkg = s.pkg then s.flight.find? fun a => a.id == x.2 else none

/-! ## Absent positions (R396, R403) -/

/-- A packet that has still to leave is for a position that has become absent: an access of this package has its outcome; that of another
package is sent word of it; contributions and commands are answered NOSLOT; threads, strips and messages have outcomes of their own, and an
answer goes nowhere (R396; DESIGN CHOICE, log entry 107). -/
def absentPacket (s : State) (k : Packet) : State :=
  match accessOf k.msg, s.ownAccess k, k.msg with
  | some _, some a, _ => (match a.place with | .remote g => s.toAbsent a g | _ => s)
  | some (l, id), none, _ => if l.pkg = s.pkg then s else s.post l.pkg (.atomicAns l id .prot 0)
  | none, _, .contribution c => s.receipt c.src c.reg (bareReceipt 6)
  | none, _, .mcmd m => s.receipt m.src m.reg (bareReceipt 6)
  | none, _, .mig .. | none, _, .goHome .. | none, _, .recall .. | none, _, .strip _ | none, _, .cmsg _ | none, _, .raw _
  | none, _, .faultMsg .. => s.send k.msg
  | none, _, _ => s

/-! ## Packets that find another way (R302, R315, R318) -/

/-- The next hop of a packet on the way that its source has chosen, over its port or over a detour through the first package that can pass it
on, so that the packets of a block keep to one way; but never beyond three hops in all (R302). DEDUCED, log entry 20. -/
def hopOn (s : State) (hop : Nat) (route : List Nat) : Option (Nat × List Nat) :=
  match route with
  | [] => none
  | z :: rest =>
    ((s.hopTo z true).filter fun r => r.2.length == 1 || decide (hop + r.2.length + rest.length ≤ 4)).map fun r => (r.1, r.2 ++ rest)

/-- The way of a packet taken back from a port: its source's own choice here, and on the way the next hop. -/
def strandedWay (s : State) (k : Packet) : Option (Nat × List Nat) :=
  (if k.src = s.pkg then
    match (s.ownAccess k).map fun a => (a.core, a.place) with
    | some (c, .remote g) => s.freeRoute c g k.ord
    | _ => s.chooseRoute k.dst k.ord
   else s.hopOn k.hops k.route).filter fun r => s.hasRoom r.1 k.msg

/-- A packet goes over another route, which the access that it carries remembers. -/
def sendOver (s : State) (k : Packet) (r : Nat × List Nat) : State :=
  let s' := s.updPort r.1 fun p => { p with queue := p.queue ++ [{ k with route := r.2.drop 1 }] }
  match s.ownAccess k with
  | some a => { s' with flight := s'.flight.map fun b => if b.id = a.id then { b with via := some r } else b }
  | none => s'

/-- Must a packet stay behind one that has still to find a way: one from the same package to the same, of its class, of its block, or `.ord`
like it (R149, R155, R303)? -/
def staysBehind (k j : Packet) : Bool :=
  k.src == j.src && k.dst == j.dst && (k.cls == j.cls || (k.ord && j.ord) || ((blockOf k.msg).isSome && blockOf k.msg == blockOf j.msg))

/-- The packets taken back from ports are sent again over other ways, in their original order. -/
def drainStranded (s : State) : State :=
  let (s, kept) := s.stranded.foldl (fun (x : State × List Packet) k =>
    if !x.1.isPresent k.dst then (x.1.absentPacket k, x.2)
    else if x.2.any (staysBehind k) then (x.1, x.2 ++ [k])
    else
      match x.1.strandedWay k with
      | some r => (x.1.sendOver k r, x.2)
      | none => (x.1, x.2 ++ [k])) ({ s with stranded := [] }, [])
  { s with stranded := kept }

/-- Packets are taken back from port n, and sent again as they find a way: their accesses have no route until then. -/
def strand (s : State) (n : Nat) (ks : List Packet) : State :=
  let ids := (ks.filterMap s.ownAccess).map (·.id)
  let z := s.peer n
  ({ s with
    stranded := s.stranded ++ ks.map fun k => { k with route := z :: k.route }
    flight := s.flight.map fun a => if ids.contains a.id then { a with via := none } else a } : State).drainStranded

/-- The packets queued at a port go to the detour routes (R315). -/
def reroute (s : State) (n : Nat) : State :=
  let q := (s.port n).queue
  (s.updPort n fun p => { p with queue := [], sent := 0 }).strand n q

/-- A port goes DOWN: its unconfirmed segments, then its queue, go to the detour routes in their original order; what its receiver still
holds is dropped, since it is not confirmed (R318). -/
def portFails (s : State) (n : Nat) : State :=
  let p := s.port n
  let ks := (p.unconfirmed.flatMap carried ++ p.queue).eraseDups
  ((s.updPort n fun p =>
    { p with st := .down, unconfirmed := [], queue := [], sent := 0, failures := 0, resends := 0, order := [], checking := []
             parts := [], owed := [], early := [] }).tracePorts s).strand n ks

/-- A position has become absent: what is queued for it, here or on its way through, does not leave (R403). -/
def purge (s : State) (position : Nat) : State :=
  (List.range 32).foldl (fun s n =>
    let p := s.port n
    let gone := p.queue.filter fun k => k.dst == position
    let cut := p.sent ≠ 0 ∧ (p.queue.head?.any fun k => k.dst == position)
    gone.foldl absentPacket (s.updPort n fun p =>
      { p with queue := p.queue.filter fun k => k.dst != position, sent := if cut then 0 else p.sent })) s |>.drainStranded

/-! ## Arriving segments (R316, R317) -/

/-- Give packets to the ingress of port n; a counter where their segment's tag is still to check. -/
def toIngress (s : State) (n : Nat) (ks : List Packet) (unchecked : Option Nat) : State :=
  ks.foldl (fun s k =>
    { s with ingress := s.ingress ++ [{ id := s.nextId, port := n, pkt := k, unchecked := unchecked }], nextId := s.nextId + 1 }) s

/-- Does a cut-through port pass a packet on before the tag has checked: a store of this package's memory (R316)? What it would forward to
another package waits for the tag (DEDUCED, log entry 45). -/
def passedOn (s : State) (k : Packet) : Bool :=
  decide (k.dst = s.pkg) && (match k.msg with | .store .. | .masked .. => true | _ => false)

/-- The free slot numbers of a source of a communicator (R323). -/
def freeSlotsOf (r : CommReg) (source : Nat) : List Nat :=
  (List.range 8).filter fun j => !(r.slots.any fun x => x.src == source && x.slot == j)

/-- The lowest of them: R323 says a free slot (DESIGN CHOICE, log entry 134). -/
def freeSlotOf (r : CommReg) (source : Nat) : Option Nat := (freeSlotsOf r source).head?

/-- ULM offset of slot j of a source. -/
def slotAt (r : CommReg) (source j : Nat) : Nat := r.buf + (8 * (r.src.findIdx fun q => q == source) + j) * r.msz

/-- Is the tenant of a core away, or does a message carry the token of one that has been saved from it, whoever has the cluster now (R333)? -/
def tenantAway (s : State) (ck : Nat) (capt : Word) : Bool :=
  (s.holder ck).any (·.2.2) || s.saved.any fun x => x.cores.any fun c => c.1 == ck && c.2.capt == capt

/-- Does a message carry the token of the tenant of its target's cluster (R320)? -/
def tokenOk (s : State) (ck : Nat) (capt : Word) : Bool := (s.core ck).assigned && (s.core ck).capt == capt

/-- The registration that a message is for, where it is taken: its token, communicator and source are right, and its instance is not over
(R323). -/
def commFor (s : State) (m : CMsg) : Option CommReg :=
  let ck := locCore m.dst
  if s.tenantAway ck m.capt || !s.tokenOk ck m.capt then none
  else ((s.core ck).comm.regs.find? fun r => r.comm == m.comm && r.src.contains m.rank).filter fun r =>
    let d := sx (m.inst + 2 ^ 20 - r.inst) 20
    decide (0 < d) || (decide (d = 0) && (s.core ck).comm.current == some r.addr)

/-- The collective messages of a source that have come and are not written yet, those of the given packets among them. -/
def msgsAhead (s : State) (m : CMsg) (ks : List Packet) : Nat :=
  let like := fun (x : NetMsg) => match x with
    | .cmsg q => q.dst == m.dst && q.comm == m.comm && q.rank == m.rank
    | _ => false
  ((s.net.map (·.msg) ++ s.ingress.map (·.pkt.msg) ++ ks.map (·.msg)).filter like).length

/-- The bytes of a packet's payload that a part of it carries: from and to. -/
def partBytes : Option (Nat × Nat) → Nat × Nat
  | some (i, _) => (2048 * i - 16, 2048 * (i + 1) - 16)
  | none => (0, 2 ^ 20)

/-- Where a cut-through port writes the payload of a message, or of a part of it, as it arrives: a collective message to the free slot that it
will take behind the messages of its source that are on their way (R316, R323), a strip to the ghost cells, where it would be installed at
once (R270). Raw messages and fault messages, which their units queue whole, wait for the tag (DEDUCED, log entry 45). -/
def payloadWrites (s : State) (ks : List Packet) (k : Packet) (part : Option (Nat × Nat)) : List (Place × List Byte) :=
  let (lo, hi) := partBytes part
  match k.msg with
  | .cmsg m =>
    match (s.commFor m).bind fun r => ((freeSlotsOf r m.rank)[s.msgsAhead m ks]?).map fun j => slotAt r m.rank j with
    | some o => [(.buf (locCore m.dst) .ulm (o + lo), slice m.data lo (hi - lo))]
    | none => []
  | .strip p =>
    let ck := locCore p.dst
    let ahead := (s.net.map (·.msg) ++ s.ingress.map (·.pkt.msg) ++ ks.map (·.msg)).any fun x => match x with
      | .strip q => q.dst == p.dst && q.gid == p.gid
      | _ => false
    match s.stripGrid p with
    | some g =>
      if ahead || !installs g p || s.heldStrips.any fun q => q.dst == p.dst && q.gid == p.gid then []
      else ((stripCells g p).filter fun c => decide (lo ≤ 4 * c.1) && decide (4 * c.1 < hi)).map fun c =>
        (.buf ck g.desc.space c.2.1, leBytes g.desc.e c.2.2.1.toNat)
    | none => []
  | _ => []

/-- A cut-through port writes the payloads of a segment's messages for this package as they arrive. -/
def writeEarly (s : State) (n : Nat) (g : Segment) : State :=
  let l := (g.packets.map fun k => (k, none)) ++ (g.part.map fun x => (x.1, some x.2)).toList
  (l.foldl (fun (x : State × List Packet) e =>
    let s := x.1
    let k := e.1
    let w := if k.dst = s.pkg then s.payloadWrites x.2 k e.2 else []
    ((w.foldl (fun s y => s.writeMem y.1 y.2) s).updPort n fun p =>
      { p with early := p.early ++ w.map fun y => (k.src, k.seq, y.1, y.2.length) }, x.2 ++ [k])) (s, [])).1

/-- The words that a cut-through port has written from a segment whose tag failed are poisoned, and each tenant that owns such
words is told (R317): by packet, place, length and, for the message, physical address. -/
def poisonWritten (s : State) (n : Nat) (l : List (Nat × Nat × Place × Nat)) : State :=
  let addr := fun (p : Place) => match p with
    | .dm a => s.pkg * 2 ^ 48 + a
    | .buf c .wb o => s.windowAddr c (0x100000 + o)
    | .buf c .ab o => s.windowAddr c (0x200000 + o)
    | .buf c _ o => s.windowAddr c o
    | _ => 0
  let owner := fun (p : Place) => match p with
    | .dm a => s.ownerOf (s.pkg * 2 ^ 48 + a)
    | .buf c _ _ => if (s.core c).assigned then some (s.core c).tenant else none
    | _ => none
  let s := l.foldl (fun s x => s.spoil x.1 x.2.1 x.2.2.1 x.2.2.2) s
  (List.range 16).foldl (fun s t =>
    match l.find? fun x => owner x.2.2.1 == some t with
    | some x => s.notice t 0x12 0x01 { pkg := s.pkg, die := n / 4, core := 0, thread := 0 } (BitVec.ofNat 64 (addr x.2.2.1)) 0
    | none => s) s

/-- A packet of which a part has come: the packet, once all parts have. -/
def addPart (s : State) (n : Nat) (k : Packet) (i m : Nat) : State × List Packet :=
  let have' := ((s.port n).parts ++ [(k.src, k.seq, i)]).eraseDups
  let mine := fun (x : Nat × Nat × Nat) => x.1 == k.src && x.2.1 == k.seq
  if (have'.filter mine).length < m then (s.updPort n fun p => { p with parts := have' }, [])
  else (s.updPort n fun p => { p with parts := have'.filter fun x => !mine x }, [k])

/-- The packets of a segment whose tag has checked are passed to the ingress, but those that a cut-through port has passed on, and the
segment is confirmed. -/
def releaseSegment (s : State) (n : Nat) (g : Segment) : State :=
  let (s, whole) := match g.part with
    | some (k, i, m) => s.addPart n k i m
    | none => (s, [])
  (s.toIngress n (g.packets ++ whole) none).addOut (.confirmed n g.ctr)

/-- The stores that a port has passed on from a segment, whose tag has checked: each is acknowledged, once performed by its bank as well
(R316). -/
def farStoreDone (s : State) (a : Access) : State :=
  let s := { s with flight := s.flight.filter fun b => b.id != a.id }
  match a.back with
  | some (l, id) => s.post l.pkg (.bankAck l id)
  | none => s

def confirmStores (s : State) (n ctr : Nat) : State :=
  let mine := s.flight.filter fun a => a.unchecked == some (n, ctr)
  let s := { s with
    ingress := s.ingress.map fun i => if i.port = n ∧ i.unchecked = some ctr then { i with unchecked := none } else i
    flight := s.flight.map fun a => if a.unchecked = some (n, ctr) then { a with unchecked := none } else a }
  mine.foldl (fun s a =>
    let s := match a.back with
      | some (l, id) => s.post l.pkg (.routeAck l id)
      | none => s
    if a.ans.isSome then s.farStoreDone a else s) s

/-- The runs of bytes that a store has written: place and length. -/
def writtenRuns (a : Access) : List (Place × Nat) :=
  match a.kind with
  | .store d => [(a.place, d.length)]
  | .masked d => (maskRuns 0 d).map fun r => (a.place.plus r.1, r.2.length)
  | _ => []

/-- What a port has passed on from a segment whose tag has failed: what no bank has performed is discarded, what is written is
poisoned. -/
def withdrawStores (s : State) (n : Nat) (g : Segment) : State :=
  let mine := s.flight.filter fun a => a.unchecked == some (n, g.ctr)
  let written := (mine.filter fun a => a.ans.isSome).flatMap fun a =>
    (writtenRuns a).map fun w => ((a.pkt.getD (0, 0)).1, (a.pkt.getD (0, 0)).2, w.1, w.2)
  let early := (s.port n).early
  let s := { s with
    ingress := s.ingress.filter fun i => !(i.port == n && i.unchecked == some g.ctr)
    flight := s.flight.filter fun a => a.unchecked != some (n, g.ctr) }
  (s.updPort n fun p => { p with early := [] }).poisonWritten n (written ++ early)

/-- A tag has failed: the segment is asked for again, and what comes after it waits for it; after three in a row the port is DOWN at both
ends (R317, R318). -/
def tagFails (s : State) (n : Nat) (g : Segment) : State :=
  let p := s.port n
  if 3 ≤ p.failures + 1 then (s.addOut (.portDown n)).portFails n
  else
    let gap := fun (o : List (Nat × Option Segment)) =>
      match g.again with
      | some c => if o.any fun e => e.1 == c then o.map fun e => if e.1 = c then (g.ctr, none) else e else o ++ [(g.ctr, none)]
      | none => o ++ [(g.ctr, none)]
    (s.updPort n fun p => { p with failures := p.failures + 1, order := gap p.order }).addOut (.retransmit n g.ctr)

/-- Segments that stand before every one still missing are released, in order. -/
def releaseOrdered (s : State) (n : Nat) : State :=
  let o := (s.port n).order
  let ready := o.takeWhile fun e => e.2.isSome
  (ready.filterMap (·.2)).foldl (fun s g => s.releaseSegment n g) (s.updPort n fun p => { p with order := o.drop ready.length })

/-- A segment whose tag has checked: it takes the place of the failed one that it repeats, and waits behind what is still missing. -/
def tagChecks (s : State) (n : Nat) (g : Segment) : State :=
  let place := fun (o : List (Nat × Option Segment)) =>
    match g.again with
    | some c => if o.any fun e => e.1 == c then o.map fun e => if e.1 = c then (g.ctr, some g) else e else o ++ [(g.ctr, some g)]
    | none => o ++ [(g.ctr, some g)]
  (s.updPort n fun p => { p with failures := 0, order := place p.order }).releaseOrdered n

/-- The tags of the segments that a cut-through port has begun to pass on are checked. -/
def checkTags (s : State) (n : Nat) : State :=
  let gs := (s.port n).checking
  gs.foldl (fun s g =>
    if g.tagOk then
      let s := s.updPort n fun p => { p with early := [] }
      let rest := { g with packets := g.packets.filter fun k => !s.passedOn k }
      (s.confirmStores n g.ctr).tagChecks n rest
    else (s.withdrawStores n g).tagFails n g) (s.updPort n fun p => { p with checking := [] })

/-- The peer's confirmations: those segments need not be kept (R317). -/
def confirmed (s : State) (n : Nat) (cs : List Nat) : State :=
  if cs.isEmpty then s
  else s.updPort n fun p => { p with unconfirmed := p.unconfirmed.filter fun g => !cs.contains g.ctr, resends := 0 }

/-- The credits that the peer returns (R303). -/
def credited (s : State) (n : Nat) (l : List (LinkClass × Nat)) : State :=
  if l.isEmpty then s else s.updPort n fun p => { p with owed := l.foldl List.erase p.owed }

end State

/-- SEGMENT_ARRIVAL: the tag is checked, and the packets are passed to the ingress in the order of the segments, or the segment is asked
for again. A cut-through port passes stores on and writes the payloads of messages as they arrive, behind what it has passed on of earlier
segments, none of which may still be missing (R303), and checks the tag in the next cycle. DEDUCED, log entry 45. -/
def execSegmentArrival (port : Nat) (seg : Segment) (s : State) : Host.Outcome State Fault Refusal :=
  let p := s.port port
  if p.st = .down ∨ p.st = .spare then .next s
  else
    let s := ((s.checkTags port).confirmed port seg.confirm).credited port seg.credit
    if p.cut ∧ (s.port port).order = [] ∧ (s.port port).st ≠ .down then
      .next (((s.updPort port fun p => { p with checking := [seg] }).writeEarly port seg).toIngress port (seg.packets.filter s.passedOn)
        (some seg.ctr))
    else if seg.tagOk then .next (s.tagChecks port seg)
    else .next (s.tagFails port seg)

/-- RETRANSMIT_REQUEST: the segment is sent again, unchanged, under the next counter value, from a port that is UP and has one left, and keeps
its place among the unconfirmed ones; else it goes over the detour routes. After the third request in a row the receiver has marked the port
DOWN at both ends (R315, R317, R318). -/
def execRetransmitRequest (port ctr : Nat) (s : State) : Host.Outcome State Fault Refusal :=
  let p := s.port port
  match p.unconfirmed.find? fun u => u.ctr == ctr with
  | none => .next s
  | some u =>
    if 3 ≤ p.resends + 1 then .next (s.portFails port)
    else if p.st = .up ∧ p.segctr < segLast then
      let p' := p.sendSegment s.pkg port u.packets u.part (some ctr)
      let again := p'.unconfirmed.drop p.unconfirmed.length
      .next (s.updPort port fun _ =>
        { p' with resends := p.resends + 1, unconfirmed := p.unconfirmed.flatMap fun v => if v.ctr = ctr then again else [v] })
    else
      let whole := fun (g : Segment) => g.part.any fun x => u.part.any fun y => y.1 == x.1
      .next ((s.updPort port fun p =>
        { p with unconfirmed := p.unconfirmed.filter fun g => g.ctr != ctr && !whole g, resends := p.resends + 1 }).strand port (carried u))

/-! ## Keys (R314, R315) -/

/-- REKEY_START at port State.subj: the counter has reached the point at which the sender starts an exchange. -/
def occRekeyStart (s : State) : Option State :=
  let p := s.port s.subj
  if p.st = .up ∧ !p.rekey ∧ segRekey ≤ p.segctr then some (s.updPort s.subj fun p => { p with rekey := true })
  else none

def execRekeyStart (s : State) : Host.Outcome State Fault Refusal := s.happen (occRekeyStart s)

/-- PORT_STOP at port State.subj: no counter value is left; new and queued packets route around the port. -/
def occPortStop (s : State) : Option State :=
  let p := s.port s.subj
  if p.st = .up ∧ segLast ≤ p.segctr then some (((s.updPort s.subj fun p => { p with st := .stopped }).tracePorts s).reroute s.subj)
  else none

def execPortStop (s : State) : Host.Outcome State Fault Refusal := s.happen (occPortStop s)

/-- KEY_EXCHANGE_COMPLETE at port State.subj: a new key is installed, the counter restarts, and the port is UP (R301,
R315). -/
def occKeyExchangeComplete (s : State) : Option State :=
  let p := s.port s.subj
  if p.st = .spare ∨ 32 ≤ s.subj then none
  else some ((s.updPort s.subj fun p =>
    { p with st := .up, segctr := 0, key := p.key + 1, rekey := false, first := true, resends := 0 }).tracePorts s)

def execKeyExchangeComplete (s : State) : Host.Outcome State Fault Refusal := s.happen (occKeyExchangeComplete s)

/-- PORT_SPARE_REPLACEMENT: Finsin replaces a DOWN port by a spare, rewriting both entries (R301). -/
def occPortSpareReplacement (port spare : Nat) (s : State) : Option State :=
  let p := s.port port
  let q := s.port spare
  if p.st ≠ .down ∨ q.st ≠ .spare then none
  else
    let s' := s.updPort spare fun q =>
      { q with prow := p.prow, pcol := p.pcol, cut := p.cut, st := .up, segctr := 0, key := q.key + 1, first := true }
    some ((s'.updPort port fun p => { p with st := .spare }).tracePorts s)

def execPortSpareReplacement (port spare : Nat) (s : State) : Host.Outcome State Fault Refusal := s.happen (occPortSpareReplacement port spare s)

/-! ## The ingress (R147, R148, R303) -/

namespace State

/-- May an item be accepted: no earlier packet of its port and lane, or of its port and block, stands before it (R149, R303)? -/
def ingressReady (s : State) (i : IngressItem) : Bool :=
  !((s.ingress.takeWhile fun j => j.id != i.id).any fun j =>
    j.port == i.port && ((j.pkt.cls == i.pkt.cls && j.pkt.hops == i.pkt.hops) ||
      ((blockOf j.pkt.msg).isSome && blockOf j.pkt.msg == blockOf i.pkt.msg)))

/-- An access that a packet asks for at a bank of this package, in acceptance order. -/
def ingressAccess (s : State) (i : IngressItem) (seq : Nat) (src : Loc) (id gpa : Nat) (k : AccKind) (ord acq : Bool) : State :=
  let a : Access :=
    { id := s.nextId, part := seq, core := unitOf (i.port / 4), tenant := (s.ownerOf gpa).getD 16, va := BitVec.ofNat 64 gpa
      place := s.resolve gpa, kind := k, ord := ord, acq := acq, back := some (src, id)
      unchecked := i.unchecked.map fun c => (i.port, c), pkt := some (i.pkt.src, i.pkt.seq) }
  { s with nextId := s.nextId + 1, flight := s.flight ++ [a] }

/-- The next hop of a packet for another package, with what is left of the way; a port that is not UP is passed by a detour, and packets
that have still to find their way go first (R302). -/
def nextHop (s : State) (k : Packet) : Option (Nat × List Nat) :=
  if s.stranded.any (staysBehind k) then none
  else (s.hopOn (k.hops + 1) (if k.route = [] then [k.dst] else k.route)).map fun r => (r.1, r.2.drop 1)

/-- The room that an accepted packet has stood in is given back to the sender (R303). -/
def returnCredit (s : State) (i : IngressItem) : State :=
  if i.pkt.cls = .rsp then s else s.addOut (.credit i.port i.pkt.cls i.pkt.hops)

end State

/-- STEWYN_INGRESS_ACCEPT of the item State.subj: a packet for another package is forwarded when its port has room; one for this package is
accepted, acknowledged once its tag has checked, and passed on (R147, R148, R300, R302, R303). -/
def occStewynIngressAccept (s : State) : Option State :=
  match s.ingress.find? fun i => i.id == s.subj with
  | none => none
  | some i =>
    if !s.ingressReady i then none
    else
      let k := i.pkt
      let s' := ({ s with ingress := s.ingress.filter fun j => j.id != i.id } : State).returnCredit i
      if k.dst ≠ s.pkg then
        if !s.isPresent k.dst then some (s'.absentPacket k)
        else
        match (s.nextHop k).filter fun r => s.hasRoom r.1 k.msg with
        | some r => some (s'.updPort r.1 fun p => { p with queue := p.queue ++ [{ k with hops := k.hops + 1, route := r.2 }] })
        | none => none
      else
        let seq := s.ingressSeq + 1
        let s' := { s' with ingressSeq := seq }
        let ack := fun (s : State) (src : Loc) (id : Nat) => if i.unchecked.isSome then s else s.post src.pkg (.routeAck src id)
        match k.msg with
        | .store src id g d ord => some (ack (s'.ingressAccess i seq src id g (.store d) ord false) src id)
        | .masked src id g d => some (ack (s'.ingressAccess i seq src id g (.masked d) false false) src id)
        | .atomic src id g op acq _ => some (ack (s'.ingressAccess i seq src id g (.atomic op) false acq) src id)
        | .copyRead src id g n => some (s'.ingressAccess i seq src id g (.load n) false false)
        | m => some { s' with net := s'.net ++ [{ id := s'.nextId, msg := m, ingress := some (i.port / 4, seq), pkt := some (k.src, k.seq) }]
                              nextId := s'.nextId + 1 }

def execStewynIngressAccept (s : State) : Host.Outcome State Fault Refusal := s.happen (occStewynIngressAccept s)

/-! ## The ingress horizon (R148) -/

/-- Is every access performed at its bank that a packet accepted up to number n asks for? -/
def State.accessesDone (s : State) (n : Nat) : Bool :=
  !(s.flight.any fun a => a.back.isSome && decide (a.part ≤ n) && a.ans.isNone && a.held.isNone)

end Sys2Proof.Machine
end

