-- ==== Sys2Proof/Machine/Migration.lean ====
section
/-! DEFINITION. Migrating threads (R306 to R313): arriving at a package, making the access that was migrated for, returning home,
recalls, and HOME. -/

namespace Sys2Proof.Machine

open Sys2Proof

/-! ## Packets in transit -/

/-- Scheme INT by SUB. -/
def tyOfSub (sub : BitVec 4) : IntTy :=
  match sub.toNat % 8 with
  | 0 => .i8
  | 1 => .i16
  | 2 => .i32
  | 3 => .i64
  | 4 => .n8
  | 5 => .n16
  | 6 => .n32
  | _ => .n64

namespace State

/-- The item in transit with a number, where it is for this package. -/
def netHere (s : State) (id : Nat) : Option NetItem := s.net.find? fun i => i.id == id && msgDst i.msg == s.pkg

def netDrop (s : State) (id : Nat) : State := { s with net := s.net.filter fun i => i.id != id }

/-- The local tenant of guests from a package and tenant (R307). -/
def guestTenant (s : State) (home : Loc) (tenant : Nat) : Option Nat :=
  (s.guests.accept.find? fun e => e.1 == home.pkg && e.2.1 == tenant).map (·.2.2)

/-- Does a local tenant send its guests home: it is pre-empted or being pre-empted (R313)? -/
def sendsGuests (s : State) (n : Nat) : Bool := (s.tenant n).preempted || decide ((s.tenant n).stopping ≠ 0)

/-- Send a thread home. -/
def goHome (s : State) (p : MigPacket) (why : HomeWhy) : State :=
  (s.guestLeft p.home p.home.pkg p.visit).post p.home.pkg (.goHome p why)

/-- Send a packet on to another package: home, to a third one that accepts the thread, or home with the MIGRATE fault (R306, R310). -/
def goOn (s : State) (p : MigPacket) (dst : Nat) : State :=
  if dst = p.home.pkg then s.goHome p .load
  else if s.isPresent dst ∧ s.thirdAccepts p.home p.tenant dst then (s.guestLeft p.home dst p.visit).post dst (.mig dst p)
  else s.goHome p .refused

/-- The registers of a packet are written into thread t. -/
def putRegs (s : State) (t : Nat) (p : MigPacket) : State :=
  (List.range (p.wl * 8)).foldl (fun s i => s.putG t i ((p.regs[i]?).getD 0)) s

/-! ## Arrival (R308) -/

/-- The lowest EMPTY guest slot of a cluster of a die, as a thread key. -/
def emptySlot (s : State) (die cluster : Nat) : Option Nat :=
  ((List.range 16).flatMap fun i => (List.range 7).map fun j => (die * 512 + cluster * 16 + i) * 64 + 56 + j).find? fun t =>
    (s.thr t).st == .empty

/-- Place a guest in a slot: its registers and counters, and the acquire of its arrival (R157, R308). -/
def placeGuest (s : State) (t : Nat) (p : MigPacket) : State :=
  let s := (s.updDie (t / 64 / 512) fun d => { d with gated := false }).setThr t { Thread.reset (t % 64) with
    wl := p.wl, st := .parked, pc := p.pc, npc := p.npc.setWidth 64, lc0 := p.lc0, lc1 := p.lc1, fprog := BitVec.ofNat 64 p.prog
    home := some (p.home, p.tenant), arrived := some p, visit := p.visit, wait := [.horizon none] }
  s.putRegs t p

/-- The use that a packet makes of its address. -/
def packetUse (p : MigPacket) : Use := if p.fill then .fill else .ld (tyWidth (tyOfSub p.sub) / 8)

/-- What becomes of a guest that has come to a die: it is sent home where its tenant does not take it or its address fails, sent on where the
address lies on another package, and placed in the lowest EMPTY slot of the address's home cluster, judged by that slot's core; none where
it must wait for one (R307, R308). -/
def guestStep (s : State) (p : MigPacket) : Option State :=
  let fails := fun (f : FaultRec) =>
    s.goHome p (.fault (BitVec.ofNat 8 f.cause) (BitVec.ofNat 8 f.sub) f.faddr (BitVec.ofNat 64 p.prog) false)
  match s.guestTenant p.home p.tenant with
  | none => some (s.goHome p .refused)
  | some n =>
    if s.sendsGuests n then some (s.goHome p .recall)
    else
      match if canonical p.va then s.walk n (p.va.toNat % 2 ^ 57) else none with
      | none => some (fails (pageF p.va))
      | some e =>
        let g := e.phys + (p.va.toNat % 2 ^ 57 - e.base)
        let (d, cl) := homeCluster g
        let slot := if pkgOf g = s.pkg then s.emptySlot d cl else none
        match s.checkEntry ((slot.map (· / 64)).getD (d * 512 + cl * 16)) n p.va (packetUse p) e with
        | .bad f o => some ((s.logOutside p.va n p.home o).goHome p
            (.fault (BitVec.ofNat 8 f.cause) (BitVec.ofNat 8 f.sub) f.faddr (BitVec.ofNat 64 p.prog) false))
        | .miss => some (fails (pageF p.va))
        | .ok pl _ => if pl.isRemote then some (s.goOn p (pkgOf g)) else slot.map fun t => s.placeGuest t p

/-- The home cluster of a packet's address, as its local tenant's tree now maps it. -/
def guestCluster (s : State) (p : MigPacket) : Option (Nat × Nat) :=
  (s.guestTenant p.home p.tenant).bind fun n =>
    (s.walk n (p.va.toNat % 2 ^ 57)).map fun e => homeCluster (e.phys + (p.va.toNat % 2 ^ 57 - e.base))

/-- Does a guest wait in the queue of a die for a slot of the cluster that a packet is for? -/
def queuedFor (s : State) (p : MigPacket) : Bool :=
  match s.guestCluster p with
  | some (d, cl) => (s.die d).mig.any fun q => s.guestCluster q == some (d, cl)
  | none => false

/-- The guest waits in the ingress queue of the die of its address. -/
def queueGuest (s : State) (p : MigPacket) : State :=
  s.updDie ((s.guestCluster p).getD (0, 0)).1 fun e => { e with mig := e.mig ++ [p] }

end State

/-- MIG_ARRIVAL of the item State.subj: the guest is placed, waits in the queue of the die, or is sent back or on (R307, R308). -/
def occMigArrival (s : State) : Option State :=
  match s.netHere s.subj with
  | none => none
  | some i =>
    match i.msg with
    | .mig _ p =>
      let s := s.netDrop i.id
      let s := { s with guests := { s.guests with moved := s.guests.moved.filter fun e => e.1 != p.home } }
      if s.queuedFor p then some (s.queueGuest p) else some ((s.guestStep p).getD (s.queueGuest p))
    | _ => none

def execMigArrival (s : State) : Host.Outcome State Fault Refusal := s.happen (occMigArrival s)

namespace State

/-- What the first waiting guest of a die that need wait no longer does: it is placed, sent home or on, or, its address having moved to another
die, joins the queue there. DEDUCED, log entry 40. -/
def migPlaceable (s : State) (d : Nat) : Option State :=
  (s.die d).mig.findSome? fun p =>
    let s' := s.updDie d fun e => { e with mig := e.mig.erase p }
    if (s.guestCluster p).any fun x => x.1 != d then some (s'.queueGuest p) else s'.guestStep p

end State

/-- MIG_QUEUE_PLACEMENT at die State.subj: a waiting guest takes a slot that has become EMPTY, in order of arrival among those for
its cluster, or leaves the queue another way (R307, R308). -/
def occMigQueuePlacement (s : State) : Option State := s.migPlaceable s.subj

def execMigQueuePlacement (s : State) : Host.Outcome State Fault Refusal := s.happen (occMigQueuePlacement s)

/-! ## The access that the thread moved for (R308, R310) -/

namespace State

/-- The 16 register words of a packet that carries thread t. -/
def packetRegs (s : State) (t : Nat) : List Word :=
  let h := s.thr t
  (List.range 16).map fun i => if i < h.wl * 8 then FMap.get 0 (s.core (t / 64)).gfile (h.gbase * 8 + i) else 0

/-- The thread moves on with its packet: to another die or package, from a guest slot or from its home slot. The packet carries the
registers as they now stand: the blocks of a FILL that have been read are in them. -/
def moveOn (s : State) (t : Nat) (p : MigPacket) (g : Nat) : State :=
  let dst := pkgOf g
  let p := { p with regs := s.packetRegs t }
  match (s.thr t).home with
  | some _ =>
    let s := s.setThr t (Thread.reset (t % 64))
    if dst = s.pkg then s.post dst (.mig dst p) else s.goOn p dst
  | none =>
    let s := s.updThr t fun h => { h with arrived := none }
    if s.isPresent dst ∧ s.guests.out.contains (dst, s.tenantOf t) then
      (s.updThr t fun h =>
        { h with st := .away, wait := [], visit := h.visit + 1
                 awayAt := some { pkg := dst, die := g / 2 ^ 45 % 8, core := 0, thread := 0 } }).post dst (.mig dst { p with visit := p.visit + 1 })
    else s.takeFault t { migrateF p.va with fprog := p.prog }

/-- Ask an away thread of this package to come home: the recall goes to the package it left for (R313). -/
def sendRecall (s : State) (t : Nat) : State :=
  let h := s.thr t
  match h.awayAt, h.recalled with
  | some l, false => (s.updThr t fun h => { h with recalled := true }).post l.pkg (.recall l (s.loc t) h.visit)
  | _, _ => s

/-- As moveOn; a thread that a supervisor waits for is called home again. DEDUCED, log entry 41. -/
def movesOn (s : State) (t : Nat) (p : MigPacket) (g : Nat) : State :=
  let s' := s.moveOn t p g
  if (s'.thr t).st = .away ∧ (s'.thr t).wanted.isSome then s'.sendRecall t else s'

/-- Does an access of thread t at this place move the thread? A home thread moves only to another package (R305, R310). -/
def movesThread (s : State) (t : Nat) (p : Place) : Bool :=
  p.isRemote || ((s.thr t).home.isSome && decide (p.die ≠ t / 64 / 512))

/-- Make the access of an arrived packet: the load, or the blocks of a FILL up to the first that fails or lies elsewhere
(R308). -/
def arrivalAccess (s : State) (t : Nat) : State :=
  match (s.thr t).arrived with
  | none => s
  | some p =>
    let ck := t / 64
    let tenant := s.tenantOf t
    let tr := fun (va : Word) => s.translateNow ck tenant va (packetUse p)
    let bad := fun (s : State) (va : Word) (f : FaultRec) (o : Option Nat) (k : Nat) =>
      ((s.logOutside va tenant (s.loc t) o).updThr t fun h => { h with arrived := none }).takeFault t { f with fprog := k }
    if !p.fill then
      match tr p.va with
      | .miss => bad s p.va (pageF p.va) none 0
      | .bad f o => bad s p.va f o 0
      | .ok pl g =>
        if s.movesThread t pl then s.movesOn t p g
        else
          let ty := tyOfSub p.sub
          let op := s.nextId
          let s := s.updThr t fun h => { h with arrived := none }
          let s := s.launchFor t (.ld ty p.reg.toNat) (Mode.ofMcw { sp := .dm, order := p.order, rx := p.rx, ord := false })
            [{ va := p.va, place := pl, kind := .load (tyWidth ty / 8) }]
          if p.rx then (s.pend t (.g p.reg.toNat) none).retire t
          else s.updThr t fun h => { h with st := .parked, wait := [.reply op] }
    else
      let blocks := (List.range (p.count + 1 - p.prog)).map fun i =>
        let va := p.va + BitVec.ofNat 64 (8 * i)
        (p.prog + i, va, tr va)
      let good := blocks.takeWhile fun b => match b.2.2 with | .ok pl _ => !s.movesThread t pl | _ => false
      let rest := blocks.drop good.length
      match good, rest with
      | [], (k, va, .ok _ g) :: _ => s.movesOn t { p with prog := k, va := va } g
      | [], (k, va, .bad f o) :: _ => bad s va f o k
      | [], (k, va, .miss) :: _ => bad s va (pageF va) none k
      | [], [] => (s.updThr t fun h => { h with arrived := none }).retire t
      | _, _ =>
        let ps := good.filterMap fun b => match b.2.2 with
          | .ok pl _ => some (Piece.mk b.2.1 pl (.load 8))
          | _ => none
        let op := s.nextId
        let left := match rest with
          | (k, va, _) :: _ => some { p with prog := k, va := va }
          | [] => none
        let s := s.launchFor t (.fillG (p.reg.toNat + p.prog)) Mode.plain ps
        s.updThr t fun h =>
          { h with st := .parked, wait := [.reply op], arrived := left
                   fprog := match left with | some q => BitVec.ofNat 64 q.prog | none => h.fprog }

/-! ## Returning home (R307, R311, R312, R396) -/

/-- The home slot takes back its thread's registers and counters. -/
def homeSlot (s : State) (t : Nat) (p : MigPacket) : State :=
  (s.updThr t fun h =>
    { h with lc0 := p.lc0, lc1 := p.lc1, pc := p.pc, npc := p.npc.setWidth 64, fprog := BitVec.ofNat 64 p.prog, awayAt := none
             recalled := false, wait := [], line := none, pend := [] }).putRegs t p

/-- A thread that is back goes on at a PC after the acquire of its return: the fetch of its line waits for the horizon (R157, R310). -/
def goAfterHorizon (s : State) (t : Nat) (npc : Word) : State :=
  (s.goFresh t npc).updThr t fun h => if h.wait = [.line] then { h with wait := [.horizon none, .line] } else h

/-- A WAITGEN is re-armed on thread t (R88, R313). -/
def rearmWait (s : State) (t : Nat) (va : Word) (target : Word32) : State :=
  let s := s.updThr t fun h => { h with rearm := none }
  match s.translateNow (t / 64) (s.tenantOf t) va .atomic with
  | .ok pl _ =>
    let op := s.nextId
    let sys := match pl with | .dm _ => false | _ => true
    (s.launchFor t (.atomic none) { acqSys := sys } [{ va := va, place := pl, kind := .atomic (.waitgen target) }]).updThr t fun h =>
      { h with st := .parked, wait := [.reply op] }
  | .bad f o => (s.logOutside va (s.tenantOf t) (s.loc t) o).takeFault t f
  | .miss => s.takeFault t (pageF va)

end State

/-- MIG_RETURN of the item State.subj: a migrating thread that its destination does not accept, or whose destination has become
absent, is back, and faults with MIGRATE at the migrating bundle (R307, R396). -/
def occMigReturn (s : State) : Option State :=
  match s.net.find? fun i => i.id == s.subj with
  | none => none
  | some i =>
    let back := fun (p : MigPacket) =>
      let t := locKey p.home
      if (s.thr t).st ≠ .away then some (s.netDrop i.id)
      else
      let s := (s.netDrop i.id).homeSlot t p
      some (s.takeFault t { migrateF p.va with fprog := p.prog })
    match i.msg with
    | .goHome p .refused => if p.home.pkg = s.pkg then back p else none
    | .mig d p =>
      if d = s.pkg ∨ s.isPresent d then none
      else if p.home.pkg = s.pkg then back p
      else some ((s.netDrop i.id).goHome p .refused)
    | _ => none

def execMigReturn (s : State) : Host.Outcome State Fault Refusal := s.happen (occMigReturn s)

/-- GUEST_RETURN_HOME of the item State.subj (R310 to R313). A thread whose home slot no longer waits for it, its tenant being
destroyed, is gone. -/
def occGuestReturnHome (s : State) : Option State :=
  match s.netHere s.subj with
  | none => none
  | some i =>
    match i.msg with
    | .goHome p why =>
      let t := locKey p.home
      let s' := (s.netDrop i.id).homeSlot t p
      if (s.thr t).st ≠ .away then some (s.netDrop i.id)
      else match why with
      | .refused => none
      | .home => some (s'.goAfterHorizon t (p.npc.setWidth 64))
      | .recall => some (s'.goAfterHorizon t (p.pc.setWidth 64))
      | .load =>
        some (s'.updThr t fun h => { h with st := .parked, arrived := some p, wait := [.horizon none] })
      | .fault c sub a fp nb =>
        some ((s'.updThr t fun h => { h with noBundle := nb }).takeFault t
          { cause := c.toNat, sub := sub.toNat, faddr := a, fprog := fp.toNat, kill := false })
      | .killed c a => some (s'.takeFault t { cause := c.toNat, sub := 0, faddr := a, fprog := 0, kill := true })
      | .waiting va target =>
        -- the wait condition is re-armed at home, after the acquire of the return (R88, R310, R313)
        some (s'.updThr t fun h => { h with st := .parked, rearm := some (va, target), wait := [.horizon none] })
    | _ => none

def execGuestReturnHome (s : State) : Host.Outcome State Fault Refusal := s.happen (occGuestReturnHome s)

/-! ## Recalls (R313) -/

namespace State


/-- The packet that carries a guest home with the bundle at its PC still to run. -/
def guestPacket (s : State) (t : Nat) : MigPacket :=
  let h := s.thr t
  let (home, tenant) := h.home.getD (s.loc t, 0)
  { pc := h.pc, wl := h.wl, home := home, tenant := tenant, lc0 := h.lc0, lc1 := h.lc1, prog := h.fprog.toNat, va := 0
    fill := false, sub := 0, reg := 0, order := .plain, rx := false, count := 0, npc := h.npc.setWidth 32
    visit := h.visit, regs := s.packetRegs t }

/-- The WAITGEN on which a guest is parked, at its engine. -/
def guestWaitgen (s : State) (t : Nat) : Option Access :=
  s.flight.find? fun a => a.thr == some t && a.isHeld

/-- May the guest be sent home: at a bundle boundary with nothing outstanding, or parked on WAITGEN (R157, R313)? -/
def guestMayGo (s : State) (t : Nat) : Bool :=
  let h := s.thr t
  h.home.isSome && h.halting.isNone && h.arrived.isNone && s.storesDone t s.nextId && decide (s.relaxedOps t = 0) && !h.openMarks &&
  ((s.guestWaitgen t).isSome ||
   (match h.wait with
    | [] | [.again] | [.line] | [.walk _ _ _] => true
    | _ => false))

/-- Send a guest home (R313). -/
def expel (s : State) (t : Nat) : State :=
  let p := s.guestPacket t
  match s.guestWaitgen t with
  | some a =>
    let s := { s with flight := s.flight.filter (fun b => b.id != a.id), ops := s.ops.filter fun o => o.id != a.op }
    let target := match a.kind with | .atomic (.waitgen w) => w | _ => 0
    (s.setThr t (Thread.reset (t % 64))).goHome { p with va := a.va } (.waiting a.va target)
  | none => (s.setThr t (Thread.reset (t % 64))).goHome p .recall

end State

/-- RECALL of the item State.subj: the guest is sent home at its next bundle boundary, or out of the queue; a guest that has moved
on is followed (R313). -/
def occRecall (s : State) : Option State :=
  match s.netHere s.subj with
  | none => none
  | some i =>
    match i.msg with
    | .recall g home visit =>
      let s' := s.netDrop i.id
      match s.guestOf home with
      | some t => if s.guestMayGo t then some (s'.expel t) else none
      | none =>
        match (List.range 8).findSome? fun d => ((s.die d).mig.find? fun p => p.home == home).map fun p => (d, p) with
        | some (d, p) => some ((s'.updDie d fun e => { e with mig := e.mig.erase p }).goHome p .recall)
        | none =>
          -- a recall that comes before its guest waits for it; what an earlier visit has left behind does not count
          match s.guests.moved.find? fun e => e.1 == home && decide (visit ≤ e.2.2) with
          | some (_, dst, _) =>
            if dst = s.pkg then none
            else some (if dst = home.pkg then s' else s'.post dst (.recall { g with pkg := dst } home visit))
          | none => none
    | _ => none

def execRecall (s : State) : Host.Outcome State Fault Refusal := s.happen (occRecall s)

/-! ## HOME (R311) -/

def execHome (s : State) : Host.Outcome State Fault Refusal :=
  performK s .home fun s =>
    match s.my.home with
    | none => .done s
    | some _ =>
      if s.waits (!s.mayDepart) then .stop s.again
      else
        let p := s.migPacket 0 false 0 0 .plain false 0 0
        .stop ((s.setThr s.cur (Thread.reset (s.cur % 64))).goHome p .home)

end Sys2Proof.Machine
end

