-- ==== Sys2Proof/Machine/Collective.lean ====
section
/-! DEFINITION. The communication thread's message engine (R319 to R333): raw messages, communicators, instances, sends, receives,
reductions, and the arrival of messages, acknowledgements and credits. -/

namespace Sys2Proof.Machine

open Sys2Proof Sys2Proof.Num

/-! ## Raw messages (R320) -/

/-- Words still to come of the message that the last of these words belongs to; 0 where the next word is a header. -/
def rawOpen : List Word → Nat → Nat
  | [], n => n
  | w :: r, 0 => rawOpen r (w.toNat % 64)
  | _ :: r, n + 1 => rawOpen r n

/-- MOV n0, gb: the word is appended to the outbound queue. -/
def execMovToN0 (b : GReg) (s : State) : Host.Outcome State Fault Refusal :=
  performK s (.movToN0 b) fun s =>
    let w := s.rdG b
    let q := (s.core s.ck).comm.out
    if rawOpen q 0 = 0 ∧ (w.toNat / 64 % 2 ^ 38 ≠ 0 ∨ w.toNat % 64 = 0) then .stop (s.fault (streamF 0x27 0))
    else if s.waits (decide (64 ≤ q.length)) then .stop s.again
    else .done (s.updCore s.ck fun c => { c with comm := { c.comm with out := c.comm.out ++ [w] } })

/-- MOV ga, n1: the next word of the inbound queue. -/
def execMovFromN1 (a : GReg) (s : State) : Host.Outcome State Fault Refusal :=
  performK s (.movFromN1 a) fun s =>
    match (s.core s.ck).comm.inb with
    | [] => if s.waits true then .stop s.again else .done s
    | (w, bad) :: r =>
      let s := s.updCore s.ck fun c => { c with comm := { c.comm with inb := r } }
      match bad with
      | some p => .stop (s.fault (killF p 0))
      | none => .done (s.wrG a w)

/-! ## Communicators (R321, R322) -/

/-- The communicator of a 128-byte descriptor at an address; none where it is not well formed. -/
def parseComm (addr : Nat) (d : List Byte) : Option CommReg :=
  let comm := field d 0 2
  let size := field d 2 2
  let space := field d 6 1
  let nsrc := field d 7 1
  let ndst := field d 8 1
  let msz := field d 12 4
  let inst := field d 16 4
  let buf := field d 20 4
  let table := field d 24 4
  let ranks := fun (at' n : Nat) => (List.range n).map fun i => field d (at' + 2 * i) 2
  let src := ranks 64 nsrc
  let dst := ranks 96 ndst
  let unusedZero := fun (at' n : Nat) => (List.range 16).all fun i => decide (i < n) || decide (field d (at' + 2 * i) 2 = 0)
  let distinct := fun (l : List Nat) => decide (l.eraseDups.length = l.length)
  if 2 ^ 12 ≤ comm ∨ size = 0 ∨ 4096 < size ∨ size ≤ field d 4 2 ∨ space = 2 ∨ 3 < space ∨ 16 < nsrc ∨ 16 < ndst ∨
      leNat (slice d 9 3) ≠ 0 ∨ msz % 64 ≠ 0 ∨ msz = 0 ∨ 16384 < msz ∨ 2 ^ 20 ≤ inst ∨ buf % 64 ≠ 0 ∨ table % 4 ≠ 0 ∨
      leNat (slice d 28 36) ≠ 0 ∨ !(unusedZero 64 nsrc && unusedZero 96 ndst) ∨ (src ++ dst).any (fun r => decide (size ≤ r)) ∨
      !(distinct src && distinct dst) ∨ 0x28000 < buf + 8 * nsrc * msz ∨ 0x28000 < table + 4 * size ∨
      (0 < nsrc ∧ buf < addr + 128 ∧ addr < buf + 8 * nsrc * msz) then none
  else
    some { id := 0, addr := addr, comm := BitVec.ofNat 12 comm, size := size, rank := field d 4 2
           space := if space = 0 then .dm else if space = 1 then .ulm else .ab
           msz := msz, inst := inst, buf := buf, table := table, src := src, dst := dst
           credits := (dst.map fun r => (r, 8)).foldl (fun m x => FMap.set m x.1 x.2) []
           sent := (dst.map fun r => (r, 0)).foldl (fun m x => FMap.set m x.1 x.2) []
           slots := [], outstanding := [] }

namespace State

/-- The communicator registered at a descriptor address. -/
def commAt (s : State) (ck addr : Nat) : Option CommReg := (s.core ck).comm.regs.find? fun r => r.addr == addr

def setComm (s : State) (ck : Nat) (r : CommReg) : State :=
  s.updCore ck fun c => { c with comm := { c.comm with regs := c.comm.regs.map fun x => if x.addr = r.addr then r else x } }

def updComm (s : State) (ck : Nat) (f : CommUnit → CommUnit) : State := s.updCore ck fun c => { c with comm := f c.comm }

/-- The open communicator. -/
def openComm (s : State) (ck : Nat) : Option CommReg := (s.core ck).comm.current.bind (s.commAt ck)

/-- Free slots of a registration, returning their credits (R323). -/
def freeSlots (s : State) (ck : Nat) (r : CommReg) (p : CSlot → Bool) : State :=
  let gone := r.slots.filter p
  let s := s.setComm ck { r with slots := r.slots.filter fun x => !p x }
  gone.foldl (fun s x => s.post x.sender.pkg (.credit x.sender x.reg r.rank)) s

end State

/-- CBEGIN (R327). -/
def execCbegin (a : GReg) (s : State) : Host.Outcome State Fault Refusal :=
  performK s (.cbegin a) fun s =>
    let addr := (s.rdG a).toNat % 2 ^ 18
    let ad : Word := BitVec.ofNat 64 addr
    let openIt := fun (s : State) (r : CommReg) =>
      let i := (r.inst + 1) % 2 ^ 20
      let s := s.writeMem (.buf s.ck .ulm (addr + 16)) (leBytes 4 i)
      (s.setComm s.ck { r with inst := i }).updComm s.ck fun c => { c with current := some addr }
    if (s.core s.ck).comm.current.isSome then .stop (s.fault (streamF 0x23 ad))
    else if s.waits (!s.portClear s.ck .ulm s.issuePlace) then .stop s.atPort
    else
      match s.commAt s.ck addr with
      | some r => .done (openIt s r)
      | none =>
        if addr % 64 ≠ 0 ∨ 0x27F80 < addr then .stop (s.fault (streamF 0x20 ad))
        else
          match (s.core s.ck).ulm.badIn addr 128 with
          | some (p, w) => .stop (s.fault (killF p (BitVec.ofNat 64 w)))
          | none =>
            match parseComm addr ((s.core s.ck).ulm.read addr 128) with
            | none => .stop (s.fault (streamF 0x20 ad))
            | some r =>
              let rs := (s.core s.ck).comm.regs
              if 8 ≤ rs.length ∨ rs.any (fun x => x.comm == r.comm) then .stop (s.fault (streamF 0x25 ad))
              else
                let r := { r with id := s.nextId }
                .done (openIt (({ s with nextId := s.nextId + 1 } : State).updComm s.ck fun c => { c with regs := c.regs ++ [r] }) r)

/-- CEND (R327). -/
def execCend (a : GReg) (s : State) : Host.Outcome State Fault Refusal :=
  performK s (.cend a) fun s =>
    let addr := (s.rdG a).toNat % 2 ^ 18
    let withdraw := decide (2 ^ 63 ≤ (s.rdG a).toNat)
    match s.commAt s.ck addr with
    | none => .stop (s.fault (streamF 0x21 (BitVec.ofNat 64 addr)))
    | some r =>
      let mine := (s.core s.ck).comm.current == some addr
      if s.waits (mine && r.outstanding.any fun o => o.inst == r.inst) then .stop s.again
      else
        let s := if mine then
            (s.freeSlots s.ck r fun x => x.inst == r.inst).updComm s.ck fun c => { c with current := none }
          else s
        .done (if withdraw then
            match s.commAt s.ck addr with
            | some r => (s.freeSlots s.ck r fun _ => true).updComm s.ck fun c =>
                { c with regs := c.regs.filter fun x => x.addr != addr }
            | none => s
          else s)

/-- CPEER (R328). -/
def execCpeer (a b c : GReg) (s : State) : Host.Outcome State Fault Refusal :=
  performK s (.cpeer a b c) fun s =>
    let addr := (s.rdG b).toNat % 2 ^ 18
    match s.commAt s.ck addr with
    | none => .stop (s.fault (streamF 0x21 (BitVec.ofNat 64 addr)))
    | some r => .done (s.wrG a (BitVec.ofNat 64 (((r.rank : Int) + sx (s.rdG c).toNat 64) % r.size).toNat))

/-! ## Extents (R326) -/

namespace State

/-- Check an extent in a space under checks 1 to 4 of R121: its blocks with their places, or the state in which the bundle stops. Reads of an
absent package have the outcome that R396 gives those of the copy engine (DEDUCED, log entry 24). -/
def extent (s : State) (sp : Space) (va : Word) (n : Nat) (write : Bool) : Except State (List (Word × Place)) :=
  let u : Use := if write then .engineWr else .engine
  match sp with
  | .dm =>
    let l := (List.range (n / 64)).map fun i =>
      let v := va + BitVec.ofNat 64 (64 * i)
      let tr := s.checkAccess .dm v 64 64 u
      (v, match tr with | .ok p g => if !write && p.isRemote && !s.isPresent (pkgOf g) then Tr.bad (protF v) none else tr | t => t)
    match l.find? fun x => match x.2 with | .ok _ _ => false | _ => true with
    | some (v, tr) => .error (s.accessFails v tr)
    | none => .ok (l.filterMap fun x => match x.2 with | .ok p _ => some (x.1, p) | _ => none)
  | _ =>
    match s.checkAccess sp va n 64 (if write then .copyWr else .copyRd) with
    | .ok p _ => .ok [(va, p)]
    | tr => .error (s.accessFails va tr)

/-- The length of the blocks of an extent of n bytes. -/
def blockSize (n : Nat) (l : List (Word × Place)) : Nat := match l with | [_] => n | _ => 64

/-- The bytes of an extent, and the first bad word; ids are the engine's reads of the blocks at other packages. -/
def extentBytes (s : State) (size : Nat) : List (Word × Place) → List Nat → List Byte × Option (Bool × Word)
  | [], _ => ([], none)
  | (va, p) :: r, ids =>
    if p.isRemote then
      let x := FMap.get ([], none) s.replies (ids.headD 0)
      let y := s.extentBytes size r (ids.drop 1)
      (x.1 ++ y.1, (x.2.map fun b => (b, va + BitVec.ofNat 64 x.1.length)).or y.2)
    else
      let y := s.extentBytes size r ids
      (s.readMem p size ++ y.1, (s.badAt va p size).or y.2)

/-- The engine of core ck issues its reads of places at other packages, n bytes each: the state and the numbers of the reads. -/
def issueReads (s : State) (ck tenant n : Nat) (l : List (Word × Place)) : State × List Nat :=
  (l.filter fun x => x.2.isRemote).foldl (fun acc x =>
    let (id, s) := acc.1.unitAccess 0 ck tenant x.1 x.2 (.load n)
    (s, acc.2 ++ [id])) (s, [])

/-- Have the engine's reads been answered? -/
def readsDone (s : State) (ids : List Nat) : Bool := ids.all fun id => (FMap.find? s.replies id).isSome

/-- Forget the answers to reads. -/
def dropReplies (s : State) (ids : List Nat) : State := { s with replies := ids.foldl FMap.erase s.replies }

/-- Go on with the bytes of an extent of n bytes and the first bad word among them, once the engine has read what lies at other packages. -/
def withExtent (s : State) (n : Nat) (l : List (Word × Place)) (k : State → List Byte → Option (Bool × Word) → Eff) : Eff :=
  let size := blockSize n l
  if !(l.any fun x => x.2.isRemote) then
    let (d, bad) := s.extentBytes size l []
    k s d bad
  else
    match (s.core s.ck).comm.reading with
    | none =>
      let (s, ids) := s.issueReads s.ck s.myTenant size l
      .stop (s.updComm s.ck fun c => { c with reading := some ids }).untilRead
    | some ids =>
      if s.waits (!s.readsDone ids) then .stop s.untilRead
      else
        let (d, bad) := s.extentBytes size l ids
        k ((s.dropReplies ids).updComm s.ck fun c => { c with reading := none }) d bad

/-- The stores of bytes to an extent. -/
def extentStores (n : Nat) (l : List (Word × Place)) (d : List Byte) : List Piece :=
  let size := blockSize n l
  ((List.range l.length).zip l).map fun x =>
    { va := x.2.1, place := x.2.2, kind := .store (slice d (x.1 * size) size) }

/-- May the engine read local and stored data of the thread: every store of the thread performed, and earlier accesses to the
core's buffers (R122)? -/
def engineMayRead (s : State) : Bool :=
  s.storesDone s.cur s.issuePlace && s.portClear s.ck .ulm s.issuePlace && s.portClear s.ck .ab s.issuePlace

/-! ## Sending (R329) -/

/-- The place of a rank's thread 63 by the rank table; none where the entry has a reserved bit set or names an absent package. -/
def rankLoc (s : State) (r : CommReg) (rank : Nat) : Option Loc :=
  let e := (s.core s.ck).ulm.nat (r.table + 4 * rank) 4
  let l := locOf e 63
  if 2 ^ 20 ≤ e ∨ !s.isPresent l.pkg then none else some l

/-- Go on with the place of a rank's thread 63, read from the rank table after the core's earlier accesses to its ULM (R122, R329). -/
def withRank (s : State) (r : CommReg) (rank : Nat) (k : Loc → Eff) : Eff :=
  if s.waits (!s.portClear s.ck .ulm s.issuePlace) then .stop s.atPort
  else
    match (s.core s.ck).ulm.badIn (r.table + 4 * rank) 4 with
    | some (p, w) => .stop (s.fault (killF p (BitVec.ofNat 64 w)))
    | none =>
      match s.rankLoc r rank with
      | none => .stop (s.fault (streamF 0x24 (BitVec.ofNat 64 r.addr)))
      | some l => k l

/-- May a send be handed to the engine: stores acknowledged at .sys, and a credit (R329)? -/
def maySend (s : State) (t n : Nat) (r : CommReg) (rank : Nat) : Bool :=
  s.storesAcked t n .sys && decide (FMap.get 0 r.credits rank ≠ 0)

/-- Hand a send to the engine (R329). -/
def handSend (s : State) (ck tenant : Nat) (r : CommReg) (dst : Loc) (rank step : Nat) (payload : Word) : State :=
  let r' := { r with credits := FMap.set r.credits rank (FMap.get 0 r.credits rank - 1)
                     sent := FMap.set r.sent rank (FMap.get 0 r.sent rank + 1)
                     outstanding := r.outstanding ++ [{ dst := rank, inst := r.inst, step := step }] }
  (s.setComm ck r').updComm ck fun c =>
    { c with sends := c.sends ++ [{ addr := r.addr, tenant := tenant, payload := payload, dst := dst, rank := rank
                                    inst := r.inst, step := step, reads := none }] }

/-- The operation of an open instance, or the NOINST fault. -/
def withInst (s : State) (k : CommReg → Eff) : Eff :=
  match s.openComm s.ck with
  | none => .stop (s.fault (streamF 0x22 0))
  | some r => k r

def peerF (r : CommReg) : FaultRec := streamF 0x24 (BitVec.ofNat 64 r.addr)

end State

open State in
def execCsend (a b c : GReg) (s : State) : Host.Outcome State Fault Refusal :=
  performK s (.csend a b c) fun s => s.withInst fun r =>
    let rank := (s.rdG a).toNat % 2 ^ 16
    if !r.dst.contains rank then .stop (s.fault (peerF r))
    else
      match s.extent r.space (s.rdG b) r.msz false with
      | .error s' => .stop s'
      | .ok _ =>
        s.withRank r rank fun l =>
          if s.waits (!s.maySend s.cur s.issuePlace r rank) then .stop s.again
          else .done (s.handSend s.ck s.myTenant r l rank ((s.rdG c).toNat % 2 ^ 16) (s.rdG b))

/-- CWAIT (R332). -/
def execCwait (a : GReg) (s : State) : Host.Outcome State Fault Refusal :=
  performK s (.cwait a) fun s => s.withInst fun r =>
    let k := (s.rdG a).toNat % 2 ^ 16
    if s.waits (r.outstanding.any fun o => o.inst == r.inst && decide (o.step ≤ k)) then .stop s.again else .done s

/-! ## Receiving (R324, R330, R331) -/

namespace State

/-- The slot that a receive matches: the earliest of its source, instance and step. -/
def match' (r : CommReg) (source step : Nat) : Option CSlot :=
  r.slots.find? fun x => x.src == source && x.inst == r.inst && x.step == step

/-- ULM offset of a slot. -/
def slotOff (r : CommReg) (x : CSlot) : Nat := slotAt r x.src x.slot

/-- A slot has been read: it is freed and a credit returns. -/
def takeSlot (s : State) (r : CommReg) (x : CSlot) : State := s.freeSlots s.ck r fun y => y == x

/-- Store a message's bytes, or combined bytes; the thread is parked until their banks have acknowledged them. -/
def storeExtent (s : State) (n : Nat) (l : List (Word × Place)) (d : List Byte) (sig : Option Nat) (more : List Wait) : State :=
  let op := s.nextId
  let s := s.launch .store { Mode.plain with sig := sig } (extentStores n l d)
  s.updThr s.cur fun h => { h with st := .parked, wait := .ack op :: more }

/-- The same for a receive, whose slot is freed after that. -/
def receiveExtent (s : State) (r : CommReg) (x : CSlot) (l : List (Word × Place)) (d : List Byte) (sig : Option Nat)
    (send : Option (Loc × Nat × Nat × Word)) : State :=
  (s.updComm s.ck fun c => { c with receive := some { addr := r.addr, slot := some x, send := send } }).storeExtent r.msz l d sig [.receive]

/-- A receive whose bytes are acknowledged goes on: its slot is freed and the credit returned; then CRECV ends with the acquire of R330,
and CRRS sends its result on as CSEND does, when it may (R331). -/
def receiveWork (s : State) (t : Nat) : Option State :=
  let ck := t / 64
  match (s.core ck).comm.receive with
  | none => some (s.doneWaiting t .receive)
  | some v =>
    match s.commAt ck v.addr, v.slot, v.send with
    | none, _, _ => some ((s.updComm ck fun c => c.idle).doneWaiting t .receive)
    | some r, some x, _ =>
      some ((s.freeSlots ck r fun y => y == x).updComm ck fun c => { c with receive := some { v with slot := none } })
    | some _, none, none =>
      some (((s.updComm ck fun c => c.idle).updThr t fun h => { h with wait := h.wait ++ [.horizon none] }).doneWaiting t .receive)
    | some r, none, some (dst, rank, step, payload) =>
      if s.maySend t s.nextId r rank then
        some (((s.handSend ck (s.tenantOf t) r dst rank step payload).updComm ck fun c => c.idle).doneWaiting t .receive)
      else none

/-- CRECV, with the node of its decrement. -/
def crecvEff (s : State) (ad : Word) (source : Nat) (step : Nat) (sig : Option Nat) (stepOk : Bool) : Eff :=
  s.withInst fun r =>
    if !r.src.contains source then .stop (s.fault (peerF r))
    else
      match s.extent r.space ad r.msz true with
      | .error s' => .stop s'
      | .ok l =>
        if !stepOk then .stop (s.fault (streamF 0x26 (BitVec.ofNat 64 r.addr)))
        else
          match match' r source step with
          | none => if s.waits true then .stop s.again else .done s
          | some x =>
            let off := slotOff r x
            match (s.core s.ck).ulm.badIn off r.msz with
            | some (p, w) => .stop ((s.takeSlot r x).fault (killF p (BitVec.ofNat 64 w)))
            | none => .done (s.receiveExtent r x l ((s.core s.ck).ulm.read off r.msz) sig none)

end State

def execCrecv (a : GReg) (off : Off16) (b c : GReg) (s : State) : Host.Outcome State Fault Refusal :=
  performK s (.crecv a off b c) fun s =>
    s.crecvEff (s.rdG a + sext16 off) ((s.rdG b).toNat % 2 ^ 16) ((s.rdG c).toNat % 2 ^ 16) none true
def execCrecvSig (a : GReg) (off : Off16) (b c : GReg) (s : State) : Host.Outcome State Fault Refusal :=
  performK s (.crecvSig a off b c) fun s =>
    s.crecvEff (s.rdG a + sext16 off) ((s.rdG b).toNat % 2 ^ 16) ((s.rdG c).toNat % 2 ^ 16)
      (some ((s.rdG c).toNat / 2 ^ 32)) (decide ((s.rdG c).toNat / 2 ^ 16 % 2 ^ 16 = 0))

/-- One element of a reduction; the width in bits is that of the type (R331). -/
def crElem (op : CrOp) (ft : CrFt) (x y : Nat) : Nat :=
  let flt := fun (f : Fmt) =>
    let a := Num.decode f x
    let b := Num.decode f y
    code f (match op with
      | .add => rnd f .rne (Num.add .rne a b)
      | .max => Num.maxV a b
      | .min => Num.minV a b)
  match ft with
  | .f32 => flt f32
  | .f16 => flt f16
  | .bf16 => flt bf16
  | .i32 =>
    match op with
    | .add => (x + y) % 2 ^ 32
    | .max => if sx x 32 < sx y 32 then y else x
    | .min => if sx y 32 < sx x 32 then y else x

def crWidth : CrFt → Nat
  | .f32 | .i32 => 4
  | .f16 | .bf16 => 2

/-- The combined bytes of a reduction, or its fault: the lane of a domain error, or else that of a divergence of the core's mean unit
(R264, R331). With several triples in a message, FADDR is the lowest lane in error of the first triple that has one: the spec says only which
lane of a triple (DESIGN CHOICE, log entry 121). -/
def crCombine (op : CrrsOp) (sh : Option Shape) (c : Core) (loc recv : List Byte) : Except FaultRec (List Byte) :=
  match op with
  | .arith o ft =>
    let w := crWidth ft
    .ok ((List.range (loc.length / w)).flatMap fun i => leBytes w (crElem o ft (field loc (w * i) w) (field recv (w * i) w)))
  | .qm =>
    match sh with
    | none => .ok loc
    | some sh =>
      let trip := fun (d : List Byte) (base i : Nat) =>
        ({ t := field d (base + 4 * i) 4, n := sx (field d (base + 512 + 4 * i) 4) 32, s := field d (base + 1024 + 4 * i) 4 } : Trip)
      let rs := (List.range (loc.length / 1536)).map fun k =>
        runLanes (BitVec.allOnes 128) (fun i => mergeLane sh (trip loc (1536 * k) i) (trip recv (1536 * k) i))
          (fun i => trip loc (1536 * k) i) []
      match rs.findSome? firstErr, rs.findSome? c.meanShadow with
      | some e, _ => .error (domainF e)
      | none, some e => .error (shadowF e)
      | none, none =>
        .ok (rs.flatMap fun r =>
          let (t, n, w) := tripVecs (r.map (·.val))
          vecBytes t ++ vecBytes n ++ vecBytes w)

open State in
/-- CRRS: receive and combine, store, then send on (R331). One that is issued again after its results are stored goes on with the send. -/
def execCrrs (op : CrrsOp) (a : GReg) (off : Off16) (b c : GReg) (s : State) : Host.Outcome State Fault Refusal :=
  performK s (.crrs op a off b c) fun s => s.withInst fun r =>
    let ad := s.rdG a + sext16 off
    let t : Nat := (s.rdG b).toNat % 2 ^ 16
    let step : Nat := (s.rdG c).toNat % 2 ^ 16
    let u : Nat := ((2 * (r.rank : Int) - t) % r.size).toNat
    let isQm : Bool := match op with | .qm => true | _ => false
    if (s.core s.ck).comm.receive.any fun v => v.send.isSome then .done (s.park s.cur .receive)
    else if !r.dst.contains t ∨ !r.src.contains u then .stop (s.fault (peerF r))
    else
      match s.extent r.space ad r.msz false, s.extent r.space ad r.msz true with
      | .error s', _ | .ok _, .error s' => .stop s'
      | .ok rd, .ok l =>
        if isQm ∧ (ad.toNat % 512 ≠ 0 ∨ r.msz % 1536 ≠ 0) then .stop (s.fault (alignF ad))
        else if isQm ∧ s.shape.isNone then .stop (s.fault (illegal subFORMAT))
        else
          s.withRank r t fun dst =>
            match match' r u ((step + 2 ^ 16 - 1) % 2 ^ 16) with
            | none => if s.waits true then .stop s.again else .done s
            | some x =>
              if s.waits (!s.engineMayRead) then .stop s.again
              else
                let o := slotOff r x
                match (s.core s.ck).ulm.badIn o r.msz with
                | some (p, w) => .stop ((s.takeSlot r x).fault (killF p (BitVec.ofNat 64 w)))
                | none => s.withExtent r.msz rd fun s loc bad =>
                  match bad with
                  | some (p, w) => .stop (s.fault (killF p w))
                  | none =>
                    match crCombine op s.shape s.rd loc ((s.core s.ck).ulm.read o r.msz) with
                    | .error f => .stop (s.fault f)
                    | .ok d => .done (s.receiveExtent r x l d none (some (dst, t, step, ad)))

/-- CCOPY (R332). -/
def execCcopy (a b c : GReg) (s : State) : Host.Outcome State Fault Refusal :=
  performK s (.ccopy a b c) fun s => s.withInst fun r =>
    let n := (s.rdG c).toNat
    if n % 64 ≠ 0 ∨ n = 0 ∨ 2 ^ 20 < n then .stop (s.fault (streamF 0x20 (BitVec.ofNat 64 r.addr)))
    else
      match s.extent r.space (s.rdG b) n false, s.extent r.space (s.rdG a) n true with
      | .error s', _ | .ok _, .error s' => .stop s'
      | .ok rd, .ok l =>
        if s.waits (!s.engineMayRead) then .stop s.again
        else
          s.withExtent n rd fun s d bad =>
            match bad with
            | some (p, w) => .stop (s.fault (killF p w))
            | none => .done (s.storeExtent n l d none [])

/-! ## The engine (R323, R329) -/

/-- The 8-byte words of a payload with their places, as they translate now. -/
def State.payloadWords (s : State) (ck : Nat) (o : CSendOp) (reg : CommReg) : List (Word × Place) :=
  (List.range (reg.msz / 8)).map fun i =>
    let va := o.payload + BitVec.ofNat 64 (8 * i)
    (va, match reg.space with
      | .dm => (match s.translateNow ck o.tenant va .engine with
          | .ok p _ => p
          | _ => .hole)
      | sp => .buf ck sp va.toNat)

/-- The message of a send whose payload words have been read: word i with the read that brings it, where it lies at another package. -/
def State.payloadMsg (s : State) (ck : Nat) (o : CSendOp) (reg : CommReg) (l : List (Word × Place)) (ids : List Nat) : CMsg :=
  let words := l.foldl (fun (acc : List (List Byte × Bool) × List Nat) x =>
    if x.2.isRemote then
      let v := FMap.get ([], none) s.replies (acc.2.headD 0)
      (acc.1 ++ [(slice v.1 0 8, v.2.isSome)], acc.2.drop 1)
    else (acc.1 ++ [(slice (s.readMem x.2 8) 0 8, (s.badMem x.2 8).isSome)], acc.2)) ([], ids) |>.1
  { comm := reg.comm, reg := reg.id, rank := reg.rank, toRank := o.rank, inst := o.inst, step := o.step, capt := (s.core ck).capt
    tenant := (s.core ck).tenant, src := s.loc (ck * 64 + 63), dst := o.dst, data := words.flatMap (·.1)
    bad := ((List.range words.length).zip words).filterMap fun x => if x.2.2 then some (8 * x.1) else none }

/-- MESSAGE_SEND at core State.subj: the oldest send in hand, or a complete raw message, leaves. What of a payload lies at another package
is read first. -/
def occMessageSend (s : State) : Option State :=
  let ck := s.subj
  let c := s.core ck
  match c.comm.sends, c.comm.out with
  | o :: r, _ =>
    let sent := fun (s : State) => s.updComm ck fun u => { u with sends := r }
    match c.comm.regs.find? fun x => x.addr == o.addr with
    | none => some (sent s)
    | some reg =>
      let l := s.payloadWords ck o reg
      match o.reads with
      | some ids =>
        if s.readsDone ids then some (((sent s).dropReplies ids).post o.dst.pkg (.cmsg (s.payloadMsg ck o reg l ids))) else none
      | none =>
        if l.any fun x => x.2.isRemote then
          (let (s, ids) := s.issueReads ck o.tenant 8 l
           some (s.updComm ck fun u => { u with sends := { o with reads := some ids } :: r }))
        else some ((sent s).post o.dst.pkg (.cmsg (s.payloadMsg ck o reg l [])))
  | [], h :: r =>
    let n := h.toNat % 64
    if r.length < n then none
    else
      let s := s.updComm ck fun u => { u with out := r.drop n }
      let dst : Loc := { pkg := h.toNat / 2 ^ 56, die := h.toNat / 2 ^ 53 % 8, core := h.toNat / 2 ^ 44 % 512, thread := 63 }
      some (s.post dst.pkg (.raw { capt := c.capt, tenant := c.tenant, src := s.loc (ck * 64 + 63), dst := dst, words := r.take n }))
  | [], [] => none

def execMessageSend (s : State) : Host.Outcome State Fault Refusal := s.happen (occMessageSend s)

namespace State

/-- Is a registration saved with the core of a tenant that is away: what comes for it waits (R333)? -/
def savedReg (s : State) (ck reg : Nat) : Bool := s.saved.any fun x => x.cores.any fun c => c.1 == ck && c.2.comm.regs.any fun r => r.id == reg

/-- A message has been discarded: a credit returns, and it counts as delivered (DEDUCED, log entry 25). -/
def discardMsg (s : State) (m : CMsg) : State :=
  (s.post m.src.pkg (.delivered m.src m.reg m.toRank m.inst m.step)).post m.src.pkg (.credit m.src m.reg m.toRank)

/-- The arrival of a collective message (R323); none where it is held. DEDUCED, log entry 49. -/
def arriveMsg (s : State) (m : CMsg) : Option State :=
  let ck := locCore m.dst
  if s.tenantAway ck m.capt then none
  else if !s.tokenOk ck m.capt then
    some ((s.vlogAt ck (BitVec.ofNat 64 (locWord m.src)) 0x07 m.tenant (locWord m.src)).discardMsg m)
  else
    match (s.core ck).comm.regs.find? fun r => r.comm == m.comm with
    | none => none
    | some r =>
      if !r.src.contains m.rank then
        some ((s.vlogAt ck (BitVec.ofNat 64 (m.comm.toNat * 65536 + m.rank)) 0x08 m.tenant (locWord m.src)).discardMsg m)
      else
        let d := sx (m.inst + 2 ^ 20 - r.inst) 20
        if d < 0 ∨ (d = 0 ∧ (s.core ck).comm.current ≠ some r.addr) then some (s.discardMsg m)
        else
          (freeSlotOf r m.rank).map fun j =>
            let x : CSlot := { src := m.rank, slot := j, inst := m.inst, step := m.step, sender := m.src, reg := m.reg }
            let off := slotOff r x
            let s := s.writeMem (.buf ck .ulm off) m.data
            let s := s.updCore ck fun c => { c with ulm := m.bad.foldl (fun u b => u.mark (off + b) 8 true) c.ulm }
            (s.setComm ck { r with slots := r.slots ++ [x] }).post m.src.pkg (.delivered m.src m.reg m.toRank m.inst m.step)

end State

/-- MESSAGE_ARRIVAL of the item State.subj. -/
def occMessageArrival (s : State) : Option State :=
  match s.netHere s.subj with
  | none => none
  | some i =>
    match i.msg with
    | .cmsg m =>
      (match (s.netDrop i.id).arriveMsg m with
       | some s' => some (s'.heal i.pkt)
       | none => none)
    | _ => none

def execMessageArrival (s : State) : Host.Outcome State Fault Refusal := s.happen (occMessageArrival s)

/-- DELIVERY_ACKNOWLEDGEMENT of the item State.subj: a message is delivered (R323). -/
def occDeliveryAcknowledgement (s : State) : Option State :=
  match s.netHere s.subj with
  | none => none
  | some i =>
    match i.msg with
    | .delivered l reg peer inst step =>
      let ck := locCore l
      if s.savedReg ck reg then none else
      let s := s.netDrop i.id
      (match (s.core ck).comm.regs.find? fun r => r.id == reg with
       | none => some s
       | some r =>
         some (s.setComm ck { r with outstanding := r.outstanding.erase { dst := peer, inst := inst, step := step } }))
    | _ => none

def execDeliveryAcknowledgement (s : State) : Host.Outcome State Fault Refusal := s.happen (occDeliveryAcknowledgement s)

/-- CREDIT_RETURN of the item State.subj (R323). DEDUCED, log entry 50. -/
def occCreditReturn (s : State) : Option State :=
  match s.netHere s.subj with
  | none => none
  | some i =>
    match i.msg with
    | .credit l reg peer =>
      let ck := locCore l
      if s.savedReg ck reg then none else
      let s := s.netDrop i.id
      (match (s.core ck).comm.regs.find? fun r => r.id == reg with
       | none => some s
       | some r =>
         if r.dst.contains peer then
           some (s.setComm ck { r with credits := FMap.set r.credits peer (min 8 (FMap.get 0 r.credits peer + 1)) })
         else some s)
    | _ => none

def execCreditReturn (s : State) : Host.Outcome State Fault Refusal := s.happen (occCreditReturn s)

/-- RAW_MESSAGE_ARRIVAL of the item State.subj: queued whole behind a header that names its sender, discarded for its token, or
held until it fits (R320). -/
def occRawMessageArrival (s : State) : Option State :=
  match s.netHere s.subj with
  | none => none
  | some i =>
    match i.msg with
    | .raw m =>
      let ck := locCore m.dst
      let behind := (s.net.takeWhile fun j => j.id != i.id).any fun j => match j.msg with
        | .raw n => n.src == m.src && n.dst == m.dst
        | _ => false
      let hdr : Word := BitVec.ofNat 64 (m.src.pkg % 256 * 2 ^ 56 + m.src.die % 8 * 2 ^ 53 + m.src.core % 512 * 2 ^ 44 + m.words.length)
      if behind ∨ s.tenantAway ck m.capt then none
      else if !s.tokenOk ck m.capt then
        some ((s.netDrop i.id).vlogAt ck (BitVec.ofNat 64 (locWord m.src)) 0x07 m.tenant (locWord m.src))
      else if 128 < (s.core ck).comm.inb.length + m.words.length + 1 then none
      else some ((s.netDrop i.id).updComm ck fun u => { u with inb := u.inb ++ (hdr :: m.words).map fun w => (w, none) })
    | _ => none

def execRawMessageArrival (s : State) : Host.Outcome State Fault Refusal := s.happen (occRawMessageArrival s)

end Sys2Proof.Machine
end

