-- ==== Sys2Proof/Machine/Control.lean ====
section
/-! DEFINITION. Control instructions (R80 to R83): a transfer sets the next PC of the executing thread; its target is
checked when the bundle retires (R82, State.goTo). In a gang follower they write nothing (R100). -/

namespace Sys2Proof.Machine

open Sys2Proof

namespace State

/-- The next PC of the executing thread. -/
def setNpc (s : State) (w : Word) : State := s.updThr s.cur fun h => { h with npc := w }

/-- The bundle's PC plus a displacement (R34). -/
def target (s : State) (disp : Word32) : Word := s.me.pc.setWidth 64 + sext32 disp

/-- The return PC: the next PC of R40, as it stood at issue. -/
def returnPc (s : State) : Word := s.me.npc

end State

/-- A control operation: nothing in a follower. -/
def control (s : State) (k : State → State) : State := if s.isFollower then s else k s

def execBr (c : Cond) (a b : GReg) (disp : Word32) (s : State) : Host.Outcome State Fault Refusal :=
  perform s (.br c a b disp) fun s =>
    control s fun s => if condHolds c (s.rdG a) (s.rdG b) then s.setNpc (s.target disp) else s
def execJmp (disp : Word32) (s : State) : Host.Outcome State Fault Refusal :=
  perform s (.jmp disp) fun s => control s fun s => s.setNpc (s.target disp)
def execJmpr (a : GReg) (s : State) : Host.Outcome State Fault Refusal :=
  perform s (.jmpr a) fun s => control s fun s => s.setNpc (s.rdG a)
def execCall (a : GReg) (disp : Word32) (s : State) : Host.Outcome State Fault Refusal :=
  perform s (.call a disp) fun s => control s fun s => (s.wrG a s.returnPc).setNpc (s.target disp)
def execCallr (a b : GReg) (s : State) : Host.Outcome State Fault Refusal :=
  perform s (.callr a b) fun s => control s fun s => (s.wrG a s.returnPc).setNpc (s.rdG b)
def execRet (a : GReg) (s : State) : Host.Outcome State Fault Refusal :=
  perform s (.ret a) fun s => control s fun s => s.setNpc (s.rdG a)
def execLoop (l : LReg) (disp : Word32) (s : State) : Host.Outcome State Fault Refusal :=
  perform s (.loop l disp) fun s => control s fun s =>
    let n := s.rdLc l
    if n = 0 then s
    else
      let s' := s.wrLc l (n - 1)
      if n - 1 ≠ 0 then s'.setNpc (s.target disp) else s'
/-- ISYNC discards the held line: the line of the next PC is fetched afresh (R83). -/
def execIsync (s : State) : Host.Outcome State Fault Refusal :=
  perform s .isync fun s => control s fun s => s.updThr s.cur fun h => { h with line := none }
def execNop (s : State) : Host.Outcome State Fault Refusal := perform s .nop fun s => s

end Sys2Proof.Machine
end

