-- ==== Sys2Proof/Machine/System.lean ====
section
/-! DEFINITION. Traps, system registers, the fault ring and supervisor forms (R337 to R355): TRAP, CSRR and CSRW, RDWIN and WRWIN,
SUSP, RESUME, KILL, CFGT, SAVEC and LOADC, writes to system registers through core windows (R115), and the delivery of
fault messages. -/

namespace Sys2Proof.Machine

open Sys2Proof

/-! ## TRAP (R346) -/

def execTrap (imm : BitVec 16) (s : State) : Host.Outcome State Fault Refusal :=
  performE s (.trap imm) fun _ => .error (trapF imm)

/-! ## System registers (R84, R86, R336, R337, R347 to R349) -/

/-- The code of TSTATE.STATE (R86). -/
def stateCode : TState → Nat
  | .off => 0
  | .run => 1
  | .parked => 2
  | .wfw => 3
  | .halted => 4
  | .suspended => 5
  | .away => 6
  | .empty => 7

/-- A thread-scope register of thread number n (R347). -/
def threadCsr (h : Thread) (n num : Nat) : Word :=
  match num with
  | 0x000 => BitVec.ofNat 64 (h.wl * 256 + h.gbase)
  | 0x001 => BitVec.ofNat 64 (h.vl * 64 + h.vbase)
  | 0x002 => BitVec.ofNat 64 (h.node.toNat * 2 ^ 32 + (if h.gangDis then 2 ^ 23 else 0) + h.grole * 2 ^ 21 + h.gsize * 2 ^ 19 +
      stateCode h.st * 256 + n)
  | 0x010 => h.fmta.setWidth 64
  | 0x011 => h.fmtb.setWidth 64
  | 0x012 => h.scla.setWidth 64
  | 0x013 => h.sclb.setWidth 64
  | 0x014 => h.tscl.setWidth 64
  | 0x015 => h.qsp.setWidth 64
  | 0x020 => h.uipc.setWidth 64
  | 0x021 => h.uixid.setWidth 64
  | 0x022 => BitVec.ofNat 64 ((if h.uiIn then 2 ^ 63 else 0) + h.uiHpc.toNat)
  | 0x030 => BitVec.ofNat 64 (h.fsub.toNat * 256 + h.fcause.toNat)
  | 0x031 => h.faddr
  | 0x032 => h.fpc.setWidth 64
  | 0x033 => h.fprog
  | _ => 0

/-- Is a number that of a thread-scope register? -/
def isThreadCsr (num : Nat) : Bool :=
  [0x000, 0x001, 0x002, 0x010, 0x011, 0x012, 0x013, 0x014, 0x015, 0x020, 0x021, 0x022, 0x030, 0x031, 0x032, 0x033].contains num

/-- Write the fields of a thread-scope register that software writes, by CSRW or, with win, by WRWIN (R347, R350); none where
it names no field of the register as written so. -/
def setThreadCsr (h : Thread) (num : Nat) (w : Word) (win : Bool) : Option Thread :=
  match num with
  | 0x002 => some { h with gangDis := h.gangDis && w.getLsbD 23 }
  | 0x010 => some { h with fmta := w.setWidth 4 }
  | 0x011 => some { h with fmtb := w.setWidth 4 }
  | 0x012 => some { h with scla := w.setWidth 32 }
  | 0x013 => some { h with sclb := w.setWidth 32 }
  | 0x014 => some { h with tscl := w.setWidth 32 }
  | 0x015 => some { h with qsp := w.setWidth 16 }
  | 0x020 => some { h with uipc := w.setWidth 32 }
  | 0x030 => if win then some { h with fcause := w.setWidth 8, fsub := (w >>> 8).setWidth 8 } else none
  | 0x031 => if win then some { h with faddr := w } else none
  | 0x032 => if win then some { h with fpc := w.setWidth 32 } else none
  | 0x033 => if win then some { h with fprog := w } else none
  | _ => none

/-- TENANT (R348). -/
def Core.tenantCsr (c : Core) : Nat := (if c.sv then 0x80 else 0) + (if c.assigned then 0x40 else 0) + c.tenant % 16

/-- FRING (R337). -/
def Core.fringCsr (c : Core) : Nat := (if c.fringEn then 2 ^ 63 else 0) + c.fringWr % 128 * 2 ^ 18 + c.fringBase

/-- The status word of a VLOG entry (R349). -/
def VlogEntry.status (e : VlogEntry) : Nat :=
  2 ^ 63 + min 127 e.lost * 2 ^ 56 + e.kind % 256 * 2 ^ 48 + e.tenant % 16 * 2 ^ 44 + e.src % 2 ^ 20

/-- A core-scope register of core ck, or its die's COLLTH. -/
def State.coreCsr (s : State) (ck num : Nat) : Word :=
  let c := s.core ck
  match num with
  | 0x040 => c.capt
  | 0x041 => BitVec.ofNat 64 c.tenantCsr
  | 0x042 => BitVec.ofNat 64 (s.cycOf ck)
  | 0x043 => BitVec.ofNat 64 (s.die (ck / 512)).collth
  | 0x044 => BitVec.ofNat 64 c.grid.haloto
  | 0x045 => BitVec.ofNat 64 c.felim
  | 0x046 => BitVec.ofNat 64 c.fringCsr
  | 0x047 => BitVec.ofNat 64 c.frrd
  | 0x048 => (c.vlog.head?.map (·.addr)).getD 0
  | 0x049 => BitVec.ofNat 64 ((c.vlog.head?.map (·.status)).getD 0)
  | _ => 0

/-- A read of VLOGS takes the oldest entry out (R349). -/
def State.takeVlog (s : State) (ck : Nat) : State := s.updCore ck fun c => { c with vlog := c.vlog.drop 1 }

/-- PRIV (CSR) for a register number (R344). -/
def csrF (num : Nat) : FaultRec := priv 0x0A (BitVec.ofNat 64 num)

/-- Registers that only the supervisor core reads (R347). -/
def supReads (num : Nat) : Bool := [0x046, 0x047, 0x048, 0x049].contains num

def execCsrr (a : GReg) (num : Word32) (s : State) : Host.Outcome State Fault Refusal :=
  performE s (.csrr a num) fun s =>
    let n := num.toNat
    if isThreadCsr n then .ok (s.wrG a (threadCsr s.me (s.cur % 64) n))
    else if n = 0x040 ∨ (supReads n ∧ !s.rd.sv) then .error (csrF n)
    else .ok (s.wrG a (s.coreCsr s.ck n))

/-- CSRR of VLOGS returns the oldest entry's status word and removes the entry (R349). -/
def execVlogsRead (a : GReg) (s : State) : Host.Outcome State Fault Refusal :=
  performE s (.vlogsRead a) fun s =>
    if !s.rd.sv then .error (csrF 0x049) else .ok ((s.wrG a (s.coreCsr s.ck 0x049)).takeVlog s.ck)

namespace State

/-- Set a full/empty bit, re-presenting the waiting operations where it changes (R109). -/
def setFull (s : State) (ck off : Nat) (full : Bool) : State :=
  let was := FMap.get false (s.core ck).full (off / 8)
  let s' := s.updCore ck fun c =>
    { c with full := if full then FMap.set c.full (off / 8) true else FMap.erase c.full (off / 8) }
  if was = full then s' else s'.feRepresent ck off

/-- Write FRING (R337); none where the value is refused. DEDUCED, log entry 57. -/
def writeFring (s : State) (ck : Nat) (w : Word) : Option State :=
  let c := s.core ck
  let v := w.toNat
  let base := v % 2 ^ 18
  let en := decide (2 ^ 63 ≤ v)
  if v / 2 ^ 25 % 2 ^ 38 ≠ 0 ∨ base % 2048 ≠ 0 ∨ 0x27FFF < base + 2055 then none
  else if c.fringEn then
    if en then none else some (s.updCore ck fun c => { c with fringEn := false })
  else if en then
    let s := s.updCore ck fun c =>
      { c with fringEn := true, fringBase := base, fringWr := 0, frrd := 0, ulm := c.ulm.write (base + 2048) (leBytes 8 0) }
    some (s.setFull ck (base + 2048) false)
  else some (s.updCore ck fun c => { c with fringBase := base })

/-- Write FRRD (R337); none where the value is refused. -/
def writeFrrd (s : State) (ck : Nat) (w : Word) : Option State :=
  let v := w.toNat
  if 128 ≤ v ∨ 64 < ((s.core ck).fringWr + 128 - v) % 128 then none
  else some (s.updCore ck fun c => { c with frrd := v })

/-- Write a core-scope register that software writes; none where the value is refused. -/
def writeCoreCsr (s : State) (ck num : Nat) (w : Word) : Option State :=
  match num with
  | 0x043 => some (s.updDie (ck / 512) fun d => { d with collth := w.toNat % 256 })
  | 0x044 => some (s.updCore ck fun c => { c with grid := { c.grid with haloto := w.toNat % 2 ^ 32 } })
  | 0x045 => some (s.updCore ck fun c => { c with felim := w.toNat % 256 })
  | 0x046 => s.writeFring ck w
  | 0x047 => s.writeFrrd ck w
  | _ => none

end State

/-- A CSRW of a core-scope or die-scope register: from the supervisor core, with a value that the register takes (R347). -/
def csrwCore (s : State) (a : GReg) (num : Nat) : Except FaultRec State :=
  if !s.rd.sv then .error (csrF num)
  else
    match s.writeCoreCsr s.ck num (s.rdG a) with
    | some s' => .ok s'
    | none => .error (csrF num)

def execCsrw (num : Word32) (a : GReg) (s : State) : Host.Outcome State Fault Refusal :=
  performE s (.csrw num a) fun s =>
    let n := num.toNat
    if isThreadCsr n then
      match setThreadCsr s.my n (s.rdG a) false with
      | some h => .ok (s.setThr s.cur h)
      | none => .error (csrF n)
    else csrwCore s a n
def execCsrwFring (a : GReg) (s : State) : Host.Outcome State Fault Refusal :=
  performE s (.csrwFring a) fun s => csrwCore s a 0x046
def execCsrwFrrd (a : GReg) (s : State) : Host.Outcome State Fault Refusal :=
  performE s (.csrwFrrd a) fun s => csrwCore s a 0x047
/-- A write of 0 to bit 23 of TSTATE clears GANGDIS; the other bits ignore writes (R86). -/
def execCsrwTstate (a : GReg) (s : State) : Host.Outcome State Fault Refusal :=
  perform s (.csrwTstate a) fun s =>
    let w := s.rdG a
    s.updThr s.cur fun h => { h with gangDis := h.gangDis && w.getLsbD 23 }

/-! ## Delivering fault messages (R338, R339) -/

/-- The 32 bytes of a fault message. -/
def faultBytes (m : FaultMsg) : List Byte :=
  [m.cause, m.sub, BitVec.ofNat 8 (m.tenant % 16 + (if m.killed then 16 else 0) + (if m.notice then 32 else 0)), m.thread] ++
    leBytes 4 (locWord m.src) ++ leBytes 8 m.faddr.toNat ++ leBytes 4 m.fpc.toNat ++ leBytes 4 0 ++ leBytes 8 m.fprog.toNat

namespace State

/-- The supervisor core key that a waiting fault message is for. -/
def faultFor (s : State) (i : NetItem) : Option Nat :=
  match i.msg with
  | .faultMsg d m => if d = s.pkg then some (s.supervisor m.tenant) else none
  | _ => none

/-- May the ring of a core take a message? -/
def ringRoom (s : State) (k : Nat) : Bool :=
  let c := s.core k
  c.fringEn && decide ((c.fringWr + 128 - c.frrd) % 128 ≠ 64)

/-- May a waiting message be delivered: it is the oldest for its ring, and the ring takes it? A message for a tenant that is not
active goes nowhere; one for a pre-empted tenant waits. -/
def faultDeliverable (s : State) (i : NetItem) : Bool :=
  match i.msg, s.faultFor i with
  | .faultMsg _ m, some k =>
    !(s.tenant m.tenant).active ||
      ((s.core k).assigned && (s.core k).tenant == m.tenant && s.ringRoom k &&
       !((s.net.takeWhile fun j => j.id != i.id).any fun j => s.faultFor j == some k))
  | _, _ => false

/-- Write a message into the ring of core k and set the doorbell full (R339). -/
def ringWrite (s : State) (k : Nat) (m : FaultMsg) : State :=
  let c := s.core k
  let wr := (c.fringWr + 1) % 128
  let s := s.updCore k fun c =>
    { c with ulm := (c.ulm.write (c.fringBase + 32 * (c.fringWr % 64)) (faultBytes m)).write (c.fringBase + 2048) (leBytes 8 wr)
             fringWr := wr }
  s.setFull k (c.fringBase + 2048) true

end State

/-- FAULT_MESSAGE_DELIVERY of the item State.subj. DEDUCED, log entry 61. -/
def occFaultMessageDelivery (s : State) : Option State :=
  match s.netHere s.subj with
  | none => none
  | some i =>
    match i.msg, s.faultFor i with
    | .faultMsg _ m, some k =>
      if !s.faultDeliverable i then none
      else if (s.tenant m.tenant).active then some ((s.netDrop i.id).ringWrite k m)
      else some (s.netDrop i.id)
    | _, _ => none

def execFaultMessageDelivery (s : State) : Host.Outcome State Fault Refusal := s.happen (occFaultMessageDelivery s)

/-! ## Selectors (R343, R344) -/

/-- Where the checks of a supervisor form lead: to its target, or to the state in which the bundle stops. -/
inductive Sel where
  | ok (t : Nat) (s : State)
  | stop (s : State)

namespace State

/-- The checks common to the supervisor forms, in the order NOTSUP, SELECTOR, TENANT, the guest slots' STATE, SELF; an away
thread is recalled first (R344). DEDUCED, log entry 55. -/
def select (s : State) (sel : Word) (resume item notSelf : Bool) : Sel :=
  let v := sel.toNat
  let t := v % 2 ^ 18
  let k := t / 64
  if !s.rd.sv then .stop (s.fault (priv 0x01 sel))
  else if v / 2 ^ 36 % 2 ^ 27 ≠ 0 ∨ (2 ^ 63 ≤ v ∧ ¬resume) ∨ (v / 2 ^ 18 % 2 ^ 18 ≠ 0 ∧ ¬item) then .stop (s.fault (priv 0x06 sel))
  else if !(s.core k).assigned ∨ (s.core k).tenant ≠ s.myTenant then
    .stop ((s.vlogAt k sel 0x0B s.myTenant (locWord (s.loc s.cur))).fault (priv 0x02 sel))
  else if 56 ≤ t % 64 ∧ t % 64 ≤ 62 then .stop (s.fault (priv 0x03 sel))
  else if notSelf ∧ t = s.cur then .stop (s.fault (priv 0x05 sel))
  else if s.waits (decide ((s.thr t).st = .away)) then
    .stop ((s.sendRecall t).updThr t fun h => { h with wanted := some s.cur }).again
  else .ok t (if (s.thr t).wanted = some s.cur then s.updThr t fun h => { h with wanted := none } else s)

/-! ## RDWIN and WRWIN (R350) -/

/-- A register entry read through a window: an uncorrectable one is scrubbed to zero and logged on its core (R350).
DEDUCED, log entry 58. -/
def scrubRead (s : State) (k : Nat) (vector : Bool) (e : Nat) : State :=
  if (s.core k).defects.regs.contains (vector, e) then
    (s.updCore k fun c =>
      { c with gfile := if vector then c.gfile else FMap.set c.gfile e 0
               vfile := if vector then FMap.set c.vfile e 0 else c.vfile
               defects := { c.defects with regs := c.defects.regs.filter (· != (vector, e)) } }).vlogAt k
      (BitVec.ofNat 64 (2 ^ 63 + (if vector then 65536 else 0) + e)) 0x0A s.myTenant (locWord (s.loc s.cur))
  else s

/-- The item of thread t that SPACE and INDEX name; none where INDEX is out of range. -/
def readItem (s : State) (t sp idx : Nat) : Option (State × Word) :=
  let h := s.thr t
  let k := t / 64
  match sp with
  | 0 =>
    if idx < h.wl * 8 then
      let s := s.scrubRead k false (h.gbase * 8 + idx)
      some (s, FMap.get 0 (s.core k).gfile (h.gbase * 8 + idx))
    else none
  | 1 =>
    if idx / 128 < h.vl * 4 then
      let s := s.scrubRead k true (h.vbase * 4 + idx / 128)
      some (s, (lane (FMap.get 0 (s.core k).vfile (h.vbase * 4 + idx / 128)) (idx % 128)).setWidth 64)
    else none
  | 2 =>
    if idx < 16 then some (s, (FMap.get 0 h.m (idx / 2) >>> (64 * (idx % 2))).setWidth 64)
    else if idx = 16 then some (s, h.lc0.setWidth 64)
    else if idx = 17 then some (s, h.lc1.setWidth 64)
    else if idx = 18 then some (s, h.pc.setWidth 64)
    else if idx < 30 then some (s, (h.shadows[idx - 19]?).getD 0)
    else none
  | _ => if isThreadCsr idx then some (s, threadCsr h (t % 64) idx) else none

/-- Replace lane i of a vector. -/
def setLane (v : VWord) (i : Nat) (w : Word32) : VWord :=
  (v &&& ~~~((0xFFFFFFFF : VWord) <<< (32 * i))) ||| (w.setWidth 4096 <<< (32 * i))

/-- Write the item of thread t that SPACE and INDEX name. -/
def writeItem (s : State) (t sp idx : Nat) (w : Word) (sel : Word) : Except FaultRec State :=
  let h := s.thr t
  match sp with
  | 0 => if idx < h.wl * 8 then .ok (s.putG t idx w) else .error (priv 0x06 sel)
  | 1 =>
    if idx / 128 < h.vl * 4 then
      .ok (s.putV t (idx / 128) (setLane (FMap.get 0 (s.core (t / 64)).vfile (h.vbase * 4 + idx / 128)) (idx % 128) (w.setWidth 32)))
    else .error (priv 0x06 sel)
  | 2 =>
    if idx < 16 then
      let m := FMap.get 0 h.m (idx / 2)
      let m' : Mask128 := if idx % 2 = 0 then m >>> 64 <<< 64 ||| w.setWidth 128 else m.setWidth 64 |>.setWidth 128 ||| (w.setWidth 128 <<< 64)
      .ok (s.putM t (idx / 2) m')
    else if idx = 16 then .ok (s.setThr t { h with lc0 := w.setWidth 32 })
    else if idx = 17 then .ok (s.setThr t { h with lc1 := w.setWidth 32 })
    else if idx = 18 then .ok (s.setThr t { h with pc := w.setWidth 32, fprog := 0, line := none })
    else if idx < 30 then .ok (s.setThr t { h with cp := FMap.set h.cp (idx - 19) w })
    else .error (priv 0x06 sel)
  | _ =>
    if !isThreadCsr idx then .error (priv 0x06 sel)
    else
      match setThreadCsr h idx w true with
      | some h' => .ok (s.setThr t h')
      | none => .error (csrF idx)

/-- Is a thread HALTED or SUSPENDED? -/
def isHeld (s : State) (t : Nat) : Bool := (s.thr t).st == .halted || (s.thr t).st == .suspended

end State

def execRdwin (a b : GReg) (s : State) : Host.Outcome State Fault Refusal :=
  performK s (.rdwin a b) fun s =>
    let sel := s.rdG b
    match s.select sel false true false with
    | .stop s' => .stop s'
    | .ok t s =>
      if !s.isHeld t then .stop (s.fault (priv 0x03 sel))
      else
        match s.readItem t (sel.toNat / 2 ^ 18 % 4) (sel.toNat / 2 ^ 20 % 2 ^ 16) with
        | some (s, w) => .done (s.wrG a w)
        | none => .stop (s.fault (priv 0x06 sel))

def execWrwin (a b : GReg) (s : State) : Host.Outcome State Fault Refusal :=
  performK s (.wrwin a b) fun s =>
    let sel := s.rdG a
    match s.select sel false true false with
    | .stop s' => .stop s'
    | .ok t s =>
      if !s.isHeld t then .stop (s.fault (priv 0x03 sel))
      else
        match s.writeItem t (sel.toNat / 2 ^ 18 % 4) (sel.toNat / 2 ^ 20 % 2 ^ 16) (s.rdG b) sel with
        | .ok s => .done s
        | .error f => .stop (s.fault f)

/-! ## Stopping a thread at a bundle boundary (R351, R353) -/

namespace State

/-- Take back the operation that thread t waits for without promise of progress (R88): its bundle has done nothing, and is issued
again when the thread goes on (R352). A QTLD or DTLD whose block has been read replaces nothing: the bundle reads it again (R175, R263;
DESIGN CHOICE, log entry 135). DEDUCED, log entry 43. -/
def withdraw (s : State) (t : Nat) : State :=
  let ck := t / 64
  let n := t % 64
  let s := s.dropMatrix t
  let waits := fun (a : Access) => a.thr == some t && a.isHeld
  let ops := (s.flight.filter waits).map fun (a : Access) => a.op
  let s := { s with flight := s.flight.filter fun a => !waits a
                    ops := s.ops.filter fun o => !(ops.contains o.id) }
  let s := s.updCore ck fun c =>
    { c with feWait := c.feWait.filter fun w => w.thread != t
             tabs := { c.tabs with loading := c.tabs.loading.filter fun l => l.thread != n }
             means := { c.means with loading := c.means.loading.filter fun l => l.thread != n }
             comm := if n = 63 then { c.comm with reading := none } else c.comm }
  s.updThr t fun h => { h.dropBundle with wait := [], issue := none }

/-- A wait that a stop ends: the others end by themselves. -/
def endable (s : State) (t : Nat) : Wait → Bool
  | .again | .issue | .port | .grid _ _ | .unit _ | .line | .walk _ _ _ | .stop _ | .reads => true
  | .receive => match (s.thr t).line with
    | some l => !headP (l.unit ((s.thr t).pc.toNat % 64 / 2))
    | none => true
  | .reply op => s.flight.any fun a => a.op == op && a.thr == some t && a.isHeld
  | _ => false

/-- Is thread t at a bundle boundary, with its replies, its relaxed accesses and its pending results complete and its stores
acknowledged (R351)?. DEDUCED, log entry 56. -/
def atBoundary (s : State) (t : Nat) : Bool :=
  let h := s.thr t
  (h.st == .run || h.st == .parked) && h.halting.isNone && h.arrived.isNone && h.due == [] && h.forwarded == [] &&
  h.gangLeft == [] && h.wait.all (s.endable t) && (!h.unsettled || h.wait != []) &&
  !((s.withdraw t).thr t).openMarks && decide (s.relaxedOps t = 0) && s.storesDone t s.nextId


/-- End the task of a thread (R353). -/
def endTask (s : State) (t : Nat) : State :=
  let s := (s.withdraw t).leaveStage t
  let s := s.updCore (t / 64) fun c =>
    { c with q := c.q.filter fun e => e.2.thread != t % 64
             comm := if t % 64 = 63 then c.comm.idle else c.comm }
  let s := s.updDie (t / 64 / 512) fun d => { d with starts := d.starts.filter fun x => x.thread != t }
  let s := ((s.updThr t fun h => { h with st := .suspended }).memberDone t true).quitGang t
  s.updThr t fun h =>
    { h with st := .wfw, node := 0xFFFFFFFF#32, uiPend := [], killed := false, noBundle := false, dispatch := false
             stopAsk := none, halting := none }

/-- Suspend a thread (R351). -/
def suspend (s : State) (t : Nat) : State :=
  ((s.withdraw t).updThr t fun h => { h with st := .suspended, stopAsk := none }).memberDone t true

/-- Does a stop asked of thread t take effect now: at its bundle boundary, or since it has stopped of itself (R351, R353, R356)? -/
def stopDue (s : State) (t : Nat) : Bool :=
  let h := s.thr t
  h.stopAsk.isSome &&
  (match h.st with
   | .run | .parked => s.atBoundary t
   | .away => false
   | _ => true)

/-- A stop asked of thread t takes effect: a KILL ends its task in every state; a SUSP of a thread that has stopped changes nothing. -/
def takeStop (s : State) (t : Nat) : State :=
  let h := s.thr t
  match h.stopAsk, h.st with
  | some true, .off | some true, .empty => s.updThr t fun h => { h with stopAsk := none }
  | some true, _ => s.endTask t
  | some false, .run | some false, .parked => s.suspend t
  | some false, _ => s.updThr t fun h => { h with stopAsk := none }
  | none, _ => s

/-- Ask a running or parked thread to stop at its next bundle boundary; a KILL stands over a SUSP. -/
def askStop (s : State) (t : Nat) (kill : Bool) : State :=
  s.updThr t fun h => { h with stopAsk := some (kill || h.stopAsk == some true) }

end State

/-- SUSP: the supervisor is parked until the target's state has settled (R351). -/
def execSusp (a : GReg) (s : State) : Host.Outcome State Fault Refusal :=
  performK s (.susp a) fun s =>
    match s.select (s.rdG a) false false true with
    | .stop s' => .stop s'
    | .ok t s =>
      match (s.thr t).st with
      | .run | .parked =>
        if s.atBoundary t && (s.thr t).stopAsk != some true then .done (s.suspend t)
        else .done ((s.askStop t false).park s.cur (.stop t))
      | _ => .done (s.updThr t fun h => { h with stopAsk := none })

/-- KILL: the supervisor is parked until the target waits for work (R353). -/
def execKill (a : GReg) (s : State) : Host.Outcome State Fault Refusal :=
  performK s (.kill a) fun s =>
    let sel := s.rdG a
    match s.select sel false false true with
    | .stop s' => .stop s'
    | .ok t s =>
      match (s.thr t).st with
      | .off | .empty => .stop (s.fault (priv 0x03 sel))
      | .run | .parked =>
        if s.atBoundary t then .done (s.endTask t)
        else .done ((s.askStop t true).park s.cur (.stop t))
      | _ => .done (s.endTask t)

/-! ## RESUME (R352) -/

namespace State

/-- The next PC after the bundle at a halted thread's PC (R40), in its held line or, where it holds none, in the line in ULM.
DEDUCED, log entry 60. -/
def skipPc (s : State) (t : Nat) : Word :=
  let h := s.thr t
  let base := h.pc.toNat / 64 * 64
  let fresh : Line := { base := base, bytes := BitVec.ofNat 512 ((s.core (t / 64)).ulm.nat base 64) }
  let l := match h.line with
    | some l => if l.base = base then l else fresh
    | none => fresh
  BitVec.ofNat 64 (l.nextPc h.pc.toNat)

/-- The task that a dispatch fault of thread t left unstarted: its pipeline stage, or its node (R96). -/
def dispatchItem (s : State) (t : Nat) : DispItem :=
  let h := s.thr t
  let tenant := (s.core (t / 64)).tenant
  let item := fun (entry args fmt : Word) (stage : Option (Nat × Nat × Nat)) =>
    ({ tenant := tenant, index := h.node.toNat, prio := 0, light := false, comm := decide (t % 64 = 63), w := 0, v := 0
       entry := entry, args := args, fmt := fmt, stage := stage } : DispItem)
  match (s.die (t / 64 / 512)).pipes.findSome? fun p =>
      (p.running.find? fun x => x.2.1 == t / 64 && x.2.2 == t % 64).map fun x => (p, x) with
  | some (p, x) =>
    (match p.stages[x.1]? with
     | some st => item st.entry st.args p.fmt (some (p.id, x.1, x.2.1))
     | none => item (h.pc.setWidth 64) 0 0 none)
  | none =>
    let r := s.nodeRec tenant h.node.toNat
    item (h.pc.setWidth 64) (BitVec.ofNat 64 (field r 16 8)) (BitVec.ofNat 64 (field r 24 8)) none

/-- Start the dispatch steps of a task on a thread (R96). -/
def startTask (s : State) (t : Nat) (i : DispItem) : State :=
  let s := s.updThr t fun h => { h with st := .parked, wait := [.dispatch, .horizon none], line := none }
  s.updDie (t / 64 / 512) fun d => { d with starts := d.starts ++ [{ thread := t, item := i }] }

/-- The thread's streams fetch again what an earlier fetch failed on, so that the bundle meets the address as it is now (R139, R352). -/
def fetchAgain (s : State) (t : Nat) : State :=
  s.updCore (t / 64) fun c =>
    { c with q := c.q.map fun (x : Nat × Stream) =>
        if x.2.thread = t % 64 then (x.1, { x.2 with fetched := x.2.fetched.takeWhile fun f => f.fault.isNone }) else x }

/-- A stopped thread runs again at a PC, in no gang (R103). -/
def resumeAt (s : State) (t : Nat) (pc : Word) : State :=
  (((s.quitGang t).updThr t fun h => { h with noBundle := false, dispatch := false, pend := [], wait := [] }).fetchAgain t).goFresh t pc

end State

def execResume (a : GReg) (s : State) : Host.Outcome State Fault Refusal :=
  performK s (.resume a) fun s =>
    let sel := s.rdG a
    let skip := decide (2 ^ 63 ≤ sel.toNat)
    match s.select sel true false false with
    | .stop s' => .stop s'
    | .ok t s =>
      let h := s.thr t
      if h.killed then .stop (s.fault (priv 0x04 sel))
      else if ¬(h.st = .halted ∨ (h.st = .suspended ∧ skip = false)) ∨ (skip = true ∧ h.noBundle = true) then .stop (s.fault (priv 0x03 sel))
      else if s.waits (!s.storesAcked s.cur s.issuePlace .pkg) then .stop s.again
      else if skip then .done (let pc := s.skipPc t; (s.updThr t fun h => { h with fprog := 0 }).resumeAt t pc)
      else if h.st = .halted ∧ h.dispatch then
        let i := s.dispatchItem t
        .done ((s.updThr t fun h => { h with noBundle := false, dispatch := false }).startTask t i)
      else .done (s.resumeAt t (h.pc.setWidth 64))

/-! ## CFGT (R354) -/

/-- Do two ranges of file entries meet? -/
def rangesMeet (a n b m : Nat) : Bool := decide (0 < n) && decide (0 < m) && decide (a < b + m) && decide (b < a + n)

def execCfgt (a b : GReg) (s : State) : Host.Outcome State Fault Refusal :=
  performK s (.cfgt a b) fun s =>
    let sel := s.rdG a
    match s.select sel false false false with
    | .stop s' => .stop s'
    | .ok t s =>
      let v := (s.rdG b).toNat
      let gb := v % 256
      let wl := v / 256 % 32
      let vb := v / 2 ^ 16 % 64
      let vl := v / 2 ^ 22 % 32
      let h := s.thr t
      let meets := (List.range 64).any fun n =>
        n != t % 64 &&
        (let o := (s.core (t / 64)).thread n
         -- a guest slot keeps its 16 registers, whatever the W of the guest in it (R85, R308)
         rangesMeet gb wl o.gbase (if 56 ≤ n ∧ n ≤ 62 then 2 else o.wl) || rangesMeet vb vl o.vbase o.vl)
      if 55 < t % 64 ∨ ¬(h.st = .off ∨ h.st = .wfw) ∨ v / 2 ^ 13 % 8 ≠ 0 ∨ v / 2 ^ 27 ≠ 0 ∨ 16 < wl ∨ 256 < gb + wl ∨ 16 < vl ∨
          64 < vb + vl ∨ meets then .stop (s.fault (priv 0x07 sel))
      else
        .done (s.setThr t { h with gbase := gb, wl := wl, vbase := vb, vl := vl, st := if wl = 0 then .off else .wfw })

/-! ## SAVEC and LOADC (R355) -/

namespace State

/-- The record of a halted or suspended thread. -/
def threadRecord (s : State) (t : Nat) : List Byte :=
  let h := s.thr t
  let c := s.core (t / 64)
  let csr := fun n => leBytes 8 (threadCsr h (t % 64) n).toNat
  let uint := (List.range 16).flatMap fun i =>
    match h.uiPend[i]? with
    | some (pc, x) => leBytes 8 (pc.toNat + x.toNat * 2 ^ 32 + 2 ^ 63)
    | none => leBytes 8 0
  leBytes 4 h.pc.toNat ++ [BitVec.ofNat 8 (stateCode h.st), BitVec.ofNat 8 h.wl, BitVec.ofNat 8 h.vl,
    BitVec.ofNat 8 (c.tenant % 16 + (if h.killed then 16 else 0))] ++
  leBytes 4 h.lc0.toNat ++ leBytes 4 h.lc1.toNat ++
  ((List.range 8).flatMap fun i => leBytes 16 (FMap.get 0 h.m i).toNat) ++
  (h.shadows.flatMap fun w => leBytes 8 w.toNat) ++
  leBytes 24 (Config.waitBytes s.freeCount).toNat ++
  ([0x010, 0x011, 0x012, 0x013, 0x014, 0x015, 0x020, 0x021, 0x022, 0x030, 0x031, 0x032, 0x033].flatMap csr) ++
  leBytes 8 h.node.toNat ++ leBytes 16 0 ++ uint ++
  ((List.range 128).flatMap fun i => leBytes 8 (if i < h.wl * 8 then (FMap.get 0 c.gfile (h.gbase * 8 + i)).toNat else 0)) ++
  ((List.range (h.vl * 4)).flatMap fun i => vecBytes (FMap.get 0 c.vfile (h.vbase * 4 + i)))

/-- The blocks of 512 bytes of a record at an address, with their checks (R121). -/
def recordBlocks (s : State) (ad : Word) (n : Nat) (store : Bool) : List (Nat × Word × Tr) :=
  (List.range n).map fun i =>
    let va := ad + BitVec.ofNat 64 (512 * i)
    (i, va, if store then s.checkAccess .dm va 512 512 .engineWr else s.checkFixed .dm va 512 512 .engine)

end State

def execSavec (a : GReg) (off : Off16) (b : GReg) (s : State) : Host.Outcome State Fault Refusal :=
  performK s (.savec a off b) fun s =>
    let sel := s.rdG b
    match s.select sel false false true with
    | .stop s' => .stop s'
    | .ok t s =>
      let h := s.thr t
      if !s.isHeld t ∨ h.grole ≠ 0 ∨ (s.core (t / 64)).q.any (fun e => e.2.thread == t % 64) then .stop (s.fault (priv 0x03 sel))
      else
        let ad := s.rdG a + sext16 off
        let l := s.recordBlocks ad (3 + h.vl * 4) true
        if ad.toNat % 512 ≠ 0 then .stop (s.fault (alignF ad))
        else
          match firstBad l with
          | some (_, va, tr) => .stop (s.accessFails va tr)
          | none =>
            let d := s.threadRecord t
            let s := { s with freeCount := s.freeCount + 1 }
            s.store Mode.plain false false (blockPieces l fun i va p => cutStore va p (slice d (512 * i) 512))

def execLoadc (a : GReg) (off : Off16) (b : GReg) (s : State) : Host.Outcome State Fault Refusal :=
  performK s (.loadc a off b) fun s =>
    let sel := s.rdG b
    match s.select sel false false true with
    | .stop s' => .stop s'
    | .ok t s =>
      let h := s.thr t
      if h.st ≠ .wfw then .stop (s.fault (priv 0x03 sel))
      else
        let ad := s.rdG a + sext16 off
        let l := s.recordBlocks ad (3 + h.vl * 4) false
        if ad.toNat % 512 ≠ 0 then .stop (s.fault (alignF ad))
        else
          match firstBad l with
          | some (_, va, tr) => .stop (s.accessFails va tr)
          | none => s.load (.loadc t) Mode.plain false [] (blockPieces l fun _ va p => cutLoad va p 512)

/-- Is a record well formed, and does it match its target and its tenant?. DEDUCED, log entry 59. -/
def recordOk (h : Thread) (tenant : Nat) (d : List Byte) : Bool :=
  (decide (field d 4 1 = 4) || decide (field d 4 1 = 5)) && decide (field d 5 1 = h.wl) && decide (field d 6 1 = h.vl) &&
  decide (field d 7 1 % 16 = tenant) && decide (field d 7 1 < 32) && decide (field d 368 16 = 0)

/-- Was the fault that a record holds one without a faulting bundle: of a line's entry, or of a transfer's target, which may lie outside ULM
(R37, R82)? A dispatch fault: PAGE or PROT with subcode DISPATCH (R96)? -/
def entryCause (cause sub pc : Nat) : Bool :=
  (decide (cause = 1) && decide (1 ≤ sub) && decide (sub ≤ 3)) || (decide (cause = 6) && decide (sub = 0) && decide (0x28000 ≤ pc))
def dispatchCause (cause sub : Nat) : Bool := (decide (cause = 5) || decide (cause = 6)) && decide (sub = 1)

namespace State

/-- What a record holds of a thread's registers is put into thread t (R355). -/
def putRecord (s : State) (t : Nat) (d : List Byte) : State :=
  let f := fun i => field d (256 + 8 * i) 8
  let pend := (List.range 16).filterMap fun i =>
    let e := field d (384 + 8 * i) 8
    if 2 ^ 63 ≤ e then some (BitVec.ofNat 32 (e % 2 ^ 32), BitVec.ofNat 16 (e / 2 ^ 32)) else none
  let s := s.updThr t fun h =>
    { h with pc := BitVec.ofNat 32 (field d 0 4), killed := decide (field d 7 1 / 16 % 2 = 1)
             lc0 := BitVec.ofNat 32 (field d 8 4), lc1 := BitVec.ofNat 32 (field d 12 4)
             m := (List.range 8).map fun i => (i, BitVec.ofNat 128 (field d (16 + 16 * i) 16))
             cp := (List.range 11).map fun i => (i, BitVec.ofNat 64 (field d (144 + 8 * i) 8))
             fmta := BitVec.ofNat 4 (f 0), fmtb := BitVec.ofNat 4 (f 1), scla := BitVec.ofNat 32 (f 2), sclb := BitVec.ofNat 32 (f 3)
             tscl := BitVec.ofNat 32 (f 4), qsp := BitVec.ofNat 16 (f 5), uipc := BitVec.ofNat 32 (f 6), uixid := BitVec.ofNat 16 (f 7)
             uiIn := decide (2 ^ 63 ≤ f 8), uiHpc := BitVec.ofNat 32 (f 8), fcause := BitVec.ofNat 8 (f 9), fsub := BitVec.ofNat 8 (f 9 / 256)
             faddr := BitVec.ofNat 64 (f 10), fpc := BitVec.ofNat 32 (f 11), fprog := BitVec.ofNat 64 (f 12)
             node := BitVec.ofNat 32 (f 13), uiPend := pend }
  let wl := (s.thr t).wl
  let vl := (s.thr t).vl
  let s := (List.range (wl * 8)).foldl (fun s i => s.putG t i (BitVec.ofNat 64 (field d (512 + 8 * i) 8))) s
  (List.range (vl * 4)).foldl (fun s i => s.putV t i (BitVec.ofNat 4096 (field d (1536 + 512 * i) 512))) s

/-- The record's thread takes the place of target t. -/
def loadRecord (s : State) (t : Nat) (d : List Byte) : State :=
  let halted := decide (field d 4 1 = 4)
  let cause := field d (256 + 72) 8 % 256
  let sub := field d (256 + 72) 8 / 256 % 256
  (s.putRecord t d).updThr t fun h =>
    { h with st := if halted then .halted else .suspended, line := none, pend := [], wait := [], stopAsk := none
             noBundle := halted && (entryCause cause sub (field d 0 4) || dispatchCause cause sub), dispatch := halted && dispatchCause cause sub }

/-- The reply of a LOADC has come to supervisor thread t: the checks of the record, then its effect. -/
def finishLoadc (s : State) (t target : Nat) (d : List Byte) : Option FaultRec × State :=
  let sel := BitVec.ofNat 64 target
  if (s.thr target).st ≠ .wfw then (some (priv 0x03 sel), s)
  else if recordOk (s.thr target) (s.core (t / 64)).tenant d then (none, s.loadRecord target d)
  else (some (priv 0x08 sel), s)

end State

/-! ## System registers through a core window (R115, R347) -/

namespace State

/-- A write to a system register through its core's window, made by a core of a tenant: a value that the register refuses is
discarded and logged on the target core. -/
def windowCsr (s : State) (a : Access) (core off : Nat) (w : Word) : State :=
  match s.writeCoreCsr core (off / 8) w with
  | some s' => s'
  | none => s.vlogAt core (BitVec.ofNat 64 (s.windowAddr core (0x400000 + off))) 0x01 a.tenant (locWord (s.accLoc a))

end State

/-- SLOT_UNCORRECTABLE_ERROR at tile slot State.subj = core key * 32 + slot: POISON is set in its record (R245). -/
def execSlotUncorrectableError (s : State) : Host.Outcome State Fault Refusal :=
  let slot := { FMap.get TileSlot.reset (s.core (s.subj / 32)).tiles.slots (s.subj % 32) with poison := true }
  .next (s.updCore (s.subj / 32) fun c => { c with tiles := { c.tiles with slots := FMap.set c.tiles.slots (s.subj % 32) slot } })

/-- Is an OPC assigned (R58, R59)? -/
def opcAssigned (opc : Nat) : Bool :=
  match decodeOp opc 0 0 0 with
  | .error .opcode => false
  | _ => true

/-- A head whose OPC is not assigned, or whose SUB its scheme does not assign (R60): ILLEGAL, with subcode OPCODE or SUBCODE. -/
def execUnassignedOpcode (opc : BitVec 9) (_ : BitVec 4) (s : State) : Host.Outcome State Fault Refusal :=
  .next (s.fault (illegal (if opcAssigned opc.toNat then subSUBCODE else subOPCODE)))

end Sys2Proof.Machine
end

