-- ==== Sys2Proof/Machine/MemEvents.lean ====
section
/-! DEFINITION. The events of the memory system: line fetches (R64, R309), results that become readable (R62), port acceptance, bank
and route acknowledgements (R147), load replies (R124), receipts (R228), page walks (R119), and system registers reached
through core windows (R115). -/

namespace Sys2Proof.Machine

open Sys2Proof

/-! ## Line fetches (R36, R37, R42, R64, R309) -/

namespace State

/-- The bytes of the line that thread t waits for, with the bad word among them, once its read is performed. -/
def lineData (s : State) (t : Nat) : Option (List Byte × Option (Bool × Word)) :=
  let h := s.thr t
  let base := h.pc.toNat / 64 * 64
  match h.fetch with
  | none => none
  | some id =>
    if h.home.isSome then (FMap.find? s.replies id).map fun r => (r.1, r.2.map fun p => (p, BitVec.ofNat 64 ((base + r.1.length) / 8 * 8)))
    else if s.portClear (t / 64) .ulm id then
      some ((s.core (t / 64)).ulm.read base 64, s.badAt (BitVec.ofNat 64 base) (.buf (t / 64) .ulm base) 64)
    else none

/-- May the line fetch of thread t complete? -/
def lineReady (s : State) (t : Nat) : Bool :=
  (s.thr t).wait == [.line] && (s.thr t).st == .parked && (s.lineData t).isSome

end State

/-- LINE_FETCH_COMPLETE for thread State.subj: the line is held, checked whole, and its first bundle may issue. -/
def occLineFetchComplete (s : State) : Option State :=
  let t := s.subj
  let h := s.thr t
  match s.lineReady t, s.lineData t with
  | true, some (d, bad) =>
    let base := h.pc.toNat / 64 * 64
    let s := { s with replies := match h.fetch with | some id => FMap.erase s.replies id | none => s.replies }
    match bad with
    | some (p, w) => some ((s.updThr t fun h => { h with fetch := none }).entryFault t h.pc (killF p w))
    | none =>
      let l : Line := { base := base, bytes := BitVec.ofNat 512 (leNat d) }
      some ((s.updThr t fun h => { h with fetch := none, line := some l }).goTo t (h.pc.setWidth 64))
  | _, _ => none

def execLineFetchComplete (s : State) : Host.Outcome State Fault Refusal := s.happen (occLineFetchComplete s)

/-! ## Pending results (R62) -/

/-- Has a pending register of a thread become readable? -/
def State.resultDue (s : State) (t : Nat) : Bool :=
  (s.thr t).pend.any fun m => match m.ready with | some n => decide (n ≤ s.cycOf (t / 64)) | none => false

/-- RESULT_READY for thread State.subj: the marks of results that are readable are cleared. -/
def occResultReady (s : State) : Option State :=
  if s.resultDue s.subj then
    some (s.updThr s.subj fun h =>
      { h with pend := h.pend.filter fun m => match m.ready with | some n => decide (s.cycOf (s.subj / 64) < n) | none => true })
  else none

def execResultReady (s : State) : Host.Outcome State Fault Refusal := s.happen (occResultReady s)

/-! ## Port acceptance (R24, R122, R147, R149, R302) -/

namespace State

/-- Does an access stand in a buffer of the core that issued it? -/
def ownBuffer (a : Access) : Bool :=
  match a.place with
  | .buf c _ _ => c == a.core
  | _ => false

end State

namespace State

/-- Does a packet taken back from a port stand before an access: one of the same core to the same block, or, of `.ord` packets, to the same
package (R149, R155)? -/
def strandedBefore (s : State) (a : Access) (g : Nat) : Bool :=
  s.stranded.any fun k => (s.ownAccess k).any fun b => b.core == a.core &&
    (blockOf k.msg == some (g / 64) || (a.ord && k.ord && k.dst == pkgOf g))

/-- The route of an access to another package: with none, it waits, for room in the send queue (R303), for its pinned route's port to
send again, for packets that have still to find another way, or, an `.ord` packet, for its source's packets to the block on another route
(R302). -/
def route (s : State) (a : Access) (g : Nat) : Option (Nat × List Nat) :=
  if s.strandedBefore a g then none
  else (s.freeRoute a.core g a.ord).filter fun r => s.hasRoom r.1 (accessMsg (s.srcOf a) a g)

/-- May the port take an issued access now? -/
def acceptable (s : State) (a : Access) : Bool :=
  s.sendable a &&
  !(s.issued.any fun b => b.before a &&
    b.core == a.core && (s.sendable b || (ownBuffer a && ownBuffer b) || (b.thr == a.thr && b.place.bank == a.place.bank))) &&
  (match a.place with
   | .remote g =>
     !s.isPresent (pkgOf g) || (s.route a g).isSome
   | _ => true)

end State

/-- PORT_ACCEPTANCE of the issued access State.subj. -/
def occPortAcceptance (s : State) : Option State :=
  match s.issued.find? fun a => a.id == s.subj with
  | none => none
  | some a =>
    if !s.acceptable a then none
    else
      let s' := { s with issued := s.issued.filter fun b => b.id != a.id }
      match a.place with
      | .remote g =>
        if !s.isPresent (State.pkgOf g) then some (s'.toAbsent a g)
        else
          match s.route a g with
          | some r =>
            let s' := s'.enqueue r (State.pkgOf g) a.ord (accessMsg (s.srcOf a) a g)
            some (({ s' with flight := s'.flight ++ [{ a with via := some r }] } : State).accepted a)
          | none => none
      | _ => some (({ s' with flight := s'.flight ++ [a] } : State).accepted a)

def execPortAcceptance (s : State) : Host.Outcome State Fault Refusal := s.happen (occPortAcceptance s)

/-! ## Bank and route acknowledgements (R147) -/

namespace State

/-- A store has been performed at its bank: it is acknowledged here, or to the package that sent it, once the tag of its segment has
checked (R316). -/
def storeDone (s : State) (a : Access) : State :=
  match a.unchecked, a.back with
  | some _, _ => { s with flight := s.flight.map fun b => if b.id = a.id then { b with ans := some .ok } else b }
  | none, some _ => s.farStoreDone a
  | none, none => s.acked a

end State

/-- BANK_ACKNOWLEDGEMENT: of the accepted store State.subj, which its bank performs; or of the item State.subj, in which another
package's bank acknowledges a store. -/
def occBankAcknowledgement (s : State) : Option State :=
  match s.flight.find? fun a => a.id == s.subj with
  | some a =>
    match a.kind, a.place with
    | .store _, .csr _ _ | .store _, .remote _ | .masked _, .remote _ => none
    | .store d, p =>
      if a.ans.isNone && s.bankReady a then some (((s.writeMem p d).heal a.pkt).storeDone a) else none
    | .masked d, p =>
      if a.ans.isNone && s.bankReady a then some (((s.writeMasked p d).heal a.pkt).storeDone a) else none
    | _, _ => none
  | none =>
    match s.net.find? fun i => i.id == s.subj with
    | some i =>
      (match i.msg with
       | .bankAck d id =>
         if d.pkg ≠ s.pkg then none
         else
           let s := s.netDrop i.id
           (match s.flight.find? fun a => a.id == id with
            | some a => some (s.acked a)
            | none => some s)
       | _ => none)
    | none => none

def execBankAcknowledgement (s : State) : Host.Outcome State Fault Refusal := s.happen (occBankAcknowledgement s)

/-- ROUTE_ACKNOWLEDGEMENT of the item State.subj: the destination's ingress has taken the packet. -/
def occRouteAcknowledgement (s : State) : Option State :=
  match s.netHere s.subj with
  | some i =>
    (match i.msg with
     | .routeAck _ id =>
       let s := s.netDrop i.id
       some { s with flight := s.flight.map fun a => if a.id = id then { a with routeAck := true } else a }
     | _ => none)
  | none => none

def execRouteAcknowledgement (s : State) : Host.Outcome State Fault Refusal := s.happen (occRouteAcknowledgement s)

/-- WINDOW_REGISTER_WRITE of the accepted store State.subj to a system register through its core's window (R115, R347). -/
def occWindowRegisterWrite (s : State) : Option State :=
  match s.flight.find? fun a => a.id == s.subj with
  | some a =>
    match a.kind, a.place with
    | .store d, .csr c off =>
      if a.ans.isNone && s.bankReady a then some ((s.windowCsr a c off (BitVec.ofNat 64 (leNat d))).storeDone a)
      else none
    | _, _ => none
  | none => none

def execWindowRegisterWrite (s : State) : Host.Outcome State Fault Refusal := s.happen (occWindowRegisterWrite s)

/-! ## Load replies (R124 to R131, R340, R355) -/

namespace State

/-- What a load finds at its place. -/
def readPlace (s : State) (p : Place) (n : Nat) : List Byte :=
  match p with
  | .acc c o => s.readAcc c o n
  | .csr c o => leBytes n (s.coreCsr c (o / 8)).toNat
  | p => s.readMem p n

/-- A read of VLOGS through a window removes the oldest entry (R349); a read of the ACC window shows additions that still land. -/
def readEffect (s : State) (p : Place) : State :=
  match p with
  | .csr c o => if o / 8 = 0x049 then s.takeVlog c else s
  | .acc _ _ => { s with freeCount := s.freeCount + 1 }
  | _ => s

/-- The answers of an operation, in the order of its pieces. -/
def opBytes (o : MemOp) : List Byte := o.got.flatMap (·.2)

/-- Deliver the answers of a load to its destinations. -/
def deliverLoad (s : State) (o : MemOp) : Option FaultRec × State :=
  let d := opBytes o
  let own := s.waitsFor o.thr o.id
  match o.what with
  | .ld ty a => (none, s.deliver own o.thr (.g a) ((ext (leNat d) ty).setWidth 4096))
  | .ldv a => (none, s.deliver own o.thr (Regs.v a) (BitVec.ofNat 4096 (leNat d)))
  | .ldx ty a lanes =>
    let w := fun i => match (lanes.zip (o.got.map (·.2))).find? fun e => e.1 == i with
      | some e => ext32 (leNat e.2) ty
      | none => 0
    (none, s.deliver own o.thr (Regs.v a) (ofElems 32 ((List.range 128).map w)))
  | .fillG first =>
    (none, (List.range (d.length / 8)).foldl
      (fun s i => s.deliver own o.thr (.g (first + i)) (BitVec.ofNat 4096 (field d (8 * i) 8))) s)
  | .fillV first =>
    (none, (List.range (d.length / 512)).foldl
      (fun s i => s.deliver own o.thr (.v (first + i)) (BitVec.ofNat 4096 (field d (512 * i) 512))) s)
  | .loadc target => s.finishLoadc o.thr target d
  | _ => (none, s)

/-- The last answer of a load of thread t has come. -/
def loadDone (s : State) (o : MemOp) : State :=
  let s := { s with ops := s.ops.filter fun x => x.id != o.id }
  match o.badWord with
  | some (p, va) => s.takeFault o.thr (killF p va)
  | none =>
    match s.deliverLoad o with
    | (some f, s) => s.takeFault o.thr f
    | (none, s) => if (s.thr o.thr).halting.isSome then s.settle o.thr else s.replied o.thr o.id o.acqSys

/-- The answer of a piece of a load of a thread. -/
def loadPiece (s : State) (a : Access) (d : List Byte) (bad : Option (Bool × Word)) : State :=
  let s := { s with flight := s.flight.filter fun b => b.id != a.id }
  match s.ops.find? fun o => o.id == a.op with
  | none => s
  | some o =>
    let o : MemOp :=
      { o with left := o.left - 1, got := FMap.set o.got a.part d, badWord := o.badWord.or bad }
    if o.left = 0 then s.loadDone o else { s with ops := s.ops.map fun x => if x.id = o.id then o else x }

end State

/-- LOAD_REPLY: of the accepted load State.subj, which its bank performs; or of the item State.subj, which brings the data of a
read at another package. -/
def occLoadReply (s : State) : Option State :=
  match s.flight.find? fun a => a.id == s.subj with
  | some a =>
    match a.kind, a.place with
    | .load _, .remote _ => none
    | .load n, p =>
      if !s.bankReady a then none
      else
        let d := s.readPlace p n
        let bad := s.badMem p n
        let word := s.badAt a.va p n
        let s := s.readEffect p
        match a.back, a.thr with
        | some (l, id), _ =>
          let upTo := match bad, p with
            | some (_, w), .dm x | some (_, w), .buf _ _ x => w - x
            | _, _ => n
          some (({ s with flight := s.flight.filter fun b => b.id != a.id } : State).post l.pkg
            (.copyData l id (d.take upTo) (bad.map (·.1))))
        | none, some _ => some (s.loadPiece a d word)
        | none, none =>
          some { s with flight := s.flight.filter (fun b => b.id != a.id), replies := FMap.set s.replies a.id (d, bad.map (·.1)) }
    | _, _ => none
  | none =>
    match s.netHere s.subj with
    | some i =>
      (match i.msg with
       | .copyData _ id d bad =>
         let s := s.netDrop i.id
         some { s with flight := s.flight.filter (fun b => b.id != id), replies := FMap.set s.replies id (d, bad) }
       | _ => none)
    | none => none

def execLoadReply (s : State) : Host.Outcome State Fault Refusal := s.happen (occLoadReply s)

/-! ## Receipts (R228) -/

/-- RECEIPT_ARRIVAL of the item State.subj: the receipt register that is pending for it is written. DEDUCED, log entry 62. -/
def occReceiptArrival (s : State) : Option State :=
  match s.netHere s.subj with
  | some i =>
    (match i.msg with
     | .receipt l r w =>
       let t := locKey l
       let s := s.netDrop i.id
       if (s.thr t).pend.any fun m => m.reg == .g r && m.ready.isNone then
         some ((s.deliver false t (.g r) (w.setWidth 4096)).settle t)
       else some s
     | _ => none)
  | none => none

def execReceiptArrival (s : State) : Host.Outcome State Fault Refusal := s.happen (occReceiptArrival s)

/-! ## Page walks (R119) -/

/-- The requests to the page walker of a die that came before number n (R119). -/
def State.walksBefore (s : State) (die n : Nat) : Nat :=
  (s.cores.map fun (c : Nat × Core) =>
    if c.1 / 512 ≠ die then 0
    else (c.2.threads.filter fun (h : Nat × Thread) => h.2.wait.any fun w => match w with
      | .walk _ _ m => decide (m < n)
      | _ => false).length).foldl (· + ·) 0

/-- PAGE_WALK_COMPLETE for thread State.subj, whose walk is one of the die's 32: both TLBs take the entry that the walk finds, and the
bundle is issued again; where it finds none, the bundle faults (R119). -/
def occPageWalkComplete (s : State) : Option State :=
  let t := s.subj
  match (s.thr t).wait with
  | [.walk n va k] =>
    if 32 ≤ s.walksBefore (t / 64 / 512) k then none
    else
      let s := match s.walk n (va.toNat % 2 ^ 57) with
        | some e => s.tlbInsert (t / 64) e
        | none => s
      some (s.updThr t fun h => { h with wait := [.again] })
  | _ => none

def execPageWalkComplete (s : State) : Host.Outcome State Fault Refusal := s.happen (occPageWalkComplete s)

end Sys2Proof.Machine
end

