-- ==== Sys2Proof/Machine/Tasks.lean ====
section
/-! DEFINITION. Tasks: the graph walkers (R93, R111, R401), the dispensers (R94, R95), task starts (R96), pipeline launches (R110 to
R112) and COPY nodes (R298). -/

namespace Sys2Proof.Machine

open Sys2Proof

/-! ## Node records (R91) -/

def nodeType (r : List Byte) : Nat := field r 0 4 % 16
def nodePrio (r : List Byte) : Nat := field r 0 4 / 16 % 4
def nodeLight (r : List Byte) : Bool := decide (field r 0 4 / 64 % 2 = 1)
def nodeTenant (r : List Byte) : Nat := field r 0 4 / 128 % 16
/-- Required W/8: 0 stands for 128 registers. -/
def nodeW (r : List Byte) : Nat := if field r 0 4 / 2 ^ 11 % 16 = 0 then 16 else field r 0 4 / 2 ^ 11 % 16
def nodeV (r : List Byte) : Nat := field r 0 4 / 2 ^ 15 % 16
def nodeAny (r : List Byte) : Bool := decide (field r 0 4 / 2 ^ 19 % 2 = 1)
def nodeCluster (r : List Byte) : Nat := field r 0 4 / 2 ^ 20 % 32
def nodeDie (r : List Byte) : Nat := field r 0 4 / 2 ^ 25 % 8
def nodeSuccs (r : List Byte) : Nat := field r 0 4 / 2 ^ 28
def nodePtr (r : List Byte) : Word := BitVec.ofNat 64 (field r 8 8)

namespace State

/-- Is cluster cl of die d assigned to a tenant? -/
def clusterOf (s : State) (tenant d cl : Nat) : Bool :=
  let c := s.core (d * 512 + cl * 16)
  c.assigned && c.tenant == tenant

/-- Where a unit of die d that is no core stands. -/
def dieLoc (s : State) (d : Nat) : Loc := { pkg := s.pkg, die := d, core := 0, thread := 0 }

/-- Read a block for a unit that is no core, through a tenant's tree (R117 to R119), 64 bytes at a time: the bytes, or the fault with
the target of a window violation. DEDUCED, log entry 64. -/
def unitRead (s : State) (tenant : Nat) (va : Word) (n : Nat) : Except (FaultRec × Option Nat) (List Byte) :=
  if !canonical va then .error (pageF va, none)
  else
    match s.walk tenant (va.toNat % 2 ^ 57) with
    | none => .error (pageF va, none)
    | some e =>
      match s.checkEntry 0 tenant va .engine e with
      | .bad f o => .error (f, o)
      | .miss => .error (pageF va, none)
      | .ok p _ =>
        if p.isRemote then .error (protF va, none)
        else
          match s.badAt va p n with
          | some (poison, w) => .error (killF poison w, none)
          | none => .ok (s.readMem p n)

/-- Read k blocks of 64 bytes. -/
def unitBlocks (s : State) (tenant : Nat) (va : Word) : Nat → Except (FaultRec × Option Nat) (List Byte)
  | 0 => .ok []
  | k + 1 =>
    match s.unitRead tenant va 64 with
    | .error e => .error e
    | .ok d =>
      match unitBlocks s tenant (va + 64) k with
      | .error e => .error e
      | .ok r => .ok (d ++ r)

/-! ## Threads that wait for work (R94) -/

/-- May a WFW thread take an item: its tenant, its kind of thread, its windows; for a stage its core, whose stream registers the
stage binds must be free? -/
def satisfies (s : State) (i : DispItem) (t : Nat) : Bool :=
  let h := s.thr t
  let c := s.core (t / 64)
  h.st == .wfw && h.stopAsk.isNone && decide ((s.tenant i.tenant).stopping ≠ 2) && c.assigned && c.tenant == i.tenant && decide (i.w ≤ h.wl) && decide (i.v ≤ h.vl) &&
  (if i.comm then decide (t % 64 = 63) else decide (t % 64 < 56)) &&
  (match i.stage with
   | none => true
   | some (id, st, ck) =>
     decide (t / 64 = ck) &&
     (match (s.die (ck / 512)).pipes.find? fun p => p.id == id with
      | none => false
      | some p => p.channels.all fun ch =>
          (ch.source != st || (FMap.find? c.q ch.sourceQ).isNone) && (ch.sink != st || (FMap.find? c.q ch.sinkQ).isNone)))

/-- The threads of a cluster, by core and number. -/
def clusterThreads (d cl : Nat) : List Nat :=
  (List.range 16).flatMap fun k => (List.range 64).map fun n => (d * 512 + cl * 16 + k) * 64 + n

/-- The satisfying thread that is chosen: smallest W, then smallest V, then lowest core, then lowest thread. -/
def chooseThread (s : State) (d cl : Nat) (i : DispItem) : Option Nat :=
  ((clusterThreads d cl).filter (s.satisfies i)).foldl (fun b t =>
    match b with
    | none => some t
    | some u =>
      let x := s.thr t
      let y := s.thr u
      if x.wl < y.wl ∨ (x.wl = y.wl ∧ x.vl < y.vl) then some t else some u) none

/-- The next placement of a dispenser: the item and its thread (R94). -/
def nextPlacement (s : State) (d cl : Nat) : Option (DispItem × Nat) :=
  let items := FMap.get [] (s.die d).disp cl
  let cands := items.filterMap fun i => (s.chooseThread d cl i).map fun t => (i, t)
  [3, 2, 1, 0].findSome? fun pr =>
    let l := cands.filter fun c => c.1.prio == pr
    if (s.die d).collth < (s.die d).occ then (l.find? fun c => c.1.light).or l.head? else l.head?

/-! ## Pipelines (R110 to R112) -/

/-- Bind the channel ends of a stage's thread on its core (R112, R136). DEDUCED, log entry 66. -/
def bindStage (s : State) (p : PipeLaunch) (st t : Nat) : State :=
  let ck := t / 64
  let d := ck / 512
  let coresOf := fun (n : Nat) => match p.stages[n]? with | some x => stageCores d x | none => []
  let i := (coresOf st).idxOf ck
  p.channels.foldl (fun s ch =>
    let put := fun (s : State) (q : Nat) (desc : StreamDesc) => s.updCore ck fun c =>
      { c with q := FMap.set c.q q { thread := t % 64, desc := desc, pos := 0, tail := 0, fetched := [], lent := [], bound := s.nextId } }
    if ch.sink = st then
      put s ch.sinkQ (.chanIn ((coresOf ch.source)[i]?.getD 0) ch.sourceQ ch.size ch.allow ch.ring 0 0 0)
    else if ch.source = st then
      put s ch.sourceQ (.chanOut ((coresOf ch.sink)[i]?.getD 0) ch.sinkQ ch.size ch.allow ch.ring [] [] 0 0)
    else s) s

/-- Place an item on a thread: its dispatch begins. -/
def place (s : State) (d cl : Nat) (i : DispItem) (t : Nat) : State :=
  let s := s.updDie d fun e => { e with disp := FMap.set e.disp cl ((FMap.get [] e.disp cl).erase i) }
  let s := match i.stage with
    | none => s
    | some (id, st, ck) =>
      let here := fun (p : PipeLaunch) =>
        if p.id = id then { p with placed := p.placed ++ [(st, ck, t % 64)], running := p.running ++ [(st, ck, t % 64)] } else p
      let s := s.updDie d fun e => { e with pipes := e.pipes.map here }
      match (s.die d).pipes.find? fun (p : PipeLaunch) => p.id == id with
      | some p => s.bindStage p st t
      | none => s
  s.startTask t i

/-- Make placements while there are any. -/
def placeAll (s : State) (d cl : Nat) : Nat → State
  | 0 => s
  | n + 1 =>
    match s.nextPlacement d cl with
    | some (i, t) => (s.place d cl i t).placeAll d cl n
    | none => s

end State

/-- DISPENSER_PLACEMENT at dispenser State.subj = die * 32 + cluster: every placement it can make (R94). -/
def occDispenserPlacement (s : State) : Option State :=
  let d := s.subj / 32
  let cl := s.subj % 32
  match s.nextPlacement d cl with
  | none => none
  | some _ => some (s.placeAll d cl (FMap.get [] (s.die d).disp cl).length)

def execDispenserPlacement (s : State) : Host.Outcome State Fault Refusal := s.happen (occDispenserPlacement s)

/-- A stage of a PIPE block. -/
def parseStage (b : List Byte) (n : Nat) : PipeStage :=
  let w := field b (16 + 16 * n) 8
  { entry := BitVec.ofNat 64 (w % 2 ^ 32), cluster := w / 2 ^ 32 % 32, mask := BitVec.ofNat 16 (w / 2 ^ 37)
    w := if w / 2 ^ 53 % 16 = 0 then 16 else w / 2 ^ 53 % 16, v := w / 2 ^ 57 % 16, args := BitVec.ofNat 64 (field b (24 + 16 * n) 8) }

/-- A channel of a PIPE block. -/
def parseChannel (b : List Byte) (n : Nat) : PipeChannel :=
  let at' := 144 + 12 * n
  { source := field b at' 1, sink := field b (at' + 1) 1, sourceQ := field b (at' + 2) 1, sinkQ := field b (at' + 3) 1
    size := field b (at' + 4) 2, allow := field b (at' + 6) 1, ring := field b (at' + 8) 4 }

/-- Is a PIPE block accepted: its counts, stages and channels (R110, R111)?. DEDUCED, log entry 65. -/
def pipeOk (s : State) (d tenant : Nat) (b : List Byte) : Bool :=
  let ns := field b 0 1
  let nh := field b 1 1
  let stages := (List.range ns).map (parseStage b)
  let chans := (List.range nh).map (parseChannel b)
  let cores := fun n => (stages[n]?.map fun x => (State.stageCores d x).length).getD 0
  let distinct := fun (l : List (Nat × Nat)) => decide l.Nodup
  decide (1 ≤ ns) && decide (ns ≤ 8) && decide (nh ≤ 8) && decide (field b 2 14 = 0) && decide (field b 240 16 = 0) &&
  stages.all (fun x => s.clusterOf tenant d x.cluster && x.mask != 0) &&
  (List.range ns).all (fun n => decide (field b (16 + 16 * n) 8 / 2 ^ 61 = 0)) &&
  (List.range nh).all (fun n => decide (field b (151 + 12 * n) 1 = 0)) &&
  chans.all (fun c => decide (c.source < c.sink) && decide (c.sink < ns) && cores c.source == cores c.sink &&
    decide (4 ≤ c.sourceQ) && decide (c.sourceQ ≤ 7) && decide (c.sinkQ ≤ 3) && decide (64 ≤ c.size) && decide (c.size ≤ 4096) &&
    decide (c.size % 64 = 0) && decide (1 ≤ c.allow) && decide (c.allow ≤ 16) && decide (c.ring + c.allow * c.size ≤ 0x28000)) &&
  distinct (chans.map fun c => (c.source, c.sourceQ)) && distinct (chans.map fun c => (c.sink, c.sinkQ))

namespace State

/-- May a launch release its next lower stage: is every thread of every released stage placed (R112)? -/
def mayRelease (d : Nat) (p : PipeLaunch) : Bool :=
  decide (0 < p.toRelease) &&
  decide (p.placed.length = ((p.stages.drop p.toRelease).map fun st => (stageCores d st).length).foldl (· + ·) 0)

/-- Hand an item to the dispenser of a cluster. -/
def dispense (s : State) (d cl : Nat) (i : DispItem) : State :=
  s.updDie d fun e => { e with disp := FMap.set e.disp cl (FMap.get [] e.disp cl ++ [i]) }

/-- Offer the next lower stage of a launch to its dispenser. -/
def releaseStage (s : State) (d : Nat) (p : PipeLaunch) : State :=
  let n := p.toRelease - 1
  let s := s.updDie d fun e => { e with pipes := e.pipes.map fun x => if x.id = p.id then { x with toRelease := n } else x }
  match p.stages[n]? with
  | none => s
  | some st => (stageCores d st).foldl (fun s ck => s.dispense d st.cluster
      { tenant := p.tenant, index := p.index, prio := p.prio, light := p.light, comm := false, w := st.w, v := st.v
        entry := st.entry, args := st.args, fmt := p.fmt, stage := some (p.id, n, ck) }) s

/-- A PIPE node at its walker: its block is checked, and a launch begins or the supervisor is told (R111). -/
def startPipe (s : State) (d tenant index : Nat) (r : List Byte) : State :=
  let refuse := fun (s : State) => s.notice tenant 0x0F 0 (s.dieLoc d) (nodePtr r) 0
  if (nodePtr r).toNat % 64 ≠ 0 then refuse s
  else
    match s.unitBlocks tenant (nodePtr r) 4 with
    | .error (f, o) => refuse (s.logOutside f.faddr tenant (s.dieLoc d) o)
    | .ok b =>
      if !pipeOk s d tenant b then refuse s
      else
        let ns := field b 0 1
        let p : PipeLaunch :=
          { id := s.nextId, tenant := tenant, index := index, prio := nodePrio r, light := nodeLight r
            fmt := BitVec.ofNat 64 (field r 24 8), stages := (List.range ns).map (parseStage b)
            channels := (List.range (field b 1 1)).map (parseChannel b), toRelease := ns, placed := [], running := [] }
        ({ ((s.trace (.launch tenant index)).updDie d fun e => { e with pipes := e.pipes ++ [p] }) with nextId := s.nextId + 1 } : State).releaseStage d p

end State

/-- PIPE_STAGE_RELEASE at die State.subj. -/
def occPipeStageRelease (s : State) : Option State :=
  match (s.die s.subj).pipes.find? (State.mayRelease s.subj) with
  | some p => some (s.releaseStage s.subj p)
  | none => none

def execPipeStageRelease (s : State) : Host.Outcome State Fault Refusal := s.happen (occPipeStageRelease s)

/-! ## The graph walker (R93) -/

namespace State

/-- The tenant's cluster on die d with the most WFW threads that satisfy an item, the lowest number first. -/
def anyCluster (s : State) (d : Nat) (i : DispItem) : Option Nat :=
  let count := fun cl => ((clusterThreads d cl).filter (s.satisfies i)).length
  ((List.range 32).filter (s.clusterOf i.tenant d)).foldl (fun b cl =>
    match b with
    | none => some cl
    | some x => if count x < count cl then some cl else some x) none

/-- The item of a COMPUTE or COMM node. -/
def nodeItem (tenant index : Nat) (r : List Byte) : DispItem :=
  { tenant := tenant, index := index, prio := nodePrio r, light := nodeLight r, comm := decide (nodeType r = 5), w := nodeW r
    v := nodeV r, entry := BitVec.ofNat 64 (field r 8 4), args := BitVec.ofNat 64 (field r 16 8)
    fmt := BitVec.ofNat 64 (field r 24 8), stage := none }

/-- Every named successor of a SIGNAL node is decremented, and the node retires once its decrements are performed (R93). -/
def signalNode (s : State) (d tenant index : Nat) : State :=
  let first := s.nextId
  let s := s.decrementSuccessors (unitOf d) tenant index (s.dieLoc d)
  let after := (List.range (s.nextId - first)).map (first + ·)
  { s with fw := { s.fw with retiring := s.fw.retiring ++ [{ tenant := tenant, index := index, after := after }] } }

/-- A node that is not launched is logged (R93). -/
def refuseNode (s : State) (d tenant index : Nat) : State :=
  s.vlogTenant tenant (BitVec.ofNat 64 index) 0x03 tenant (locWord (s.dieLoc d))

/-- May a ready node be launched: the firmware complex has not halted (R384), no eviction is under way (R395), and its tenant is
not pre-empted or about to be (R357)? -/
def mayLaunch (s : State) (n : ReadyNode) : Bool :=
  !s.fw.fatal && (match s.plat.evict with | .draining | .moving | .routesDrained | .safe => false | _ => true) &&
  !(s.tenant n.tenant).preempted && decide ((s.tenant n.tenant).stopping ≠ 2)

/-- A ready WAIT node goes to its queue's hart; a queue that is idle becomes pending for it (R93, R374). -/
def passWait (s : State) (n : ReadyNode) : State :=
  let q := List.find? (fun (q : Nat × Queue) => (q.2.st == .idle || q.2.st == .pending || q.2.st == .mapped) &&
    q.2.tenant == n.tenant && q.2.holds n.index) s.fw.queues
  let s := { s with fw := { s.fw with waits := s.fw.waits ++ [n] } }
  match q with
  | some (k, q) => if q.st = .idle then s.pendQueue k else s
  | none => s

/-- The graph walker of die d handles a ready node. DESIGN CHOICE, log entry 68. -/
def walkNode (s : State) (d : Nat) (n : ReadyNode) : State :=
  let r := s.nodeRec n.tenant n.index
  let i := nodeItem n.tenant n.index r
  let ty := nodeType r
  if (s.badMem (s.nodePlace n.tenant n.index) 64).isSome ∨ 6 ≤ ty ∨ 8 < nodeSuccs r ∨ nodeTenant r ≠ n.tenant then
    s.refuseNode d n.tenant n.index
  else
    match ty with
    | 0 | 5 =>
      (match if nodeAny r then s.anyCluster d i
          else if s.clusterOf n.tenant d (nodeCluster r) then some (nodeCluster r) else none with
       | some cl => (s.trace (.launch n.tenant n.index)).dispense d cl i
       | none => s.refuseNode d n.tenant n.index)
    | 1 => (s.trace (.launch n.tenant n.index)).updDie d fun e => { e with copyNodes := e.copyNodes ++ [n] }
    | 2 => (s.trace (.launch n.tenant n.index)).signalNode d n.tenant n.index
    | 3 => (s.trace (.launch n.tenant n.index)).passWait n
    | _ => s.startPipe d n.tenant n.index r

end State

/-- GRAPH_WALKER_RECEIVE at die State.subj: the oldest ready node is handled, of those whose launch nothing holds. -/
def occGraphWalkerReceive (s : State) : Option State :=
  match (s.die s.subj).walker.find? s.mayLaunch with
  | none => none
  | some n => some ((s.updDie s.subj fun e => { e with walker := e.walker.erase n }).walkNode s.subj n)

def execGraphWalkerReceive (s : State) : Host.Outcome State Fault Refusal := s.happen (occGraphWalkerReceive s)

/-! ## COPY nodes (R298) -/

/-- What a COPY node's block comes to: a launch on a core's engine, or the subcode of a refusal, with the fault and the address outside the
tenant's windows where the block cannot be read. -/
def copyNodeBlock (s : State) (d : Nat) (n : ReadyNode) : Except (Nat × Option (FaultRec × Option Nat)) (Nat × List Word) :=
  let r := s.nodeRec n.tenant n.index
  if (nodePtr r).toNat % 64 ≠ 0 then .error (0, none)
  else
    match s.unitBlocks n.tenant (nodePtr r) 2 with
    | .error e => .error (0, some e)
    | .ok b =>
      let sh := (List.range 11).map fun i => BitVec.ofNat 64 (field b (8 * i) 8)
      if 15 < field b 88 1 ∨ field b 89 39 ≠ 0 ∨ !s.clusterOf n.tenant d (nodeCluster r) then .error (0, none)
      else
        match copyCheck sh with
        | some sub => .error (sub, none)
        | none => if copyKind sh = 1 then .error (0x03, none) else .ok (d * 512 + nodeCluster r * 16 + field b 88 1, sh)

namespace State

/-- May a COPY node's launch be decided now?. DEDUCED, log entry 67. -/
def copyNodeReady (s : State) (d : Nat) (n : ReadyNode) : Bool :=
  s.mayLaunch n &&
  match copyNodeBlock s d n with
  | .error _ => true
  | .ok (ck, sh) => !s.launchWaits ck (copyQueue sh)

end State

/-- COPY_NODE_LAUNCH at die State.subj: the oldest COPY node whose identifier's entry is free is launched or refused. -/
def occCopyNodeLaunch (s : State) : Option State :=
  let d := s.subj
  match (s.die d).copyNodes.find? (s.copyNodeReady d) with
  | none => none
  | some n =>
    let s' := s.updDie d fun e => { e with copyNodes := e.copyNodes.erase n }
    match copyNodeBlock s d n with
    | .error (sub, e) =>
      let s' := match e with
        | some (f, o) => s'.logOutside f.faddr n.tenant (s.dieLoc d) o
        | none => s'
      some (s'.notice n.tenant 0x14 sub (s.dieLoc d) (nodePtr (s.nodeRec n.tenant n.index)) 0)
    | .ok (ck, sh) => some (s'.launchCopy ck none n.tenant sh (some n.index)).2

def execCopyNodeLaunch (s : State) : Host.Outcome State Fault Refusal := s.happen (occCopyNodeLaunch s)

/-! ## Task starts (R96) -/

namespace State

/-- The argument words and the format block of a task, or the failing pointer with its fault. -/
def dispatchReads (s : State) (i : DispItem) : Except (Word × FaultRec × Option Nat) (List Byte × Option (List Byte)) :=
  let rd := fun (p : Word) (n : Nat) =>
    match s.unitRead i.tenant (BitVec.ofNat 64 (p.toNat / n * n)) n with
    | .ok d => (.ok d : Except (Word × FaultRec × Option Nat) (List Byte))
    | .error (f, o) => .error (p, f, o)
  match if i.args = 0 then .ok (leBytes 64 0) else rd i.args 64 with
  | .error e => .error e
  | .ok a =>
    if i.fmt = 0 then .ok (a, none)
    else
      match rd i.fmt 32 with
      | .error e => .error e
      | .ok f => .ok (a, some f)

/-- The shadow registers from a format block, or their reset values. -/
def loadShadows (h : Thread) (n : Nat) : Option (List Byte) → Thread
  | none =>
    let r := Thread.reset n
    { h with fmta := r.fmta, fmtb := r.fmtb, scla := r.scla, sclb := r.sclb, tscl := r.tscl, qsp := r.qsp }
  | some f =>
    { h with fmta := BitVec.ofNat 4 (field f 0 1), fmtb := BitVec.ofNat 4 (field f 1 1), qsp := BitVec.ofNat 16 (field f 2 2)
             scla := BitVec.ofNat 32 (field f 4 4), sclb := BitVec.ofNat 32 (field f 8 4), tscl := BitVec.ofNat 32 (field f 12 4) }

/-- Steps 1 to 3 of R96 on thread t. -/
def beginTask (s : State) (t : Nat) (i : DispItem) : State :=
  let s := s.updDie (t / 64 / 512) fun d => { d with starts := d.starts.filter fun x => x.thread != t }
  let entry : Word32 := i.entry.setWidth 32
  match s.dispatchReads i with
  | .error (p, f, o) =>
    let s := (s.logOutside p i.tenant (s.loc t) o).updThr t fun h =>
      { h with node := BitVec.ofNat 32 i.index, wait := [], noBundle := true, dispatch := !f.kill, pc := entry }
    s.takeFault t (if f.kill then f else { f with sub := 0x01, faddr := p })
  | .ok (a, f) =>
    let s := (List.range 8).foldl (fun s g => s.putG t g (BitVec.ofNat 64 (field a (8 * g) 8))) s
    let s := s.updThr t fun h =>
      { loadShadows h (t % 64) f with node := BitVec.ofNat 32 i.index, gangDis := false, fprog := 0, wait := [] }
    s.goFresh t (entry.setWidth 64)

/-- The task whose dispatch on thread t goes on: the ingress horizon of its start is reached, as its acquire at system scope asks (R98,
R148). DEDUCED, log entry 76. -/
def startOf (s : State) (t : Nat) : Option DispItem :=
  if (s.thr t).wait = [.dispatch] then
    ((s.die (t / 64 / 512)).starts.find? fun x => x.thread == t).map (·.item)
  else none

end State

/-- TASK_START at thread State.subj. -/
def occTaskStart (s : State) : Option State :=
  match s.startOf s.subj with
  | some i => some (s.beginTask s.subj i)
  | none => none

def execTaskStart (s : State) : Host.Outcome State Fault Refusal := s.happen (occTaskStart s)

/-! ## Collective occupancy (R95) -/

/-- COLLECTIVE_OCCUPANCY_UPDATE at die State.subj. DEDUCED, log entry 69. -/
def occCollectiveOccupancyUpdate (s : State) : Option State :=
  let d := s.die s.subj
  if d.cyc < d.occAt then none
  else
    -- 512 slot-0 cycles of each of the die's 512 cores in 4,096 cycles
    let share := d.slot0 * 256 / (512 * 512)
    let flits := ((List.range 4).map fun p => (s.port (4 * s.subj + p)).flits).foldl (· + ·) 0
    let mean := flits * 256 / (4 * 1024)
    some (s.updDie s.subj fun d => { d with occ := max share mean, slot0 := 0, occAt := d.occAt + 4096 })

def execCollectiveOccupancyUpdate (s : State) : Host.Outcome State Fault Refusal := s.happen (occCollectiveOccupancyUpdate s)

end Sys2Proof.Machine
end

