-- ==== Sys2Proof/Machine/Host.lean ====
section
/-! DEFINITION. The host link (R358 to R365): the functions' registers in BAR0, the aperture, the mailbox engine and the Meridian,
and the translation invalidations that the functions request (R120, R362). -/

namespace Sys2Proof.Machine

open Sys2Proof

namespace State

/-! ## Interrupts and errors (R361) -/

/-- The byte at an offset of a function's MSI-X table. -/
def msixByte (f : Fn) (o : Nat) : Byte := f.msix.byte o ^^^ (if o % 16 = 12 then 1 else 0)

/-- n bytes of the table, from offset o on. -/
def msixNat (f : Fn) (o n : Nat) : Nat := leNat ((List.range n).map fun i => msixByte f (o + i))

/-- Is a vector masked? PRESUMED, log entry 73. -/
def msixMasked (f : Fn) (vec : Nat) : Bool := (msixByte f (16 * vec + 12)).getLsbD 0

/-- The message of a vector goes to the host (R359). -/
def sendMsix (s : State) (fn vec : Nat) : State :=
  let f := s.fn fn
  s.addOut (.msix fn vec (BitVec.ofNat 64 (msixNat f (16 * vec) 8)) (BitVec.ofNat 32 (msixNat f (16 * vec + 8) 4)))

/-- Signal one of the 2,048 vectors of a function: a masked one becomes pending (R358, R360). PRESUMED, log entry 73. -/
def signal (s : State) (fn vec : Nat) : State :=
  if 2048 ≤ vec then s
  else if msixMasked (s.fn fn) vec then
    s.updFn fn fun f => { f with pending := if f.pending.contains vec then f.pending else f.pending ++ [vec] }
  else s.sendMsix fn vec

/-- A write to the MSI-X table: the pending vectors that it unmasks are sent. -/
def writeMsix (s : State) (fn off : Nat) (d : List Byte) : State :=
  let d' := (List.range d.length).map fun i => (d[i]?).getD 0 ^^^ (if (off + i) % 16 = 12 then 1 else 0)
  let s := s.updFn fn fun f => { f with msix := f.msix.write off d' }
  let f := s.fn fn
  let go := f.pending.filter fun v => !msixMasked f v
  go.foldl (fun s v => s.sendMsix fn v) (s.updFn fn fun f => { f with pending := f.pending.filter fun v => msixMasked f v })

/-- Bits of the error status that PCI Express gives to a Completer Abort, a malformed request, and an error reported as advisory. -/
def aerAbort : Word32 := 0x8000
def aerMalformed : Word32 := 0x40000
def aerAdvisory : Word32 := 0x2000

/-- Advanced Error Reporting of a function records an error and sends the message that its masks and severities leave (R358). An uncorrectable
error that is reported as advisory sends the correctable message alone, unless its severity is fatal. PRESUMED, log entry 73. -/
def recordError (s : State) (fn : Nat) (unc cor : Word32) : State :=
  let a := (s.fn fn).aer
  let s := s.updFn fn fun f => { f with aer := { f.aer with uncStatus := f.aer.uncStatus ||| unc, corStatus := f.aer.corStatus ||| cor } }
  let s := if cor &&& ~~~a.corMask = 0 then s else s.addOut (.pcieError fn 0)
  let u := unc &&& ~~~a.uncMask
  if u = 0 ∨ (cor &&& aerAdvisory ≠ 0 ∧ u &&& a.uncSeverity = 0) then s
  else s.addOut (.pcieError fn (if u &&& a.uncSeverity = 0 then 1 else 2))

def mbXLAT : BitVec 4 := 1
def mbREAD : BitVec 4 := 2
def mbKICK : BitVec 4 := 4
def mbRING : BitVec 4 := 8

/-- Set bits of a function's MBERR: vector 0 is signalled when it changes from 0. -/
def setMberr (s : State) (fn : Nat) (b : BitVec 4) : State :=
  let s' := s.updFn fn fun f => { f with mberr := f.mberr ||| b }
  if (s.fn fn).mberr = 0 then s'.signal fn 0 else s'

/-- MBERR bits that the host writes as 1 become 0. -/
def clearMberr (s : State) (fn : Nat) (w : Word) : State := s.updFn fn fun f => { f with mberr := f.mberr &&& ~~~(w.setWidth 4) }

/-- Does the package answer the host: its rails are up?. DEDUCED, log entry 85. -/
def powered (s : State) : Bool := s.plat.power != .off

/-- Do the harts run and serve queues (R361, R384)? -/
def fwAlive (s : State) : Bool := s.powered && s.fw.ready && !s.fw.fatal

/-! ## Translating for the units of the I/O die (R117 to R119, R363) -/

/-- Cut n bytes from an address on at every 64 KiB boundary: offset from the start, and length. -/
def cut64K (a : Nat) : Nat → Nat → Nat → List (Nat × Nat)
  | 0, _, _ => []
  | fuel + 1, o, n =>
    if n = 0 then []
    else
      let k := min n (0x10000 - (a + o) % 0x10000)
      (o, k) :: cut64K a fuel (o + k) (n - k)

/-- The parts of n bytes. DEDUCED, log entry 77. -/
def parts (a n : Nat) : List (Nat × Nat) := cut64K a (n / 0x10000 + 2) 0 n

/-- The global physical address of a tenant's address for a unit of the I/O die, in this package or in a present one; or the fault, with
the target of a window violation (R403). -/
def unitAddr (s : State) (tenant : Nat) (va : Word) (u : Use) : Except (FaultRec × Option Nat) Nat :=
  if !canonical va then .error (pageF va, none)
  else
    match s.walk tenant (va.toNat % 2 ^ 57) with
    | none => .error (pageF va, none)
    | some e =>
      match s.checkEntry 0 tenant va u e with
      | .bad f o => .error (f, o)
      | .miss => .error (pageF va, none)
      | .ok p g => if p.isRemote && !s.isPresent (pkgOf g) then .error (protF va, none) else .ok g

/-- The same where the unit reaches this package only (DEDUCED, log entry 64). -/
def unitHere (s : State) (tenant : Nat) (va : Word) (u : Use) : Except (FaultRec × Option Nat) Nat :=
  match s.unitAddr tenant va u with
  | .ok g => if (s.resolve g).isRemote then .error (protF va, none) else .ok g
  | e => e

/-- Do the windows of a tenant in attested execution hold the address (R388)? -/
def attestedAt (s : State) (g : Nat) : Bool :=
  match s.ownerOf g with
  | some t => (s.tenant t).attestKey.isSome
  | none => false

/-- The global physical address of an aperture part (R361, R363), in any present package, or the fault where it fails a check: for a VF by its
tenant's tree, for the PF as it stands (R18), outside the windows of attested tenants. DEDUCED, log entry 74. DEDUCED, log entry 78. -/
def apertureAddr (s : State) (fn : Nat) (a : Nat) (u : Use) : Except (FaultRec × Option Nat) Nat :=
  let va := BitVec.ofNat 64 a
  if fn = 0 then
    if 2 ^ 56 ≤ a % 2 ^ 64 ∨ !placeAllows false u (shapeOf a) ∨ !s.isPresent (pkgOf a) ∨ s.attestedAt a then .error (protF va, none)
    else .ok a
  else s.unitAddr (fn - 1) va u

/-- Bytes cut at the 64-byte boundaries of the addresses from off on. -/
def cut64 (off : Nat) : Nat → List Byte → List (List Byte)
  | 0, _ => []
  | fuel + 1, d => if d = [] then [] else d.take (64 - off % 64) :: cut64 (off + (64 - off % 64)) fuel (d.drop (64 - off % 64))

/-- The completions of a read, split at 64-byte boundaries, in address order (R358, R364). -/
def complete (s : State) (fn off : Nat) (d : List Byte) : State :=
  (if d = [] then [[]] else cut64 off (d.length / 64 + 2) d).foldl (fun s c => s.addOut (.completion fn (some c))) s

/-- Does the aperture, of 4 GiB, hold n bytes from an offset on (R360)? -/
def inAperture (off n : Nat) : Bool := decide (off + n ≤ 2 ^ 32)

/-- The address of an aperture offset. -/
def apertureBase (s : State) (fn off : Nat) : Nat := ((s.fn fn).apbase.toNat * 2 ^ 32 + off) % 2 ^ 64

/-- The record of a discarded write part (R365). -/
def logAperture (s : State) (fn a : Nat) : State :=
  if fn = 0 then s.addOut (.finsinLog 0 (BitVec.ofNat 64 a))
  else if (s.tenant (fn - 1)).active then s.vlogTenant (fn - 1) (BitVec.ofNat 64 a) 0x01 (fn - 1) 0
  else s.addOut (.finsinLog fn (BitVec.ofNat 64 a))

/-- Hand an operation to the Meridian. -/
def push (s : State) (fn : Nat) (op : HostOp) : State := { s with host := s.host ++ [{ fn := fn, op := op }] }

/-- One part of an aperture write: passed on, or discarded with XLAT. -/
def writePart (s : State) (fn a : Nat) (data : List Byte) (relaxed : Bool) : State :=
  match s.apertureAddr fn a .engineWr with
  | .ok g => s.push fn (.write g data relaxed)
  | .error _ => (s.setMberr fn mbXLAT).logAperture fn a

end State

/-- APERTURE_WRITE: the address is formed on arrival, translated or checked, cut at every 64 KiB boundary, and its parts go to the
Meridian in order (R363). More than 512 bytes make no request (R358). -/
def execApertureWrite (fn off : Nat) (data : List Byte) (relaxed : Bool) (s : State) : Host.Outcome State Fault Refusal :=
  let a := s.apertureBase fn off
  .next (if !s.powered ∨ !State.inAperture off data.length then s
    else if 512 < data.length then s.recordError fn State.aerMalformed 0
    else (State.parts a data.length).foldl (fun s p => s.writePart fn ((a + p.1) % 2 ^ 64) (slice data p.1 p.2) relaxed) s)

/-- The reads of the host that are outstanding. -/
def State.readsOut (s : State) : Nat := (s.host.filter fun i => match i.op with
  | .read _ _ | .regs _ _ | .abort => true
  | _ => false).length

/-- The reads that may be outstanding: the link takes no more until one is completed (R358). -/
def maxReads : Nat := 768

/-- APERTURE_READ: the request goes to the Meridian, which, where a part fails, completes it whole with Completer Abort in its turn (R365).
More than 4,096 bytes make no request (R358). -/
def execApertureRead (fn off len : Nat) (s : State) : Host.Outcome State Fault Refusal :=
  let a := s.apertureBase fn off
  let ps := (State.parts a len).map fun p => (s.apertureAddr fn ((a + p.1) % 2 ^ 64) .engine, p.2)
  let good := ps.filterMap fun p => match p.1 with | .ok g => some (g, p.2) | .error _ => none
  .next (if !s.powered ∨ !State.inAperture off len ∨ maxReads ≤ s.readsOut then s
    else if 4096 < len then s.recordError fn State.aerMalformed 0
    else if good.length = ps.length then s.push fn (.read off good)
    else s.push fn .abort)

/-! ## The Meridian (R161, R364) -/

namespace State

/-- The oldest operation of a function that the Meridian holds. -/
def hostHead (s : State) (fn : Nat) : Option HostItem := s.host.find? fun i => i.fn == fn

/-- Has every earlier write of a function its bank acknowledgement? -/
def hostAcked (s : State) (fn : Nat) : Bool :=
  let mine := fun (a : Access) => a.core == unitOf 8 && a.part == fn + 1
  !(s.issued.any mine) && !(s.flight.any mine)

/-- Are kicks held: an eviction is draining or further (R395)? -/
def kicksHeld (s : State) : Bool :=
  match s.plat.evict with
  | .draining | .moving | .routesDrained | .safe => true
  | _ => false

/-- Is an operation one of the writes that the Meridian applies one per 8 ns (R364)? -/
def isHostWrite : HostOp → Bool
  | .read _ _ | .regs _ _ | .abort => false
  | _ => true

/-- May the Meridian send the oldest operation of a function now? -/
def meridianReady (s : State) (fn : Nat) : Bool :=
  match s.hostHead fn with
  | none => false
  | some i =>
    (!isHostWrite i.op || decide ((s.fn fn).writeAt ≤ s.now)) && i.reads.all s.readsDone &&
    (match i.op with
     | .write _ _ relaxed => relaxed || s.hostAcked fn
     | .kick _ _ => s.hostAcked fn && !s.kicksHeld
     | _ => s.hostAcked fn)

/-- Bytes from a physical address on, cut at the 64-byte boundaries: start and length. -/
def blocks64 (g n : Nat) : List (Nat × Nat) :=
  (List.range (n / 64 + 2)).filterMap fun i =>
    let lo := max g ((g / 64 + i) * 64)
    let hi := min (g + n) ((g / 64 + i + 1) * 64)
    if lo < hi then some (lo, hi - lo) else none

/-- The tenant of a function; none, 16, of the PF. -/
def fnTenant (fn : Nat) : Nat := if fn = 0 then 16 else fn - 1

/-- A write travels to its die, or over the link, in blocks: each naturally aligned 8-byte word is written whole (R364). -/
def sendWrite (s : State) (fn g : Nat) (data : List Byte) : State :=
  (blocks64 g data.length).foldl (fun s b =>
    let a : Access :=
      { id := s.nextId, part := fn + 1, core := unitOf 8, tenant := fnTenant fn, va := BitVec.ofNat 64 b.1, place := s.resolve b.1
        kind := .store (slice data (b.1 - g) b.2) }
    if a.place.isRemote then { s with nextId := s.nextId + 1, issued := s.issued ++ [a] }
    else { s with nextId := s.nextId + 1, flight := s.flight ++ [a] }) s

/-- The reads at other packages of a host read. -/
def askHost (s : State) (fn : Nat) (ps : List (Nat × Nat)) : State × List Nat :=
  ((ps.filter fun p => (s.resolve p.1).isRemote).flatMap fun p => blocks64 p.1 p.2).foldl (fun acc b =>
    let (id, s) := acc.1.unitAccess 0 (unitOf 8) (fnTenant fn) (BitVec.ofNat 64 b.1) (s.resolve b.1) (.load b.2)
    (s, acc.2 ++ [id])) (s, [])

/-- The bytes of reads at other packages, in order; none where one has brought too few. -/
def askedBytes (s : State) : List (Nat × Nat) → List Nat → Option (List Byte)
  | [], _ => some []
  | b :: r, ids =>
    let d := (FMap.get ([], none) s.replies (ids.headD 0)).1
    if d.length < b.2 then none else (s.askedBytes r (ids.drop 1)).map fun e => d.take b.2 ++ e

/-- The bytes that a host read returns, in address order; none where a package has become absent or a word there is bad (R396). -/
def hostRead (s : State) (ids : List Nat) : List (Nat × Nat) → Option (List Byte)
  | [] => some []
  | p :: r =>
    if (s.resolve p.1).isRemote then
      let bs := blocks64 p.1 p.2
      match s.askedBytes bs ids, s.hostRead (ids.drop bs.length) r with
      | some d, some e => some (d ++ e)
      | _, _ => none
    else (s.hostRead ids r).map fun e => s.readAny (s.resolve p.1) p.2 ++ e

/-! ## Kicks (R377) -/

/-- Wake the hart of a queue. -/
def kickHart (s : State) (q : Nat) : State :=
  (List.range 32).foldl (fun s k =>
    if (s.hart k).queue = some q then s.updHart k fun h => { h with kicked := true, rereadAt := s.now } else s) s

/-- A queue leaves its hart. -/
def unmap (s : State) (q : Nat) : State :=
  (List.range 32).foldl (fun s k =>
    if (s.hart k).queue = some q then s.updHart k fun h => { h with queue := none, waitNode := none, kicked := false } else s) s

/-- A queue becomes BROKEN. DEDUCED, log entry 82. -/
def breakQueue (s : State) (q : Nat) : State := (s.unmap q).setQState q .broken

/-- A kick is applied: TAIL is written and the queue's hart or the manager wakes, or the kick is discarded (R377). -/
def applyKick (s : State) (fn q : Nat) (tail : Word32) : State :=
  let x := s.queue q
  if s.fw.fatal then s
  else if x.st = .disabled ∨ (fn ≠ 0 ∧ x.tenant ≠ fn - 1) then s.setMberr fn mbKICK
  else if x.st = .broken then s.setMberr fn mbRING
  else
    let s := (s.updQueue q fun x => { x with tail := tail.toNat }).putPhys (s.qcb q 8) (leBytes 4 tail.toNat)
    if 2 ^ x.log2n < (tail.toNat + 2 ^ 32 - x.head) % 2 ^ 32 then (s.breakQueue q).setMberr fn mbRING
    else
      match x.st with
      | .mapped => s.kickHart q
      | .idle => s.pendQueue q
      | _ => s

/-- The Meridian has applied an operation of a function: the next write comes 8 ns later (R364). -/
def hostApplied (s : State) (fn : Nat) (op : HostOp) : State :=
  if isHostWrite op then s.updFn fn fun f => { f with writeAt := s.now + 8 } else s

end State

/-! ## Translation invalidations (R120, R362) -/

namespace State

/-- Every micro-TLB and cluster TLB discards the entries of a tenant. -/
def dropTlb (s : State) (tenant : Nat) : State :=
  let keep := fun (l : List TlbEntry) => l.filter fun e => e.tenant != tenant
  { s with cores := s.cores.map fun c => (c.1, { c.2 with utlb := keep c.2.utlb })
           dies := s.dies.map fun d => (d.1, { d.2 with tlb := d.2.tlb.map fun e => (e.1, keep e.2) }) }

end State

/-- TLB_INVALIDATION_COMPLETE for function State.subj: an invalidation that its TLBINV asked for is complete. The discard is Finsin's act
(R362). -/
def occTlbInvalidationComplete (s : State) : Option State :=
  if (s.fn s.subj).inval = 0 ∨ s.subj = 0 ∨ !s.fwAlive then none
  else some ((s.dropTlb (s.subj - 1)).updFn s.subj fun f => { f with inval := f.inval - 1 })

def execTlbInvalidationComplete (s : State) : Host.Outcome State Fault Refusal := s.happen (occTlbInvalidationComplete s)

/-! ## Scale-out configuration (R367, R369 to R371) -/

namespace State

def qp (s : State) (p : Nat) : Qp := FMap.get Qp.reset s.qps p

def updQp (s : State) (p : Nat) (f : Qp → Qp) : State := { s with qps := FMap.set s.qps p (f (s.qp p)) }

end State

namespace Qp

def ctl (q : Qp) : Nat := field q.bytes 0 1
def enabled (q : Qp) : Bool := decide (128 ≤ q.ctl)
def tenant (q : Qp) : Nat := q.ctl % 16
def port (q : Qp) : Nat := q.ctl / 16 % 4
def log2n (q : Qp) : Nat := field q.bytes 3 1
def ring (q : Qp) : Nat := field q.bytes 32 8
def tailAddr (q : Qp) : Nat := field q.bytes 40 8

def stateCode : QpState → Nat
  | .reset => 0
  | .ready => 1
  | .error => 2

/-- The entry as it reads: STATE and HEAD are the engine's. -/
def read (q : Qp) : List Byte := splice (splice (slice q.bytes 0 64) 1 (leBytes 1 (stateCode q.st))) 56 (leBytes 4 q.head)

end Qp

namespace State

/-- A write to a queue pair's entry: to an enabled one, only of byte 0 with ENABLE = 0 (R370). -/
def writeQp (s : State) (p off : Nat) (d : List Byte) : State :=
  let q := s.qp p
  if q.enabled then
    if off = 0 ∧ d.length = 1 ∧ leNat d < 128 then s.updQp p fun q => { q with bytes := splice q.bytes 0 d, stopping := true } else s
  else s.updQp p fun q => { q with bytes := slice (splice (slice q.bytes 0 64) off d) 0 64 }

/-- Is any queue pair of an Ethernet port enabled? -/
def portBusy (s : State) (port : Nat) : Bool := s.qps.any fun e => e.2.enabled && e.2.port == port

/-- A write to an Ethernet port's configuration (R369). -/
def writeEth (s : State) (port off : Nat) (d : List Byte) : State :=
  if s.portBusy port then s else { s with ethBytes := s.ethBytes.write (32 * port + off) (d.take (32 - off)) }

/-- A write to a region table entry (R371). -/
def writeRegion (s : State) (i off : Nat) (d : List Byte) : State :=
  { s with regions := s.regions.write (32 * i + off) (d.take (32 - off)) }

/-- A scale-out doorbell (R367, R370). -/
def doorbell (s : State) (fn p : Nat) : State :=
  let q := s.qp p
  if (fn ≠ 0 ∧ q.tenant ≠ fn - 1) ∨ q.st ≠ .ready then s.setMberr fn mbKICK else s.updQp p fun q => { q with pollAt := s.now }

/-! ## BAR0 (R360, R361, R362, R376, R381) -/

/-- A write of an 8-byte register's bytes over its old value. DEDUCED, log entry 94. -/
def regWrite (old off : Nat) (d : List Byte) : Nat := leNat (slice (splice (leBytes 8 old) off d) 0 8)

/-- A write to TCMD: discarded while a command runs; a reserved operation completes with result 1 (DESIGN CHOICE, log entry 28). -/
def writeTcmd (s : State) (v : Nat) : State :=
  if s.fw.tcmdBusy.isSome then s
  else if 5 ≤ v / 16 % 16 then { s with fw := { s.fw with tcmdResult := 1 } }
  else { s with fw := { s.fw with tcmdBusy := some (BitVec.ofNat 64 v) } }

/-- A write within one register or entry of a function's BAR0 arrives: APBASE is written at once, for it applies to every aperture access that
arrives after it (R363); every other one takes its place among the function's writes (R364). -/
def bar0Unit (s : State) (fn off : Nat) (d : List Byte) : State :=
  if off < 0x8000 then
    if off % 8 = 0 ∧ 4 ≤ d.length then s.push fn (.kick (off / 8) (BitVec.ofNat 32 (leNat (d.take 4)))) else s
  else if off / 8 = 0x8000 / 8 then
    s.updFn fn fun f => { f with apbase := BitVec.ofNat 32 (regWrite (f.apbase.toNat * 2 ^ 32) (off % 8) d / 2 ^ 32) }
  else if off / 8 = 0x8018 / 8 ∧ fn ≠ 0 then s.push fn .tlbinv
  else if off / 8 = 0x41010 / 8 ∧ fn = 0 then s.push fn (.qcmd (BitVec.ofNat 64 (regWrite 0 (off % 8) d)))
  else s.push fn (.reg off d)

/-- The Meridian applies a write of another register or entry of BAR0. -/
def bar0Apply (s : State) (fn off : Nat) (d : List Byte) : State :=
  if off / 8 = 0x8008 / 8 then s.clearMberr fn (BitVec.ofNat 64 (regWrite 0 (off % 8) d))
  else if 0x9000 ≤ off ∧ off < 0xB000 then (if off % 8 = 0 ∧ 4 ≤ d.length then s.doorbell fn ((off - 0x9000) / 8) else s)
  else if 0x10000 ≤ off ∧ off < 0x18000 then s.writeMsix fn (off - 0x10000) d
  else if fn ≠ 0 then s
  else if 0x40000 ≤ off ∧ off < 0x41000 then { s with tdesc := s.tdesc.write (off - 0x40000) d }
  else if off / 8 = 0x41000 / 8 then s.writeTcmd (regWrite 0 (off % 8) d)
  else if 0x41100 ≤ off ∧ off < 0x41180 then s.writeEth ((off - 0x41100) / 32) ((off - 0x41100) % 32) d
  else if 0x42000 ≤ off ∧ off < 0x52000 then s.writeQp ((off - 0x42000) / 64) ((off - 0x42000) % 64) d
  else if 0x60000 ≤ off ∧ off < 0x80000 then s.writeRegion ((off - 0x60000) / 32) ((off - 0x60000) % 32) d
  else s

/-- The bytes of the register or entry that an offset of BAR0 lies in (R360): a port's configuration and a region's 32, a queue pair's 64,
and every other one's 8. -/
def bar0Size (off : Nat) : Nat :=
  if 0x41100 ≤ off ∧ off < 0x41180 ∨ 0x60000 ≤ off ∧ off < 0x80000 then 32 else if 0x42000 ≤ off ∧ off < 0x52000 then 64 else 8

/-- A write to a function's BAR0, to each register or entry that it meets in turn. -/
def bar0Units : Nat → State → Nat → Nat → List Byte → State
  | 0, s, _, _, _ => s
  | fuel + 1, s, fn, off, d =>
    if d = [] then s
    else
      let n := bar0Size off - off % bar0Size off
      bar0Units fuel (s.bar0Unit fn off (d.take n)) fn (off + n) (d.drop n)

/-- A write to an offset of a function's BAR0. -/
def bar0Write (s : State) (fn off : Nat) (d : List Byte) : State := bar0Units d.length s fn off d

/-- The 8-byte register at an offset of a function's BAR0, as it reads. -/
def bar0Reg (s : State) (fn off : Nat) : Nat :=
  if off = 0x8000 then (s.fn fn).apbase.toNat * 2 ^ 32
  else if off = 0x8008 then (s.fn fn).mberr.toNat
  else if off = 0x8010 then (if s.fw.fatal then 2 else 0) + (if s.fw.ready then 1 else 0)
  else if off = 0x8018 ∧ fn ≠ 0 then
    (if (s.fn fn).inval ≠ 0 ∨ s.host.any (fun i => i.fn == fn && i.op == .tlbinv) then 1 else 0)
  else if fn ≠ 0 then 0
  else if off = 0x41000 then (if s.fw.tcmdBusy.isSome then 2 ^ 63 else 0) + s.fw.tcmdResult * 2 ^ 56
  else if off = 0x41008 then s.fw.qcbBase
  else if off = 0x41010 then (if s.fw.qcmdBusy.isSome then 2 ^ 63 else 0) + s.fw.qcmdResult * 2 ^ 56 + s.fw.qcmdVal.toNat
  else 0

/-- The byte at an offset of a function's BAR0, as the host reads it. -/
def bar0Byte (s : State) (fn off : Nat) : Byte :=
  if 0x10000 ≤ off ∧ off < 0x18000 then msixByte (s.fn fn) (off - 0x10000)
  else if 0x18000 ≤ off ∧ off < 0x18100 then
    BitVec.ofNat 8 (joinNat 1 ((List.range 8).map fun i => if (s.fn fn).pending.contains (8 * (off - 0x18000) + i) then 1 else 0))
  else if fn = 0 ∧ 0x40000 ≤ off ∧ off < 0x41000 then s.tdesc.byte (off - 0x40000)
  else if fn = 0 ∧ 0x41100 ≤ off ∧ off < 0x41180 then s.ethBytes.byte (off - 0x41100)
  else if fn = 0 ∧ 0x42000 ≤ off ∧ off < 0x52000 then (((s.qp ((off - 0x42000) / 64)).read)[(off - 0x42000) % 64]?).getD 0
  else if fn = 0 ∧ 0x60000 ≤ off ∧ off < 0x80000 then s.regions.byte (off - 0x60000)
  else BitVec.ofNat 8 (s.bar0Reg fn (off / 8 * 8) / 256 ^ (off % 8))

/-- A host read is performed: what lies at other packages is asked for first. -/
def performRead (s : State) (i : HostItem) (off : Nat) (ps : List (Nat × Nat)) : State :=
  match i.reads with
  | none =>
    if ps.any fun p => (s.resolve p.1).isRemote then
      let (s', ids) := s.askHost i.fn ps
      { s' with host := s.host.map fun j => if j = i then { j with reads := some ids } else j }
    else
      ({ s with host := s.host.erase i } : State).complete i.fn off ((s.hostRead [] ps).getD [])
  | some ids =>
    let s' := ({ s with host := s.host.erase i } : State).dropReplies ids
    match s.hostRead ids ps with
    | some d => s'.complete i.fn off d
    | none => ((s'.setMberr i.fn mbREAD).recordError i.fn aerAbort aerAdvisory).addOut (.completion i.fn none)

/-- The Meridian sends or applies an operation. -/
def performHost (s : State) (fn : Nat) : HostOp → State
  | .write g d _ => s.sendWrite fn g d
  | .read _ _ => s
  | .reg off d => s.bar0Apply fn off d
  | .abort => ((s.setMberr fn mbREAD).recordError fn aerAbort aerAdvisory).addOut (.completion fn none)
  | .regs off n => s.complete fn off ((List.range n).map fun i => s.bar0Byte fn (off + i))
  | .kick q tail => s.applyKick fn q tail
  | .tlbinv => s.updFn fn fun f => { f with inval := f.inval + 1 }
  | .qcmd v =>
    if s.fw.qcmdBusy.isSome then s
    else { s with fw := { s.fw with qcmdBusy := some v, qcmdVal := v &&& 0xFFFF } }

end State

/-- MERIDIAN_SEND for function State.subj: its oldest operation, once its ordering conditions hold. -/
def occMeridianSend (s : State) : Option State :=
  if !s.meridianReady s.subj then none
  else
    match s.hostHead s.subj with
    | some i =>
      match i.op with
      | .read off ps => some (s.performRead i off ps)
      | op => some ((({ s with host := s.host.erase i } : State).performHost s.subj op).hostApplied s.subj op)
    | none => none

def execMeridianSend (s : State) : Host.Outcome State Fault Refusal := s.happen (occMeridianSend s)

/-- QUEUE_KICK: a doorbell write, which the Meridian applies in the order of its function as a write without Relaxed Ordering. -/
def execQueueKick (fn queue : Nat) (tail : Word32) (s : State) : Host.Outcome State Fault Refusal :=
  .next (if s.powered ∧ queue < 4096 then s.push fn (.kick queue tail) else s)

/-- The other registers that have events of their own are written as BAR0 is (R364). -/
def execScaleoutDoorbell (fn qp : Nat) (s : State) : Host.Outcome State Fault Refusal :=
  .next (if s.powered ∧ qp < 1024 then s.push fn (.reg (0x9000 + 8 * qp) (leBytes 8 0)) else s)

def execMberrClear (fn : Nat) (value : Word) (s : State) : Host.Outcome State Fault Refusal :=
  .next (if s.powered then s.push fn (.reg 0x8008 (leBytes 8 value.toNat)) else s)

/-- TLBINV_WRITE: the written value is ignored; the PF has no such register. DEDUCED, log entry 79. -/
def execTlbinvWrite (fn : Nat) (s : State) : Host.Outcome State Fault Refusal :=
  .next (if s.powered ∧ fn ≠ 0 then s.push fn .tlbinv else s)

def execEthernetPortConfigWrite (port off : Nat) (data : List Byte) (s : State) : Host.Outcome State Fault Refusal :=
  .next (if s.powered ∧ port < 4 ∧ off < 32 then s.push 0 (.reg (0x41100 + 32 * port + off) (data.take (32 - off))) else s)

def execRegionTableWrite (region off : Nat) (data : List Byte) (s : State) : Host.Outcome State Fault Refusal :=
  .next (if s.powered ∧ region < 4096 ∧ off < 32 then s.push 0 (.reg (0x60000 + 32 * region + off) (data.take (32 - off))) else s)

def execBar0RegisterWrite (fn off : Nat) (data : List Byte) (s : State) : Host.Outcome State Fault Refusal :=
  .next (if s.powered then s.bar0Write fn off data else s)

end Sys2Proof.Machine
end

