-- ==== Sys2Proof/Machine/Ethernet.lean ====
section
/-! DEFINITION. Scale-out over the Ethernet ports (R366 to R371): the send rings of the queue pairs and their packets, and the responder. The
engine reaches what a tenant's tree maps, in this package and in others: an access to another package is sent, and goes on when it is
answered. -/

namespace Sys2Proof.Machine

open Sys2Proof

/-! ## The engine's accesses -/

/-- The access in progress of a queue pair, for what it receives or for what it sends. -/
def Qp.io (q : Qp) (rx : Bool) : Option EthIo := if rx then q.rxIo else q.txIo

def Qp.setIo (q : Qp) (rx : Bool) (io : Option EthIo) : Qp := if rx then { q with rxIo := io } else { q with txIo := io }

namespace State

/-- Where the I/O die's units stand in messages (DESIGN CHOICE, log entry 29). -/
def ioLoc (s : State) : Loc := { pkg := s.pkg, die := 0, core := 0, thread := 0 }

/-- The parts of n bytes through a tenant's tree, each translated; none where one fails. -/
def ethParts (s : State) (tenant : Nat) (va : Word) (n : Nat) (u : Use) : Option (List (Nat × Nat)) :=
  (parts va.toNat n).foldr (fun p acc =>
    match s.unitAddr tenant (va + BitVec.ofNat 64 p.1) u, acc with
    | .ok g, some l => some ((g, p.2) :: l)
    | _, _ => none) (some [])

/-- The bytes of translated parts, with the answers to the reads at other packages; none where a word is bad. -/
def ethBytes' (s : State) (io : EthIo) : Option (List Byte) :=
  if io.parts.any fun p => !(s.resolve p.1).isRemote && (s.badMem (s.resolve p.1) p.2).isSome then none else s.hostRead io.ids io.parts

/-- Are the stores with these numbers acknowledged? -/
def writesAcked (s : State) (ids : List Nat) : Bool :=
  !(s.issued.any fun a => ids.contains a.id) && !(s.flight.any fun a => ids.contains a.id)

/-- Read n bytes through the tenant's tree and go on with them, none where a part fails; or send the reads of what lies at other packages. -/
def ethRead (s : State) (p : Nat) (rx : Bool) (va : Word) (n : Nat) (k : State → Option (List Byte) → State) : State :=
  let q := s.qp p
  match q.io rx with
  | some io =>
    if s.readsDone io.ids then k ((s.dropReplies io.ids).updQp p fun q => q.setIo rx none) (s.ethBytes' io) else s
  | none =>
    match s.ethParts q.tenant va n .engine with
    | none => k s none
    | some ps =>
      if ps.any fun x => (s.resolve x.1).isRemote then
        let (s', ids) := s.askHost (q.tenant + 1) ps
        s'.updQp p fun q => q.setIo rx (some { parts := ps, ids := ids })
      else k s (s.ethBytes' { parts := ps, ids := [] })

/-- The stores of bytes to translated parts: this package's are written, those to other packages sent. -/
def ethStores (s : State) (tenant : Nat) (d : List Byte) (ps : List (Nat × Nat)) : State × List Nat × Nat :=
  ps.foldl (fun acc p =>
    let e := slice d acc.2.2 p.2
    if (acc.1.resolve p.1).isRemote then
      let r := (blocks64 p.1 p.2).foldl (fun (a : State × List Nat) b =>
        let (id, s) := a.1.unitAccess 0 (unitOf 8) tenant (BitVec.ofNat 64 b.1) (s.resolve b.1) (.store (slice e (b.1 - p.1) b.2))
        (s, a.2 ++ [id])) (acc.1, acc.2.1)
      (r.1, r.2, acc.2.2 + p.2)
    else (acc.1.writeMem (acc.1.resolve p.1) e, acc.2.1, acc.2.2 + p.2)) (s, [], 0)

/-- Write bytes through the tenant's tree and go on once each word has its bank acknowledgement (R368); with false, and nothing written, where
a part fails. -/
def ethWrite (s : State) (p : Nat) (rx : Bool) (va : Word) (d : List Byte) (k : State → Bool → State) : State :=
  let q := s.qp p
  match q.io rx with
  | some io => if s.writesAcked io.ids then k (s.updQp p fun q => q.setIo rx none) true else s
  | none =>
    match s.ethParts q.tenant va d.length .engineWr with
    | none => k s false
    | some ps =>
      let (s', ids, _) := s.ethStores q.tenant d ps
      if ids = [] then k s' true else s'.updQp p fun q => q.setIo rx (some { parts := [], ids := ids })

/-- Has the access in progress, if any, been answered? -/
def ethSettled (s : State) : Option EthIo → Bool
  | none => true
  | some io => if io.parts = [] then s.writesAcked io.ids else s.readsDone io.ids

/-! ## Packets (R366) -/

/-- The path MTU. -/
def mtu : Nat := 4096

/-- The packets of a message of n bytes. -/
def packetsOf (n : Nat) : Nat := max 1 ((n + mtu - 1) / mtu)

/-- The sequence number n after another: 24 bits. -/
def psnAdd (p n : Nat) : Nat := (p + n) % 2 ^ 24

/-- How far a sequence number is ahead of another; 2²³ and more is behind it. -/
def psnAhead (p q : Nat) : Nat := (p + 2 ^ 24 - q % 2 ^ 24) % 2 ^ 24

/-- The headers of a queue pair's outgoing packets (R369, R370). -/
def roceHeader (s : State) (q : Qp) : RoceHeader :=
  let e := fun o n => (s.ethBytes.read (32 * q.port + o) n)
  { ipv6 := decide (s.ethBytes.nat (32 * q.port + 22) 1 % 2 = 1), dscp := field q.bytes 2 1, localIp := e 0 16, localMac := e 16 6
    peerIp := slice q.bytes 8 16, nextHop := slice q.bytes 24 6, udpSrc := slice q.bytes 30 2, peerQpn := field q.bytes 4 4 }

/-- A packet leaves a queue pair. -/
def sendRequest (s : State) (p : Nat) (r : RdmaReq) : State := s.addOut (.rdmaRequest p (s.roceHeader (s.qp p)) r)

def sendAck (s : State) (p : Nat) (a : RdmaAck) : State := s.addOut (.rdmaAck p (s.roceHeader (s.qp p)) a)

def sendNak (s : State) (p psn : Nat) (k : NakKind) : State := s.addOut (.rdmaNak p (s.roceHeader (s.qp p)) psn k)

/-- An ECN mark has come: the queue pair takes a new pace (R366). DESIGN CHOICE, log entry 124. -/
def ecnMarked (s : State) (p : Nat) (mark : Bool) : State :=
  if mark then
    let g := Config.ecnGap s.freeCount
    { s with freeCount := s.freeCount + 1 }.updQp p fun q => { q with gap := g, sendAt := max q.sendAt (s.now + g) }
  else s

/-! ## The send ring (R367, R368) -/

/-- Do the fields of a queue pair's entry permit ENABLE (R370)? -/
def qpOk (s : State) (q : Qp) : Bool :=
  let b := q.bytes
  let eth := s.ethBytes.nat (32 * q.port + 22) 1
  (s.tenant q.tenant).active && decide (eth / 2 % 2 = 1) && decide (1 ≤ q.log2n) && decide (q.log2n ≤ 16) &&
  decide (q.ring % 64 = 0) && decide (q.tailAddr % 4 = 0) && decide (q.ctl / 64 % 2 = 0) && decide (field b 2 1 < 64) &&
  decide (field b 7 1 = 0) && decide (field b 51 1 = 0) && decide (field b 55 1 = 0) && decide (field b 60 4 = 0) &&
  (decide (eth % 2 = 1) || decide (field b 12 12 = 0))

/-- Is an entry of a send ring free of reserved fields (R367)? -/
def ringEntryOk (e : List Byte) : Bool :=
  decide (field e 0 1 < 3) && [0, 2, 3].contains (field e 1 1) && decide (field e 2 2 = 0) && decide (1 ≤ field e 4 4) &&
  decide (field e 4 4 ≤ 2 ^ 31) && decide (field e 44 20 = 0)

/-- The entry in progress is performed: HEAD counts it. -/
def entryDone (s : State) (p : Nat) : State :=
  s.updQp p fun q => { q with head := (q.head + 1) % 2 ^ 32, busy := none }

/-- An entry completes with an error: no action, a COPY notice with its address (R367). DEDUCED, log entry 95. -/
def ringError (s : State) (p : Nat) (at' : Word) : State :=
  (s.entryDone p).notice (s.qp p).tenant 0x14 0 s.ioLoc at' 0

/-- The completion action of a ring entry, from the I/O die (R285, R294, R368). -/
def ringAction (s : State) (tenant : Nat) (e : List Byte) : State :=
  let sh : List Word := [0, 0, 0, 0, 0, 0, 0, 0, 0, BitVec.ofNat 64 (field e 1 1 + field e 40 4 * 2 ^ 32), BitVec.ofNat 64 (field e 32 8)]
  match field e 1 1 with
  | 2 => s.copyArrival (unitOf 8)
      { id := 0, xid := 0, fence := none, thread := none, tenant := tenant, shadows := sh, offset := 0, started := true, await := [], out := [], far := false
        after := [], cancel := false, settled := true, node := none }
  | 3 => s.decrement (unitOf 8) tenant (field e 32 4) s.ioLoc
  | _ => s

/-- The entry in progress has its last acknowledgement or byte: its action follows (R368). -/
def finishEntry (s : State) (p : Nat) (e : List Byte) : State := (s.entryDone p).ringAction (s.qp p).tenant e

/-- The request packet of an entry with n bytes gone before it. -/
def ringRequest (q : Qp) (e : List Byte) (d : List Byte) : RdmaReq :=
  { psn := q.spsn, first := decide (q.sent = 0), ecn := false, op := field e 0 1, raddr := BitVec.ofNat 64 (field e 16 8)
    rkey := BitVec.ofNat 32 (field e 24 4), imm := BitVec.ofNat 32 (field e 28 4), len := field e 4 4, data := d }

/-- The packet goes, and the queue pair counts it; n is how many sequence numbers it takes, k how many bytes of the message go with it. -/
def sendPacket (s : State) (p : Nat) (e d : List Byte) (n k : Nat) : State :=
  (s.sendRequest p (ringRequest (s.qp p) e d)).updQp p fun q =>
    { q with spsn := psnAdd q.spsn n, sent := q.sent + k, sendAt := s.now + q.gap }

/-- The next packet of the entry in progress: of a READ its request, of a WRITE the next bytes at LADDR. -/
def sendNext (s : State) (p : Nat) (at' : Word) (e : List Byte) : State :=
  let q := s.qp p
  let len := field e 4 4
  if field e 0 1 = 2 then s.sendPacket p e [] (packetsOf len) len
  else
    let k := min mtu (len - q.sent)
    s.ethRead p false (BitVec.ofNat 64 (field e 8 8 + q.sent)) k fun s d =>
      match d with
      | none => s.ringError p at'
      | some d => s.sendPacket p e d 1 k

/-- The engine reads the next entry, or the tail word where none is left. -/
def pollRing (s : State) (p : Nat) : State :=
  let q := s.qp p
  if q.tail = q.head then
    s.ethRead p false (BitVec.ofNat 64 q.tailAddr) 4 fun s t =>
      s.updQp p fun q => { q with pollAt := s.now + 1000, tail := match t with | some t => leNat t | none => q.tail }
  else
    let at' := BitVec.ofNat 64 (q.ring + 64 * (q.head % 2 ^ q.log2n))
    s.ethRead p false at' 64 fun s e =>
      match e with
      | none => s.ringError p at'
      | some e =>
        if !(s.qp p).enabled then s
        else
        let use : Use := if field e 0 1 = 2 then .engineWr else .engine
        if ringEntryOk e ∧ (s.ethParts q.tenant (BitVec.ofNat 64 (field e 8 8)) (field e 4 4) use).isSome then
          s.updQp p fun q => { q with busy := some (at', e), sent := 0, got := 0 }
        else s.ringError p at'

/-- Has a queue pair a packet to send, an entry to read, or its tail to look at now? -/
def qpSends (s : State) (p : Nat) : Bool :=
  let q := s.qp p
  q.st == .ready && s.ethSettled q.txIo &&
  (q.txIo.isSome ||
   match q.busy with
   | some (_, e) => decide (q.sent < field e 4 4) && decide (q.sendAt ≤ s.now)
   | none => q.enabled && (decide (q.tail ≠ q.head) || decide (q.pollAt ≤ s.now)))

/-! ## What arrives (R366, R368, R371) -/

/-- Does the region table permit a request on a queue pair of a tenant (R371)? -/
def regionAllows (s : State) (tenant : Nat) (r : RdmaReq) : Bool :=
  let e := s.regions.read (32 * (r.rkey.toNat % 4096)) 32
  let ctl := field e 0 1
  let base := field e 8 8
  decide (128 ≤ ctl) && decide (field e 4 4 = r.rkey.toNat / 4096) && decide (ctl % 16 = tenant) &&
  decide (base ≤ r.raddr.toNat) && decide (r.raddr.toNat + r.len ≤ base + field e 16 8) &&
  (if r.op = 2 then decide (ctl / 16 % 2 = 1) else decide (ctl / 32 % 2 = 1))

/-- The response packets of a READ, in order. -/
def sendResponses (s : State) (p psn : Nat) (ecn : Bool) (d : List Byte) : State :=
  (List.range (packetsOf d.length)).foldl (fun s i =>
    s.sendAck p { psn := psnAdd psn i, ecn := ecn, data := slice d (mtu * i) (min mtu (d.length - mtu * i)) }) s

/-- The first packet received is done with. -/
def rxNext (s : State) (p : Nat) : State := s.updQp p fun q => { q with rx := q.rx.drop 1 }

/-- Perform what a queue pair has received, in order, as far as no access to another package holds it. -/
def serveRx : Nat → State → Nat → State
  | 0, s, _ => s
  | fuel + 1, s, p =>
    let q := s.qp p
    match q.rx, q.busy with
    | .request r addr last :: _, _ =>
      if r.op = 2 then
        s.ethRead p true addr r.len fun s d =>
          serveRx fuel ((match d with
            | some d => s.sendResponses p r.psn r.ecn d
            | none => s.sendNak p r.psn .access).rxNext p) p
      else
        s.ethWrite p true addr r.data fun s good =>
          let s' := if !good then s.sendNak p r.psn .access
            else if !last then s
            else (if r.op = 1 then s.decrement (unitOf 8) q.tenant r.imm.toNat s.ioLoc else s).sendAck p { psn := r.psn, ecn := r.ecn, data := [] }
          serveRx fuel (s'.rxNext p) p
    | .response d :: _, some (at', e) =>
      s.ethWrite p true (BitVec.ofNat 64 (field e 8 8 + q.got)) d fun s good =>
        let s := s.rxNext p
        let s' := if !good then s.ringError p at'
          else if q.got + d.length < field e 4 4 then s.updQp p fun q => { q with got := q.got + d.length }
          else s.finishEntry p e
        serveRx fuel s' p
    | .response _ :: _, none => serveRx fuel (s.rxNext p) p
    | [], _ => s

/-- A queue pair takes a packet, and performs it at once where nothing holds it. -/
def receive (s : State) (p : Nat) (x : EthPacket) : State :=
  let s := s.updQp p fun q => { q with rx := q.rx ++ [x] }
  if (s.qp p).rx.length = 1 then s.serveRx 1 p else s

/-- What remains of the message that a packet of a WRITE belongs to: the packet's address and the bytes to come with it and after it. -/
def messageOf (q : Qp) (r : RdmaReq) : Option (Word × Nat) :=
  if r.first then some (r.raddr, r.len)
  else match q.message with
    | some (op, a, n) => if op = r.op then some (a, n) else none
    | none => none

/-- The next request packet in sequence: refused, or taken. -/
def takeRequest (s : State) (p : Nat) (r : RdmaReq) : State :=
  let q := s.qp p
  if 3 ≤ r.op then s.sendNak p r.psn .invalid
  else if r.first ∧ !s.regionAllows q.tenant r then s.sendNak p r.psn .access
  else if r.op = 2 then
    if r.first then
      (s.updQp p fun q => { q with rpsn := psnAdd q.rpsn (packetsOf r.len), message := none }).receive p (.request r r.raddr true)
    else s.sendNak p r.psn .invalid
  else
    match messageOf q r with
    | none => s.sendNak p r.psn .invalid
    | some (a, n) =>
      if r.data.length ≠ min mtu n then s.sendNak p r.psn .invalid
      else
        let k := r.data.length
        (s.updQp p fun q =>
          { q with rpsn := psnAdd q.rpsn 1, message := if k < n then some (r.op, a + BitVec.ofNat 64 k, n - k) else none }).receive p
            (.request r a (decide (k = n)))

end State

/-- RDMA_REQUEST_ARRIVAL: the responder takes the packets in the order of their sequence numbers, answers one that it has taken already
again, and one ahead of its turn with a NAK; it refuses what it does not support or the region table does not permit; else the data is written,
with the decrement behind it, or read, and acknowledged (R366, R368, R371). -/
def execRdmaRequestArrival (qp : Nat) (req : RdmaReq) (s : State) : Host.Outcome State Fault Refusal :=
  let q := s.qp qp
  .next (if q.st ≠ .ready ∨ !q.enabled then s
    else if req.psn % 2 ^ 24 = q.rpsn then s.takeRequest qp req
    else if State.psnAhead req.psn q.rpsn < 2 ^ 23 then s.sendNak qp q.rpsn .sequence
    else if q.rx ≠ [] then s
    else if req.op = 2 ∧ s.regionAllows q.tenant req then s.receive qp (.request req req.raddr true)
    else s.sendAck qp { psn := req.psn, ecn := req.ecn, data := [] })

/-- RDMA_ACK_ARRIVAL: the last acknowledgement of a WRITE has come, or a response packet of a READ, whose bytes are written; with the last of
them the action follows (R368). An ECN mark slows the queue pair (R366). -/
def execRdmaAckArrival (qp : Nat) (ack : RdmaAck) (s : State) : Host.Outcome State Fault Refusal :=
  let s := s.ecnMarked qp ack.ecn
  let q := s.qp qp
  .next (match q.busy with
    | none => s
    | some (_, e) =>
      if field e 0 1 = 2 then (if q.sent = 0 ∨ ack.data = [] then s else s.receive qp (.response ack.data))
      else if field e 4 4 ≤ q.sent ∧ State.psnAhead ack.psn (State.psnAdd q.spsn (2 ^ 24 - 1)) < 2 ^ 23 then s.finishEntry qp e
      else s)

/-- RDMA_NAK_ARRIVAL: a remote access error halts the queue pair (R368, R370). -/
def occRdmaNakArrival (s : State) : Option State :=
  let q := s.qp s.subj
  match q.busy with
  | none => none
  | some (at', _) =>
    some ((s.updQp s.subj fun q => { q with st := .error, busy := none, rx := [], rxIo := none, txIo := none }).notice q.tenant 0x14
      (s.subj % 256) s.ioLoc at' 0)

def execRdmaNakArrival (s : State) : Host.Outcome State Fault Refusal := s.happen (occRdmaNakArrival s)

/-! ## The engine's steps -/

/-- QUEUE_PAIR_ENABLE of queue pair State.subj: its entry is checked; it becomes READY, or ENABLE reads back 0. -/
def occQueuePairEnable (s : State) : Option State :=
  let q := s.qp s.subj
  if !q.enabled ∨ q.st ≠ .reset ∨ q.stopping then none
  else if s.qpOk q then
    some (s.updQp s.subj fun q => { Qp.reset with
      bytes := q.bytes, st := .ready, pollAt := s.now + 1000, spsn := field q.bytes 48 4, rpsn := field q.bytes 52 4 })
  else some (s.updQp s.subj fun q => { q with bytes := splice q.bytes 0 (leBytes 1 (q.ctl % 128)) })

def execQueuePairEnable (s : State) : Host.Outcome State Fault Refusal := s.happen (occQueuePairEnable s)

/-- QUEUE_PAIR_DISABLE of queue pair State.subj: with the entry in progress done, and what it has received, STATE returns to RESET. -/
def occQueuePairDisable (s : State) : Option State :=
  let q := s.qp s.subj
  if !q.stopping ∨ q.busy.isSome ∨ q.rx ≠ [] ∨ q.txIo.isSome then none
  else some (s.updQp s.subj fun q => { q with st := .reset, stopping := false })

def execQueuePairDisable (s : State) : Host.Outcome State Fault Refusal := s.happen (occQueuePairDisable s)

/-- SEND_RING_POLL of queue pair State.subj: the engine goes on with what the queue pair has received, or sends its next packet, or reads the
next entry or the tail of its send ring (R367). -/
def occSendRingPoll (s : State) : Option State :=
  let p := s.subj
  let q := s.qp p
  if q.rx ≠ [] ∧ s.ethSettled q.rxIo then some (s.serveRx q.rx.length p)
  else if s.qpSends p then
    some (match q.busy with
      | some (at', e) => s.sendNext p at' e
      | none => s.pollRing p)
  else none

def execSendRingPoll (s : State) : Host.Outcome State Fault Refusal := s.happen (occSendRingPoll s)

end Sys2Proof.Machine
end

