-- ==== Sys2Proof/Machine/Firmware.lean ====
section
/-! DEFINITION. The firmware complex (R372 to R384): the queue harts and their custom instructions, queues, slots and the manager,
and firmware errors. -/

namespace Sys2Proof.Machine

open Sys2Proof

namespace State

/-! ## Queue commands (R375, R376) -/

/-- The queue that a control block describes; none where it is malformed: a reserved bit is set, LOG2N is above 16, or the tenant is
not activated or does not own the window. -/
def parseBlock (s : State) (b : List Byte) : Option Queue :=
  let t := field b 6 1
  let q : Queue := { Queue.reset with
    first := field b 0 4, log2n := field b 4 1, prio := field b 5 1, tenant := t % 16, st := .idle, ivec := field b 20 2 }
  if 16 < q.log2n ∨ 8 ≤ q.prio ∨ t / 16 ≠ 8 ∨ field b 22 2 ≠ 0 then none
  else if !(s.tenant q.tenant).active ∨ (s.tenant q.tenant).nodeLen < q.first + 2 ^ q.log2n then none
  else some q

/-- The bytes of a queue's control block in device memory. -/
def blockOf (s : State) (q : Nat) : List Byte := s.readMem (s.resolve (s.qcb q 0)) 64

/-- A queue command completes with a result. -/
def qcmdDone (s : State) (r : Nat) : State := { s with fw := { s.fw with qcmdBusy := none, qcmdResult := r } }

/-- The queue command that runs, with its operation and queue. -/
def qcmdNow (s : State) : Option (Nat × Nat) :=
  if s.fwAlive then s.fw.qcmdBusy.map fun v => (v.toNat / 4096 % 16, v.toNat % 4096) else none

/-- Write TAIL, HEAD and TAKEN of a queue through to its block. -/
def putCounts (s : State) (q : Nat) : State :=
  let x := s.queue q
  ((s.putPhys (s.qcb q 8) (leBytes 4 x.tail)).putPhys (s.qcb q 12) (leBytes 4 x.head)).putPhys (s.qcb q 16) (leBytes 4 x.taken)

end State

/-- QCMD_ENABLE: a DISABLED queue's block is checked, and the queue is IDLE. A reserved OP, or a set bit that must be written 0,
completes with result 1. DEDUCED, log entry 80. -/
def occQcmdEnable (s : State) : Option State :=
  match s.qcmdNow, s.fw.qcmdBusy with
  | some (op, q), some v =>
    if op = 1 ∧ v.toNat / 2 ^ 16 % 2 ^ 40 = 0 then none
    else if op ≠ 0 ∨ v.toNat / 2 ^ 16 % 2 ^ 40 ≠ 0 then some (s.qcmdDone 1)
    else if (s.queue q).st ≠ .disabled then some (s.qcmdDone 2)
    else
      match s.parseBlock (s.blockOf q) with
      | none => some (s.qcmdDone 1)
      | some x => some ((((s.updQueue q fun _ => x).putCounts q).setQState q .idle).qcmdDone 0)
  | _, _ => none

def execQcmdEnable (s : State) : Host.Outcome State Fault Refusal := s.happen (occQcmdEnable s)

/-- QCMD_DISABLE: an IDLE or BROKEN queue is disabled. -/
def occQcmdDisable (s : State) : Option State :=
  match s.qcmdNow, s.fw.qcmdBusy with
  | some (1, q), some v =>
    if v.toNat / 2 ^ 16 % 2 ^ 40 ≠ 0 then none
    else
      match (s.queue q).st with
      | .idle | .broken => some ((s.setQState q .disabled).qcmdDone 0)
      | _ => some (s.qcmdDone 2)
  | _, _ => none

def execQcmdDisable (s : State) : Host.Outcome State Fault Refusal := s.happen (occQcmdDisable s)

/-! ## Watches (R373, R374) -/

/-- Bytes of the watched word. -/
def Watch.bytes (w : Watch) : Nat := if w.wide then 8 else 4

/-- Does the condition hold of a word? -/
def Watch.holds (w : Watch) (word : Nat) : Bool :=
  let m := 256 ^ w.bytes
  let x := Nat.land word w.mask.toNat % m
  let v := w.value.toNat % m
  match w.op with
  | 0 => decide (x = v)
  | 1 => decide (x ≠ v)
  | 2 => decide (v ≤ x)
  | _ => decide ((x + m - v) % m < m / 2)

namespace State

/-- The watch that a WAIT block describes, with ADDR translated for a tenant; none where the block is malformed or the translation
fails (R374). -/
def parseWatch (s : State) (tenant : Nat) (b : List Byte) : Option Watch :=
  let n := if field b 9 1 = 1 then 8 else 4
  if 4 ≤ field b 8 1 ∨ 2 ≤ field b 9 1 ∨ field b 10 6 ≠ 0 ∨ field b 0 8 % n ≠ 0 then none
  else
    match s.unitHere tenant (BitVec.ofNat 64 (field b 0 8)) .engine with
    | .ok g => some { addr := g, op := field b 8 1, wide := decide (n = 8), value := BitVec.ofNat 64 (field b 16 8)
                      mask := BitVec.ofNat 64 (field b 24 8) }
    | .error _ => none

/-- Read n bytes through a tenant's tree for a hart, of this package: none where a part fails. -/
def unitBytes (s : State) (tenant : Nat) (va : Word) (n : Nat) : Option (List Byte) :=
  (parts va.toNat n).foldl (fun acc p =>
    match acc, s.unitHere tenant (va + BitVec.ofNat 64 p.1) .engine with
    | some d, .ok g => if (s.badMem (s.resolve g) p.2).isSome then none else some (d ++ s.readAny (s.resolve g) p.2)
    | _, _ => none) (some [])

/-- Does an armed condition hold now? -/
def watchHolds (s : State) (w : Watch) : Bool := w.holds (leNat (s.readAny (s.resolve w.addr) w.bytes))

/-- The tenant of a hart's queue. -/
def hartTenant (s : State) (k : Nat) : Option Nat := (s.hart k).queue.map fun q => (s.queue q).tenant

/-- Register x i of a hart; x0 reads 0. -/
def hartX (s : State) (k i : Nat) : Word := if i = 0 then 0 else FMap.get 0 (s.hart k).x i

def putX (s : State) (k i : Nat) (w : Word) : State :=
  if i = 0 then s else s.updHart k fun h => { h with x := FMap.set h.x i w }

/-- An exception of hart k: the trap of the base architecture (PRESUMED, log entry 26). -/
def hartTrap (s : State) (k cause : Nat) (tval : Word) : State :=
  s.updHart k fun h =>
    let mie := h.mstatus.getLsbD 3
    { h with mepc := h.pc, mcause := BitVec.ofNat 64 cause, mtval := tval, pc := h.mtvec &&& ~~~3
             mstatus := (h.mstatus &&& ~~~0x1888#64) ||| 0x1800#64 ||| (if mie then 0x80#64 else 0) }

/-- The illegal-instruction exception of hart k (R373). -/
def hartIllegal (s : State) (k : Nat) (word : Nat) : State := s.hartTrap k 2 (BitVec.ofNat 64 word)

/-- The hart's condition has come to hold, or a kick has come, while it blocks: rd is written, and the hart goes on. -/
def wakeHart (s : State) (k : Nat) : State :=
  let h := s.hart k
  match h.blocked with
  | none => s
  | some rd =>
    let c := h.watch.any s.watchHolds
    let v : Word := (if c then 1 else 0) + (if h.kicked then 2 else 0)
    if v = 0 then s
    else
      (s.putX k rd.toNat v).updHart k fun h =>
        { h with blocked := none, kicked := false, watch := if c then none else h.watch, pc := h.pc + 4 }

end State

/-- WARM rs1: the watch of the executing hart is armed on the block at the physical address in rs1, with ADDR translated for the
tenant of the hart's queue; a block that is malformed arms nothing, and the supervisor is told (R373, R374).
DEDUCED, log entry 84. -/
def execWarm (rs1 : BitVec 5) (s : State) : Host.Outcome State Fault Refusal :=
  let k := s.fw.curHart
  if 32 ≤ k then .next (s.hartIllegal k (0xB + rs1.toNat * 2 ^ 15))
  else
    let a := s.hartX k rs1.toNat
    let next := fun (s : State) => s.updHart k fun h => { h with pc := h.pc + 4 }
    match s.hartTenant k with
    | none => .next (next (s.updHart k fun h => { h with watch := none }))
    | some t =>
      let b := s.readMem (s.resolve a.toNat) 32
      match (if 2 ^ 56 ≤ a.toNat ∨ b = [] then none else s.parseWatch t b) with
      | some w => .next (next (s.updHart k fun h => { h with watch := some w, rereadAt := s.now }))
      | none => .next (next ((s.updHart k fun h => { h with watch := none }).notice t 0x06 0 s.ioLoc a 0))

/-- WBLK rd: the executing hart blocks until its armed condition holds or its queue is kicked (R373). -/
def execWblk (rd : BitVec 5) (s : State) : Host.Outcome State Fault Refusal :=
  let k := s.fw.curHart
  if 32 ≤ k then .next (s.hartIllegal k (0x100B + rd.toNat * 2 ^ 7))
  else .next ((s.updHart k fun h => { h with blocked := some rd, rereadAt := s.now }).wakeHart k)

namespace State

/-- Does the watch unit look at a hart's word now: 512 ns have passed, or its queue has been kicked? -/
def rereadDue (s : State) (k : Nat) : Bool :=
  let h := s.hart k
  s.fwAlive && decide (k < 32) &&
  (((h.waitNode.isSome || (h.blocked.isSome && h.watch.isSome)) && decide (h.rereadAt ≤ s.now)) || (h.blocked.isSome && h.kicked))

/-- A node's condition holds: it retires, its successors decremented as DONE decrements them (R374). -/
def finishWait (s : State) (k tenant index : Nat) : State :=
  ((s.updHart k fun h => { h with waitNode := none }).decrementSuccessors (unitOf 8) tenant index s.ioLoc).nodeRetired tenant index

end State

/-- WATCH_REREAD of hart State.subj: the words it watches are read again. -/
def occWatchReread (s : State) : Option State :=
  let k := s.subj
  if !s.rereadDue k then none
  else
    let s := (s.updHart k fun h => { h with rereadAt := s.now + 512 }).wakeHart k
    match (s.hart k).waitNode with
    | some (t, i, w) => some (if s.watchHolds w then s.finishWait k t i else s)
    | none => some s

def execWatchReread (s : State) : Host.Outcome State Fault Refusal := s.happen (occWatchReread s)

/-! ## Taking slots (R374, R378) -/

/-- HEAD advances over the prefix of retired slots, as far as the hart has taken them. DEDUCED, log entry 83. -/
def Queue.advance : Nat → Queue → Queue
  | 0, q => q
  | n + 1, q =>
    if q.retired.contains q.head ∧ q.head ≠ q.taken then
      Queue.advance n { q with head := (q.head + 1) % 2 ^ 32, retired := q.retired.erase q.head }
    else q

/-- Is every submitted slot of a queue taken? -/
def Queue.allTaken (q : Queue) : Bool := decide (q.taken = q.tail)

namespace State

/-- The queue that a WAIT node belongs to: the one whose window holds it. -/
def queueOfNode (s : State) (n : ReadyNode) : Option Nat :=
  (List.find? (fun (e : Nat × Queue) => e.2.st != .disabled && e.2.st != .broken && e.2.tenant == n.tenant && e.2.holds n.index)
    s.fw.queues).map (·.1)

/-- Is a ready WAIT node one for hart k: of its queue, or, where it is of no queue, for the lowest hart that serves none (DESIGN CHOICE, log entry 30)? -/
def waitsForHart (s : State) (k : Nat) (n : ReadyNode) : Bool :=
  match s.queueOfNode n with
  | some q => (s.hart k).queue == some q
  | none => firstBelow 32 (fun j => (s.hart j).waitNode.isNone) == some k

/-- The ready WAIT node that hart k takes next. -/
def nextWait (s : State) (k : Nat) : Option ReadyNode :=
  if (s.hart k).waitNode.isSome then none
  else s.fw.waits.find? fun n => s.waitsForHart k n && s.mayLaunch n

/-- Has the queue of hart k a slot to take? -/
def hasSlot (s : State) (k : Nat) : Option Nat :=
  match (s.hart k).queue with
  | none => none
  | some q =>
    let x := s.queue q
    if x.st = .mapped ∧ !x.allTaken ∧ s.mayLaunch { tenant := x.tenant, index := 0, after := [] } then some q else none

/-- Hart k takes a WAIT node: its block is read and its word watched, or the supervisor is told (R374). -/
def takeWait (s : State) (k : Nat) (n : ReadyNode) : State :=
  let s := { s with fw := { s.fw with waits := s.fw.waits.erase n } }
  let p := nodePtr (s.nodeRec n.tenant n.index)
  match (s.unitBytes n.tenant p 32).bind (s.parseWatch n.tenant) with
  | some w => s.updHart k fun h => { h with waitNode := some (n.tenant, n.index, w), rereadAt := s.now }
  | none => s.notice n.tenant 0x06 0 s.ioLoc p 0

/-- HEAD advances in a queue: it is written to device memory, and then the vector is signalled (R378). -/
def settleHead (s : State) (q : Nat) (x : Queue) : State :=
  let x' := Queue.advance (x.retired.length + 1) x
  let s := (s.updQueue q fun _ => x').putCounts q
  if x'.head ≠ x.head ∧ x.ivec ≠ 0 then s.signal (x.tenant + 1) x.ivec else s

/-- The hart takes the next slot of queue q: a node whose count is 0 goes to its walker, unless a decrement has sent it there; one that has
retired already is a retired slot from now on. -/
def takeSlot' (s : State) (q : Nat) : State :=
  let x := s.queue q
  let index := x.first + x.taken % 2 ^ x.log2n
  let r := s.nodeRec x.tenant index
  let s := s.settleHead q { x with
    taken := (x.taken + 1) % 2 ^ 32, early := x.early.erase index, gone := x.gone.erase index
    retired := if x.gone.contains index then x.retired ++ [x.taken] else x.retired }
  if field r 4 4 = 0 ∧ !(x.early.contains index) then
    s.updDie (nodeDie r) fun d => { d with walker := d.walker ++ [{ tenant := x.tenant, index := index, after := [] }] }
  else s

end State

/-- HART_TAKE_SLOT of hart State.subj. -/
def occHartTakeSlot (s : State) : Option State :=
  if !s.fwAlive ∨ 32 ≤ s.subj then none
  else
    match s.nextWait s.subj, s.hasSlot s.subj with
    | some n, _ => some (s.takeWait s.subj n)
    | none, some q => some (s.takeSlot' q)
    | none, none => none

def execHartTakeSlot (s : State) : Host.Outcome State Fault Refusal := s.happen (occHartTakeSlot s)

/-! ## Retiring (R378) -/

/-- The slot count, in [HEAD, TAKEN), of a live node. -/
def Queue.slotOf (q : Queue) (index : Nat) : Option Nat :=
  let o := (index + 2 ^ q.log2n - (q.first + q.head % 2 ^ q.log2n)) % 2 ^ q.log2n
  let i := (q.head + o) % 2 ^ 32
  if q.holds index ∧ o < (q.taken + 2 ^ 32 - q.head) % 2 ^ 32 ∧ !(q.retired.contains i) then some i else none

namespace State

/-- The node that retires next: the oldest whose decrements are performed. -/
def nextRetired (s : State) : Option ReadyNode :=
  s.fw.retiring.find? fun n => n.after.all fun id => !(s.issued.any fun a => a.id == id) && !(s.flight.any fun a => a.id == id)

/-- A node retires in queue q; one whose slot the hart has not taken yet is remembered until then (R378). -/
def retireIn (s : State) (q : Nat) (n : ReadyNode) : State :=
  let x := s.queue q
  if x.tenant ≠ n.tenant ∨ x.st = .disabled ∨ x.st = .broken then s
  else
    match x.slotOf n.index with
    | some i => s.settleHead q { x with retired := x.retired ++ [i] }
    | none =>
      if x.early.contains n.index ∧ !(x.gone.contains n.index) then s.updQueue q fun x => { x with gone := x.gone ++ [n.index] } else s

end State

/-- NODE_RETIRE. -/
def occNodeRetire (s : State) : Option State :=
  match s.nextRetired with
  | some n =>
    if !s.fwAlive then none
    else some ((s.fw.queues.map (·.1)).foldl (fun s q => s.retireIn q n) { s with fw := { s.fw with retiring := s.fw.retiring.erase n } })
  | none => none

def execNodeRetire (s : State) : Host.Outcome State Fault Refusal := s.happen (occNodeRetire s)

/-! ## The manager (R379) -/

/-- Effective priority. -/
def Queue.eff (q : Queue) : Nat := min 7 (q.prio + q.age)

namespace State

/-- Is a mapped queue idle: every slot taken, and no WAIT node held or to be taken? -/
def queueIdle (s : State) (q : Nat) : Bool :=
  (s.queue q).allTaken &&
  !((List.range 32).any fun k => (s.hart k).queue == some q && (s.hart k).waitNode.isSome) &&
  !(s.fw.waits.any fun n => s.queueOfNode n == some q)

/-- The mapped queues of a tenant. -/
def mappedOf (s : State) (tenant : Nat) : List Nat :=
  (s.fw.queues.filter fun e => e.2.st == .mapped && e.2.tenant == tenant).map (·.1)

/-- The idle mapped queue that a tenant at its quota gives up for a pending one, the lowest base priority and then number first. -/
def victim (s : State) (x : Queue) : Option Nat :=
  ((s.mappedOf x.tenant).filter fun q => s.queueIdle q && decide ((s.queue q).prio < x.eff)).foldl (fun b q =>
    match b with
    | none => some q
    | some p => if (s.queue q).prio < (s.queue p).prio then some q else some p) none

/-- Where a pending queue can be mapped: a free hart, which a tenant below its quota always finds, though it may serve a WAIT node of no mapped
queue, or the queue to evict. -/
def mapFor (s : State) (x : Queue) : Option (Nat × Option Nat) :=
  if (s.mappedOf x.tenant).length < (s.tenant x.tenant).quota then
    ((firstBelow 32 fun k => (s.hart k).queue.isNone && (s.hart k).waitNode.isNone).or
      (firstBelow 32 fun k => (s.hart k).queue.isNone)).map fun k => (k, none)
  else
    (s.victim x).bind fun v => (firstBelow 32 fun k => (s.hart k).queue == some v).map fun k => (k, some v)

/-- Is pending queue a (number and fields) before b: higher effective priority, pending longer, lower number? -/
def mapsBefore (a b : Nat × Queue) : Bool :=
  decide (b.2.eff < a.2.eff) || (decide (a.2.eff = b.2.eff) && (decide (a.2.since < b.2.since) ||
    (decide (a.2.since = b.2.since) && decide (a.1 < b.1))))

/-- The manager's next choice: the first pending queue in order that can be mapped. -/
def managerChoice (s : State) : Option (Nat × Nat × Option Nat) :=
  let c := s.fw.queues.filterMap fun e => if e.2.st == .pending then (s.mapFor e.2).map fun m => (e, m) else none
  (c.foldl (fun b e => match b with
    | none => some e
    | some f => if mapsBefore e.1 f.1 then some e else some f) none).map fun e => (e.1.1, e.2.1, e.2.2)

/-- A queue is evicted from hart k: its hart is saved and the queue is IDLE, all its slots being taken. -/
def evictQueue (s : State) (k v : Nat) : State :=
  let s := { s with freeCount := s.freeCount + 1 }.putPhys (s.qcb v 24) (leBytes 40 (Config.queueSave s.freeCount).toNat)
  (s.updHart k fun h => { h with queue := none, watch := none, blocked := none, kicked := false }).setQState v .idle

/-- A pending queue takes hart k; the tenant's pending bit falls with its last pending queue (DESIGN CHOICE, log entry 123). -/
def mapQueue (s : State) (q k : Nat) : State :=
  let n := (s.queue q).tenant
  let s := (s.updHart k fun h => { h with queue := some q, kicked := false }).setQState q .mapped
  if s.fw.queues.any fun e => e.2.st == .pending && e.2.tenant == n then s else s.updTenant n fun t => { t with pending := false }

end State

/-- MANAGER_MAP. -/
def occManagerMap (s : State) : Option State :=
  match s.managerChoice with
  | some (q, k, v) =>
    if !s.fwAlive then none
    else
      let s := match v with
        | some v => s.evictQueue k v
        | none => s
      some ({ s with fw := { s.fw with wakeManager := false } }.mapQueue q k)
  | none => none

def execManagerMap (s : State) : Host.Outcome State Fault Refusal := s.happen (occManagerMap s)

namespace State

/-- Has a pending queue waited another full 100 microseconds? -/
def agesNow (s : State) (q : Nat) : Bool :=
  let x := s.queue q
  x.st == .pending && decide (x.age < 7) && decide (x.since + 100000 * (x.age + 1) ≤ s.now)

end State

/-- QUEUE_AGING of queue State.subj. -/
def occQueueAging (s : State) : Option State :=
  if s.fwAlive ∧ s.agesNow s.subj then some (s.updQueue s.subj fun x => { x with age := x.age + 1 })
  else none

def execQueueAging (s : State) : Host.Outcome State Fault Refusal := s.happen (occQueueAging s)

/-! ## Firmware errors (R382 to R384) -/

/-- QUEUE_TABLE_UE: the entry of a mapped queue is reloaded from its block and the error logged; a block that cannot be read makes
the queue BROKEN, and its owner's vector 0 is signalled. DEDUCED, log entry 81. -/
def occQueueTableUe (queue : Nat) (blockReadable : Bool) (s : State) : Option State :=
  let x := s.queue queue
  if x.st ≠ .mapped ∨ !s.fwAlive then none
  else if !blockReadable then some ((s.breakQueue queue).signal (x.tenant + 1) 0)
  else
    let b := s.blockOf queue
    let s := s.updQueue queue fun x =>
      { x with first := field b 0 4, log2n := field b 4 1, prio := field b 5 1 % 8, tenant := field b 6 1 % 16, tail := field b 8 4
               head := field b 12 4, taken := field b 16 4, ivec := field b 20 2 }
    some (s.vlogTenant x.tenant (BitVec.ofNat 64 (s.qcb queue 0)) 0x03 x.tenant 0)

def execQueueTableUe (queue : Nat) (blockReadable : Bool) (s : State) : Host.Outcome State Fault Refusal := s.happen (occQueueTableUe queue blockReadable s)

namespace State

/-- Does an address of instruction memory hold errors in both copies? -/
def imemLost (s : State) (a : Nat) : Bool := s.fw.imemBad.contains (a, false) && s.fw.imemBad.contains (a, true)

end State

/-- IMEM_UE_RECOVERY: the oldest error that stands in one copy alone is scrubbed from the other. -/
def occImemUeRecovery (s : State) : Option State :=
  match s.fw.imemBad.find? fun e => !s.imemLost e.1 with
  | some e => some { s with fw := { s.fw with imemBad := s.fw.imemBad.erase e } }
  | none => none

def execImemUeRecovery (s : State) : Host.Outcome State Fault Refusal := s.happen (occImemUeRecovery s)

/-- FIRMWARE_HALT: both copies hold errors at one address. FATAL is set, vector 0 of every function is signalled, and the management
interface receives a fatal notice. -/
def occFirmwareHalt (s : State) : Option State :=
  if s.fw.fatal ∨ !(s.fw.imemBad.any fun e => s.imemLost e.1) then none
  else
    let s : State := { s with fw := { s.fw with fatal := true, harts := s.fw.harts.map fun (h : Nat × Hart) => (h.1, { h.2 with running := false }) } }
    some (((List.range 17).foldl (fun s f => s.signal f 0) s).addOut .fatal)

def execFirmwareHalt (s : State) : Host.Outcome State Fault Refusal := s.happen (occFirmwareHalt s)

end Sys2Proof.Machine
end

