-- ==== Sys2Proof/Machine/Tenants.lean ====
section
/-! DEFINITION. Tenants (R348, R357, R380, R381): activation, pre-emption across the package, restoration, destruction and
invalidation. -/

namespace Sys2Proof.Machine

open Sys2Proof

/-! ## Descriptors (R380) -/

/-- The core keys of cluster masks, one mask of 32 clusters for each die. -/
def maskCores (masks : List (BitVec 32)) : List Nat :=
  (List.range 8).flatMap fun d => (List.range 32).flatMap fun cl =>
    if ((masks[d]?).getD 0).getLsbD cl then (List.range 16).map fun i => d * 512 + cl * 16 + i else []

/-- The tenant that a descriptor configures. -/
def parseTenant (d : List Byte) : Tenant :=
  { Tenant.reset with
    root := field d 0 8, nodeBase := field d 8 8, nodeLen := field d 16 4, supDie := field d 20 1, supCore := field d 21 2
    quota := field d 23 1, capt := BitVec.ofNat 64 (field d 24 8)
    clusters := (List.range 8).map fun i => BitVec.ofNat 32 (field d (32 + 4 * i) 4)
    windows := (List.range 8).map fun i => (field d (64 + 16 * i) 8, field d (72 + 16 * i) 8), saveArea := field d 192 8 }

/-- Do two lists of physical windows overlap? -/
def windowsMeet (a b : List (Nat × Nat)) : Bool :=
  a.any fun w => b.any fun v => decide (w.1 < w.2) && decide (v.1 < v.2) && decide (w.1 < v.2) && decide (v.1 < w.2)

/-- Do two sets of clusters overlap? -/
def clustersMeet (a b : List (BitVec 32)) : Bool := (a.zip b).any fun x => x.1 &&& x.2 != 0

namespace State

/-- Do other tenants hold clusters among these: those that are activated and not pre-empted? -/
def clustersTaken (s : State) (n : Nat) (masks : List (BitVec 32)) : Bool :=
  (List.range 16).any fun m => m != n && (s.tenant m).active && !(s.tenant m).preempted && clustersMeet masks (s.tenant m).clusters

/-- May a descriptor activate tenant n: its fields are well formed, it overlaps no activated tenant, and the quotas sum to at most 32
(R379 to R381)? -/
def tenantOk (s : State) (n : Nat) (d : List Byte) : Bool :=
  let t := parseTenant d
  let others := (List.range 16).filter fun m => m != n && (s.tenant m).active
  let inDm := fun (g : Nat) => match s.resolve g with | .dm _ => true | _ => false
  decide (t.root % 16384 = 0) && decide (t.root < 2 ^ 56) && inDm t.root && inDm (t.root + 16383) && decide (t.nodeBase % 64 = 0) && decide (field d 200 56 = 0) &&
  decide (t.supDie < 8) && decide (t.supCore < 512) && (maskCores t.clusters).contains (t.supDie * 512 + t.supCore) &&
  t.windows.all (fun w => decide (w.1 % 0x10000 = 0) && decide (w.2 % 0x10000 = 0)) &&
  !s.clustersTaken n t.clusters && !(others.any fun m => windowsMeet t.windows (s.tenant m).windows) &&
  decide (t.quota + (others.map fun m => (s.tenant m).quota).foldl (· + ·) 0 ≤ 32)

/-! ## Tenant commands (R381) -/

/-- The tenant and operation of the command that runs. -/
def tcmdNow (s : State) : Option (Nat × Nat) :=
  if s.fwAlive then s.fw.tcmdBusy.map fun v => (v.toNat % 16, v.toNat / 16 % 16) else none

/-- The command completes with a result. -/
def tcmdDone (s : State) (r : Nat) : State := { s with fw := { s.fw with tcmdBusy := none, tcmdResult := r } }

/-- The cores of a tenant. -/
def coresOf (s : State) (n : Nat) : List Nat := (s.cores.filter fun c => c.2.assigned && c.2.tenant == n).map (·.1)

/-- Finsin writes CAPT and TENANT of the cores of a tenant's clusters (R348). -/
def assign (s : State) (n : Nat) (t : Tenant) : State :=
  (maskCores t.clusters).foldl (fun s k => s.updCore k fun c =>
    { c with capt := t.capt, assigned := true, tenant := n, sv := decide (k = t.supDie * 512 + t.supCore) }) s

end State

namespace State

/-- Finsin writes the entries of a tenant into the guest tables (R307), or takes them out. DESIGN CHOICE, log entry 106. -/
def dropGuestEntries (s : State) (n : Nat) : State :=
  { s with guests := { s.guests with accept := s.guests.accept.filter fun e => e.2.2 != n, out := s.guests.out.filter fun e => e.2 != n } }
def putGuestEntries (s : State) (n : Nat) : State :=
  let s := s.dropGuestEntries n
  { s with guests := { s.guests with
      accept := s.guests.accept ++ (Config.guestAccept n).map fun e => (e.1, e.2, n)
      out := s.guests.out ++ (Config.guestOut n).map fun p => (p, n) } }

end State

/-- ACTIVATE for tenant State.subj. -/
def occActivate (s : State) : Option State :=
  let n := s.subj
  if s.tcmdNow ≠ some (n, 0) then none
  else if (s.tenant n).active then some (s.tcmdDone 2)
  else
    let d := s.tdesc.read (256 * n) 256
    if !s.tenantOk n d then some (s.tcmdDone 1)
    else
      let t := { parseTenant d with active := true }
      some (((((s.updTenant n fun _ => t).assign n t).dropTlb n).putGuestEntries n).tcmdDone 0)

def execActivate (s : State) : Host.Outcome State Fault Refusal := s.happen (occActivate s)

/-- INVALIDATE for tenant State.subj: the result is 0 when every discard is complete. -/
def occInvalidate (s : State) : Option State :=
  let n := s.subj
  if s.tcmdNow ≠ some (n, 4) then none
  else if !(s.tenant n).active then some (s.tcmdDone 2)
  else some ((s.dropTlb n).tcmdDone 0)

def execInvalidate (s : State) : Host.Outcome State Fault Refusal := s.happen (occInvalidate s)

/-! ## Threads come home (R313, R357 step 1) -/

namespace State

/-- The threads of a tenant that are away. -/
def awayOf (s : State) (n : Nat) : List Nat :=
  (s.coresOf n).flatMap fun k => ((List.range 56).map fun i => k * 64 + i).filter fun t => (s.thr t).st == .away

/-- The guests that run as a tenant or stand on its clusters. -/
def guestsOf (s : State) (n : Nat) : List Nat :=
  s.cores.flatMap fun c => ((List.range 7).map fun i => c.1 * 64 + 56 + i).filter fun t =>
    (s.thr t).home.isSome && (s.tenantOf t == n || (c.2.assigned && c.2.tenant == n))

/-- The guests of a tenant that wait in the queue of a die. -/
def queuedGuests (s : State) (n d : Nat) : List MigPacket := (s.die d).mig.filter fun p => s.guestTenant p.home p.tenant == some n

/-- Every guest of a tenant that may go is sent home, and every waiting one. -/
def sendGuestsHome (s : State) (n : Nat) : State :=
  let s := (s.guestsOf n).foldl (fun s t => if s.guestMayGo t then s.expel t else s) s
  (List.range 8).foldl (fun s d => (s.queuedGuests n d).foldl
    (fun s p => (s.updDie d fun e => { e with mig := e.mig.erase p }).goHome p .recall) s) s

/-- Is there a thread of the tenant to recall, or a guest to send home, now? -/
def homeWork (s : State) (n : Nat) : Bool :=
  (s.awayOf n).any (fun t => !(s.thr t).recalled && (s.thr t).awayAt.isSome) || (s.guestsOf n).any s.guestMayGo ||
  (List.range 8).any fun d => s.queuedGuests n d != []

/-- Recall the tenant's threads and send its guests home. -/
def callHome (s : State) (n : Nat) : State := ((s.awayOf n).foldl sendRecall s).sendGuestsHome n

/-- Is no thread of the tenant away and no guest of it here? -/
def allHome (s : State) (n : Nat) : Bool :=
  (s.awayOf n).isEmpty && (s.guestsOf n).isEmpty && (List.range 8).all fun d => s.queuedGuests n d == []

/-! ## Draining (R357 steps 2 and 3) -/

/-- Has a thread nothing left that must complete before it is saved? -/
def threadQuiet (s : State) (t : Nat) : Bool :=
  let h := s.thr t
  h.halting.isNone && h.pend.all (fun m => match m.ready with | some c => decide (c ≤ s.cycOf (t / 64)) | none => true) &&
  (match h.st with
   | .run | .parked => s.atBoundary t
   | _ => true)

/-- Is the head entry of the matrix unit of core k one that cannot be performed before the tenant is saved: it waits for vectors of a channel
that has none for it, or for the other half of a bundle that waits for something without bound? -/
def entryStarved (s : State) (k : Nat) (e : MxEntry) : Bool :=
  e.hold || (match e.op with
    | .mma (.stream q need got) _ _ _ _ _ _ _ _ _ _ =>
      decide (got.length < need) && ((FMap.find? (s.core k).q q).all fun st => match st.desc with
        | .chanIn .. => !s.mayFetch k st && st.fetched == []
        | _ => false)
    | _ => false)

/-- Has the matrix unit performed what it can: its drain is empty, and its queue is empty, or its head is a BROT that waits for a neighbour,
or an entry that waits for what the tenant itself has still to give (R219)? -/
def matrixQuiet (s : State) (k : Nat) : Bool :=
  let x := (s.core k).mx
  x.drain.isEmpty && decide (x.free ≤ s.cycOf k) && !s.mxReady k &&
  (match x.queue with
   | [] => true
   | e :: _ =>
     match e.op with
     | .brot _ => x.moved.isNone
     | _ => s.entryStarved k e)

/-- Is a core of the tenant quiet: its threads, its accesses, its matrix queue, its tiles? -/
def coreQuiet (s : State) (k : Nat) : Bool :=
  let mine := fun (a : Access) => a.core == k && !(a.thr.isSome && a.held.isSome)
  (List.range 64).all (fun i => s.threadQuiet (k * 64 + i)) && !(s.issued.any mine) && !(s.flight.any mine) && s.matrixQuiet k &&
  (s.core k).tiles.slots.all fun t => t.2.landing == []

/-- Is the whole tenant quiet? -/
def drained (s : State) (n : Nat) : Bool := (s.coresOf n).all s.coreQuiet

/-! ## Saving (R299, R357 steps 4 and 5) -/

/-- The wait condition with which a thread is saved: of a grid load, the cycles that it has waited (R272). -/
def savedWait (c : Nat) (h : Thread) : List Wait :=
  match h.wait with
  | [.grid d since] => [.grid d (c - since)]
  | [] => if h.st = .parked then [.again] else []
  | _ => if h.line.isNone then [.line] else [.again]

/-- Does thread t wait for vectors that an entry of the matrix queue takes: both are saved as they stand (R219)? -/
def feedsEntry (s : State) (t : Nat) : Bool :=
  !(s.thr t).unsettled && (s.core (t / 64)).mx.queue.any fun e => e.isOpen (t % 64) && (s.thr t).wait == [.unit e.id]

/-- A thread as it is saved. -/
def saveThread (s : State) (t : Nat) : State :=
  let h := s.thr t
  if s.feedsEntry t then s
  else if h.st = .run ∨ h.st = .parked then
    (s.withdraw t).updThr t fun g => { g with wait := savedWait (s.cycOf (t / 64)) h, pend := [], fetch := none }
  else s.updThr t fun g => { g with pend := [] }

/-- A copy as it is saved: a running one is QUEUED, its offset kept (R299): that of the first byte not written, from which the bytes that
were kept for their words are read again (DEDUCED, log entry 53). -/
def saveCopy (o : CopyOp) : CopyOp :=
  if o.cancel ∨ o.settled then o
  else { o with started := false, await := [], out := [], after := [], kept := [], offset := (o.kept.map (·.ord)).foldl min o.offset }

/-- The copy unit as it is saved. -/
def saveCopies (u : CopyUnit) : CopyUnit :=
  let back := fun (e : CopyStat) =>
    let stops := u.queues.any fun q => q.2.any fun o => o.fence.isNone && o.xid == e.xid && !(o.cancel || o.settled)
    if e.st = .running ∧ stops then { e with st := .queued } else e
  { u with queues := u.queues.map fun q => (q.1, q.2.map saveCopy), table := u.table.map fun e => (e.1, e.2.map back) }

/-- A core that its tenant has left: written to zero and released; its log and its defects stay. DEDUCED, log entry 72. -/
def releasedCore (c : Core) : Core :=
  { Core.reset with vlog := c.vlog, vlogLost := c.vlogLost, defects := { c.defects with regs := [] } }

/-- The place in a tenant's save area of what is saved of its i-th core: an offset in device memory; none where the area is not there.
DESIGN CHOICE, log entry 70. -/
def savePlace (s : State) (n i : Nat) : Option Nat :=
  match s.resolve (s.tenant n).saveArea with
  | .dm a => some (a + 0x200 + 0x200000 * i)
  | _ => none

/-- The full/empty bits of a core as bytes, from that of word 0 on (R108). -/
def fullBytes (c : Core) : List Byte :=
  (List.range (bufSize .ulm / 64)).map fun j =>
    BitVec.ofNat 8 ((List.range 8).foldl (fun n i => if FMap.get false c.full (8 * j + i) then n + 2 ^ i else n) 0)

/-- The shared registers of a core, then HALOTO, FELIM, FRING and FRRD, then its full/empty bits (R357). -/
def coreBytes (s : State) (k : Nat) : List Byte :=
  let c := (s.core k).ageC (s.cycOf k + 7)
  ((List.range 32).flatMap fun i => leBytes 8 (FMap.get 0 c.c i).toNat) ++
    ([0x044, 0x045, 0x046, 0x047].flatMap fun n => leBytes 8 (s.coreCsr k n).toNat) ++ fullBytes c

/-- The same read back. -/
def Core.putBytes (c : Core) (d : List Byte) : Core :=
  let r := fun i => field d (8 * i) 8
  { c with c := (List.range 32).map fun i => (i, BitVec.ofNat 64 (r i)), csets := []
           grid := { c.grid with haloto := r 32 }, felim := r 33
           fringEn := decide (2 ^ 63 ≤ r 34), fringBase := r 34 % 2 ^ 18, fringWr := r 34 / 2 ^ 18 % 128, frrd := r 35
           full := (List.range (bufSize .ulm / 8)).filterMap fun w =>
             if field d (288 + w / 8) 1 / 2 ^ (w % 8) % 2 = 1 then some (w, true) else none }

/-- The bytes of a thread's record. -/
def recordSize (h : Thread) : Nat := 1536 + 2048 * h.vl

/-- What is saved of a core goes to the save area (R357 step 4): its buffers, the registers that it shares, the full/empty bits, its threads'
records, and the rest in a form that the manual does not give. -/
def putSaved (s : State) (k : Nat) : Option Nat → State
  | none => s
  | some a =>
    let c := s.core k
    let m := ((s.dm.blit a c.wb 0 (bufSize .wb)).blit (a + 0x40000) c.ab 0 (bufSize .ab)).blit (a + 0x70000) c.ulm 0 (bufSize .ulm)
    let recs := c.threads.map fun (h : Nat × Thread) => s.threadRecord (k * 64 + h.1)
    { s with dm := ((m.write (a + 0x98000) (s.coreBytes k)).write (a + 0xA0000) recs.flatten).write (a + 0x100000)
               ((Config.saveImage s.freeCount).take 0x100000)
             freeCount := s.freeCount + 1 }

/-- A core as its save area holds it: its buffers and the registers that it shares. -/
def Core.getSaved (c : Core) (dm : Mem) : Option Nat → Core
  | none => c
  | some a =>
    Core.putBytes { c with wb := Mem.empty.blit 0 dm a (bufSize .wb), ab := Mem.empty.blit 0 dm (a + 0x40000) (bufSize .ab)
                           ulm := Mem.empty.blit 0 dm (a + 0x70000) (bufSize .ulm) }
      (dm.read (a + 0x98000) (288 + bufSize .ulm / 64))

/-- The threads of core k take their registers back from the records in the save area. -/
def getRecords (s : State) (k : Nat) : Option Nat → State
  | none => s
  | some a =>
    ((s.core k).threads.foldl (fun (x : State × Nat) h =>
      let n := recordSize h.2
      (x.1.putRecord (k * 64 + h.1) (x.1.dm.read x.2 n), x.2 + n)) (s, a + 0xA0000)).1

/-- Save a tenant's core, with its place in the save area, and release it. -/
def saveCore (s : State) (k : Nat) (a : Option Nat) : Core × State :=
  let s := (List.range 64).foldl (fun s i => if (FMap.find? (s.core k).threads i).isSome then s.saveThread (k * 64 + i) else s) s
  let s := (s.core k).copy.queues.foldl (fun s (q : Nat × List CopyOp) => q.2.foldl dropAnswers s) s
  let s := s.putSaved k a
  let c := s.core k
  ({ c with copy := saveCopies c.copy, utlb := [] }, s.setCore k (releasedCore c))

/-- Step 4 and step 5: the cores and the strips held for them are saved, and the clusters released. -/
def saveTenant (s : State) (n : Nat) : State :=
  let held := s.heldStrips.filter fun p => p.tenant == n
  let (saved, s) := (s.coresOf n).foldl (fun (x : FMap Core × State) k =>
    let (c, s) := x.2.saveCore k (x.2.savePlace n x.1.length)
    (FMap.set x.1 k c, s)) ([], s)
  ({ s with saved := s.saved ++ [{ tenant := n, cores := saved, strips := held }]
            heldStrips := s.heldStrips.filter fun p => p.tenant != n } : State).updTenant n fun t => { t with preempted := true, stopping := 0 }

/-- Has something asked for the tenant's pre-emption: a command, RETENTION, or the eviction handshake? -/
def preemptAsked (s : State) (n : Nat) : Bool := s.tcmdNow == some (n, 1) || s.plat.changing || s.plat.evict == .draining

/-- What PREEMPT does next for a tenant: 1 it begins, 2 threads are called home, 3 issue stops, 4 the tenant is saved; 0 nothing now. -/
def preemptStep (s : State) (n : Nat) : Nat :=
  let t := s.tenant n
  if !s.fwAlive ∨ !s.preemptAsked n ∨ !t.active ∨ t.preempted then 0
  else if t.stopping = 0 then 1
  else if t.stopping = 1 then (if s.homeWork n then 2 else if s.allHome n then 3 else 0)
  else if s.drained n then 4
  else 0

/-- A SETPOWER RETENTION is complete when every tenant is pre-empted: ports go down, cores stop (R390). -/
def enterRetention (s : State) : State :=
  if s.plat.changing ∧ (List.range 16).all fun m => !(s.tenant m).active || (s.tenant m).preempted then
    let down : State := { s with
      ports := s.ports.map fun (p : Nat × Port) => (p.1, if p.2.st = PortState.spare then p.2 else { p.2 with st := PortState.down }) }
    let s' := (down.tracePorts s).trace (.power none 2)
    { s' with plat := { s'.plat with power := .retention, changing := false } }.addOut (.reply 0 [])
  else s

end State

/-- PREEMPT for tenant State.subj: its next step (R357). -/
def occPreempt (s : State) : Option State :=
  let n := s.subj
  let t := s.tenant n
  if s.tcmdNow = some (n, 1) ∧ (!t.active ∨ t.preempted) then some (s.tcmdDone 2)
  else
    match s.preemptStep n with
    | 1 => some ((s.updTenant n fun t => { t with stopping := 1, byEvict := s.plat.evict == .draining }).callHome n)
    | 2 => some (s.callHome n)
    | 3 => some (s.updTenant n fun t => { t with stopping := 2 })
    | 4 =>
      let s' := s.saveTenant n
      some (if s.tcmdNow = some (n, 1) then s'.tcmdDone 0 else s').enterRetention
    | _ => none

def execPreempt (s : State) : Host.Outcome State Fault Refusal := s.happen (occPreempt s)

/-! ## Restoration (R88, R357, R381) -/

namespace State

/-- A thread as it is restored: it fetches its line, or issues its bundle again, its wait condition re-armed.
DEDUCED, log entry 71. -/
def restoreThread (s : State) (t : Nat) : State :=
  let h := s.thr t
  match h.wait with
  | [.grid d w] => s.updThr t fun h => { h with wait := [.grid d (s.cycOf (t / 64) - w)] }
  | [.line] => s.enterLine t h.pc
  | [.again] => if h.grole = 2 ∧ h.issue.isSome then s else s.updThr t fun h => { h with st := .run, wait := [], issue := none }
  | _ => s

/-- Put a saved tenant's cores and strips back. -/
def restoreTenant (s : State) (n : Nat) : State :=
  match s.saved.find? fun x => x.tenant == n with
  | none => s
  | some x =>
    let at' := fun (i : Nat) => s.savePlace n i
    let s := (x.cores.foldl (fun (y : State × Nat) c =>
      let (s, i) := y
      let back := Core.getSaved c.2 s.dm (at' i)
      let s := (s.setCore c.1 { back with vlog := (s.core c.1).vlog, vlogLost := (s.core c.1).vlogLost, defects := (s.core c.1).defects }).getRecords c.1 (at' i)
      ((c.2.threads.map (·.1)).foldl (fun s i => s.restoreThread (c.1 * 64 + i)) s, i + 1)) (s, 0)).1
    let s : State := { s with saved := s.saved.filter (fun y => y.tenant != n), heldStrips := x.strips ++ s.heldStrips }
    let s := (x.cores.map (·.1)).foldl offerHeld s
    s.updTenant n fun t => { t with preempted := false, byEvict := false }

/-- What a tenant learns of an eviction from the first 8 bytes of its save area (R395). -/
def putOutcome (s : State) (n code : Nat) : State := s.putPhys (s.tenant n).saveArea (leBytes 8 code)

/-- Does the source side restore this tenant after a failed eviction (R395)? -/
def restoresHere (s : State) (n : Nat) : Bool :=
  (s.plat.evict == .failed || s.plat.evict == .normal) && (s.tenant n).byEvict && (s.tenant n).preempted

/-- The tenants that crossed from a source and are not confirmed. -/
def crossedFrom (s : State) (source : Nat) : List Nat := (List.range 16).filter fun n => (s.tenant n).movedFrom == some source

/-- A tenant that crossed is restored: it learns that it was evicted, and with the last one the move is confirmed (R395). -/
def restoredHere (s : State) (n : Nat) : State :=
  match (s.tenant n).movedFrom with
  | none => s
  | some source =>
    let s := s.putOutcome n 1
    if (s.crossedFrom source).any fun m => (s.tenant m).preempted then s
    else ((s.crossedFrom source).foldl (fun s m => s.updTenant m fun t => { t with movedFrom := none }) s).addOut (.moveConfirmed source)

/-- Can a message that has come to its unit be written where it is for? One that the unit holds, for want of a registration or of room,
counts as held by its sender (R270, R323). -/
def canTake (s : State) (i : NetItem) : Bool :=
  let s : State := { s with subj := i.id }
  match i.msg with
  | .strip _ => (occStripArrival s).isSome
  | .cmsg _ => (occMessageArrival s).isSome
  | .raw _ => (occRawMessageArrival s).isSome
  | .contribution _ => (occContributionExamine s).isSome
  | _ => false

/-- Is the horizon of acceptance number n reached: every packet of another package accepted up to it is performed (R148)? -/
def horizonReached (s : State) (n : Nat) : Bool :=
  s.accessesDone n && !(s.net.any fun i => i.ingress.any (fun x => decide (x.2 ≤ n)) && s.canTake i)

/-- May a restoration go on: the cores run, and every packet accepted is performed, as its acquire at system scope asks? -/
def mayRestore (s : State) : Bool := s.plat.power == .active && s.horizonReached s.ingressSeq

end State

/-- RESTORE for tenant State.subj, by command, or after an eviction that failed on the source side. DEDUCED, log entry 86. -/
def occRestore (s : State) : Option State :=
  let n := s.subj
  let t := s.tenant n
  let asked := s.tcmdNow = some (n, 2)
  if asked ∧ (!t.active ∨ !t.preempted) then some (s.tcmdDone 2)
  else if asked ∧ s.clustersTaken n t.clusters then some (s.tcmdDone 1)
  else if !s.mayRestore ∨ !s.fwAlive then none
  else if asked then some ((s.restoreTenant n).tcmdDone 0)
  else if s.restoresHere n then some ((s.restoreTenant n).restoredHere n)
  else none

def execRestore (s : State) : Host.Outcome State Fault Refusal := s.happen (occRestore s)

/-! ## Destruction (R381, R386, R400) -/

namespace State

/-- ATTESTED becomes SECURE with the last attested tenant (R386). -/
def settleSecurity (s : State) : State :=
  if s.plat.security = .attested ∧ !(List.range 16).any fun m => (s.tenant m).attestKey.isSome then
    { s with plat := { s.plat with security := .secure } }
  else s

/-- Send home the guests that run as a tenant, as they stand (DEDUCED, log entry 31). -/
def dropGuests (s : State) (n : Nat) : State :=
  let out := fun (s : State) (t : Nat) =>
    let p := s.guestPacket t
    ({ s with flight := s.flight.filter (fun a => !(a.thr == some t && a.held.isSome))
              issued := s.issued.filter fun a => a.thr != some t
              ops := s.ops.filter fun o => o.thr != t } : State).setThr t (Thread.reset (t % 64)) |>.goHome p .recall
  ((s.guestsOf n).foldl out s).sendGuestsHome n

/-- The tenant's work leaves every unit of the package. -/
def dropWork (s : State) (n : Nat) (cores : List Nat) : State :=
  let mine := fun (a : Access) => cores.contains a.core
  let thr := fun (t : Nat) => cores.contains (t / 64)
  let writes := fun (a : Access) => !a.place.isRemote && (match a.kind with | .load _ => false | _ => true)
  { s with
    issued := s.issued.filter fun a => !mine a
    flight := s.flight.filter fun a => !(mine a && a.held.isSome) && !(writes a && a.back.isNone && (mine a || a.tenant == n))
    ops := s.ops.filter fun o => !thr o.thr
    heldStrips := s.heldStrips.filter fun p => p.tenant != n
    saved := s.saved.filter fun x => x.tenant != n
    dies := s.dies.map fun (d : Nat × Die) => (d.1, { d.2 with
      disp := d.2.disp.map fun q => (q.1, q.2.filter fun i => i.tenant != n)
      starts := d.2.starts.filter fun x => !thr x.thread
      walker := d.2.walker.filter fun x => x.tenant != n
      pipes := d.2.pipes.filter fun p => p.tenant != n
      copyNodes := d.2.copyNodes.filter (fun x => x.tenant != n)
      copyDone := d.2.copyDone.filter fun x => x.tenant != n })
    fw := { s.fw with
      waits := s.fw.waits.filter fun x => x.tenant != n
      retiring := s.fw.retiring.filter fun x => x.tenant != n
      harts := s.fw.harts.map fun (h : Nat × Hart) =>
        (h.1, { h.2 with waitNode := h.2.waitNode.filter fun (w : Nat × Nat × Watch) => w.1 != n }) } }

/-- The accepted stores of other packages to a tenant's memory that are not performed are acknowledged without effect. -/
def dropFarStores (s : State) (n : Nat) : State :=
  (s.flight.filter fun a => a.tenant == n && a.back.isSome && a.unchecked.isNone && a.ans.isNone && (match a.kind with
    | .store _ | .masked _ => true
    | _ => false)).foldl farStoreDone s

/-- Destroy a tenant: what it has in flight towards this package's memory is dropped, its clusters are zeroed and its registrations withdrawn.
DEDUCED, log entry 31. -/
def destroyTenant (s : State) (n : Nat) : State :=
  let cores := s.coresOf n
  let s := ((s.dropGuests n).dropWork n cores).dropFarStores n
  let s := cores.foldl (fun s k => s.updCore k releasedCore) s
  (((s.dropTlb n).dropGuestEntries n).updTenant n fun _ => Tenant.reset).settleSecurity

/-- Zero the device memory of physical windows of this package (R387, R391, R395). -/
def zeroWindows (s : State) (windows : List (Nat × Nat)) : State :=
  let inW := fun (a : Nat) => windows.any fun w => decide (w.1 ≤ s.pkg * 2 ^ 48 + a) && decide (s.pkg * 2 ^ 48 + a < w.2)
  { s with dm := { cells := s.dm.cells.filter (fun c => !inW c.1), bad := s.dm.bad.filter fun e => !inW (8 * e.1) } }

end State

/-- DESTROY for tenant State.subj. -/
def occDestroy (s : State) : Option State :=
  let n := s.subj
  if s.tcmdNow ≠ some (n, 3) then none
  else if !(s.tenant n).active then some (s.tcmdDone 2)
  else some ((s.destroyTenant n).tcmdDone 0)

def execDestroy (s : State) : Host.Outcome State Fault Refusal := s.happen (occDestroy s)

end Sys2Proof.Machine
end

