-- ==== Sys2Proof/Machine/Neighbour.lean ====
section
/-! DEFINITION. A package as the neighbour of one that is evicted (R395): whether it has room, and what it makes of the tenants that cross:
their windows, node tables, save areas and queues on its own memory, their translation trees rebuilt there, and each restored into its own
clusters. Where Finsin puts them is DESIGN CHOICE, log entry 33. -/

namespace Sys2Proof

/-- What the save area's image of a core means (R357): the core, beside what the save area holds in a form that the manual gives, and the strips
held for it. The form is the part's: free values. DESIGN CHOICE, log entry 70. -/
opaque Config.imageCore : List (BitVec 8) → Option (Machine.Core × List Strip)

namespace Machine

/-! ## Pages of device memory -/

/-- The size of the smallest page, in which memory is given out. -/
def pageSize : Nat := 0x10000

/-- The pages that address ranges meet, as numbers. -/
def pagesMet (rs : List (Nat × Nat)) : List Nat :=
  (rs.flatMap fun r => (List.range ((r.2 + pageSize - 1) / pageSize - r.1 / pageSize)).map (r.1 / pageSize + ·)).eraseDups

/-- The save area of a tenant: what it tells the tenant of an eviction, and the image of each core (R357, R395). -/
def saveSize (t : Tenant) : Nat := 0x200 + 0x200000 * (maskCores t.clusters).length

/-- The ranges of a tenant's memory that Finsin places as they stand: its node table and its save area. -/
def wholeRanges (t : Tenant) : List (Nat × Nat) :=
  [(t.nodeBase, t.nodeBase + 64 * t.nodeLen), (t.saveArea, t.saveArea + saveSize t)]

/-- The pages of device memory of package p that hold a tenant's windows, node table and save area. -/
def pagesOf (p : Nat) (t : Tenant) : List Nat :=
  (pagesMet (t.windows ++ wholeRanges t)).filter fun n =>
    decide (n * pageSize / 2 ^ 48 = p) && match shapeOf (n * pageSize) with | .dm _ => true | _ => false

/-! ## Translation trees (R117, R118) -/

/-- The pointers and leaves of the tables of one level, each table with the virtual address of its first entry: virtual address, size of the
page or 0, and entry. -/
def levelEntries (m : Mem) (sh bits page next : Nat) (ts : List (Nat × Nat)) : List (Nat × Nat × Nat) :=
  (ts.flatMap fun t => (List.range (2 ^ bits)).map fun i => (t.1 + i * 2 ^ sh, m.nat (t.2 + 8 * i) 8)).filterMap fun x =>
    if x.2 % 2 = 0 then none
    else if x.2 / 2 % 2 = 1 then (if page = 0 then none else some (x.1, page, x.2))
    else if next = 0 then none
    else some (x.1, 0, x.2)

/-- The physical address of an entry. -/
def entryAddr (e : Nat) : Nat := e / 256 % 2 ^ 48 * 256

/-- The tables of a tree from one level on, as address and size. -/
def treeTables (m : Mem) : List (Nat × Nat × Nat × Nat) → List (Nat × Nat) → List (Nat × Nat)
  | [], _ => []
  | (sh, bits, page, next) :: r, ts =>
    ts.map (fun t => (t.2, t.2 + 8 * 2 ^ bits)) ++
      treeTables m r ((levelEntries m sh bits page next ts).filterMap fun x => if x.2.1 = 0 then some (x.1, entryAddr x.2.2) else none)

/-- The leaves of a tree from one level on: virtual address, size and entry. -/
def treeLeaves (m : Mem) : List (Nat × Nat × Nat × Nat) → List (Nat × Nat) → List (Nat × Nat × Nat)
  | [], _ => []
  | (sh, bits, page, next) :: r, ts =>
    let es := levelEntries m sh bits page next ts
    es.filter (fun x => x.2.1 != 0) ++ treeLeaves m r (es.filterMap fun x => if x.2.1 = 0 then some (x.1, entryAddr x.2.2) else none)

/-- Enter a page into a tree below a table, tables being taken from free pages; addresses are within the package p. -/
def mapPage (p va entry : Nat) : List (Nat × Nat × Nat × Nat) → Nat → Mem × List Nat → Mem × List Nat
  | [], _, x => x
  | (sh, bits, _, next) :: r, t, (m, free) =>
    let slot := t + 8 * (va / 2 ^ sh % 2 ^ bits)
    if next = 0 then (m.write slot (leBytes 8 entry), free)
    else if m.nat slot 8 % 2 = 1 then mapPage p va entry r (entryAddr (m.nat slot 8) % 2 ^ 48) (m, free)
    else
      match free with
      | [] => (m, [])
      | n :: free =>
        let t' := n * pageSize
        mapPage p va entry r t' ((m.clear t' pageSize).write slot (leBytes 8 (p * 2 ^ 48 + t' + 1)), free)

namespace State

/-! ## Room -/

/-- The global address of a byte of this package's device memory. -/
def globalOf (s : State) (a : Nat) : Nat := s.pkg * 2 ^ 48 + a

/-- Device memory by global address, as a tree's entries name it. -/
def globalMem (s : State) : Mem := { cells := s.dm.cells.map fun c => (s.globalOf c.1, c.2), bad := [] }

/-- The pages of this package that a tenant's tree stands in. -/
def treePages (s : State) (t : Tenant) : List Nat := pagesMet (treeTables s.globalMem levels [(0, t.root)])

/-- The activated tenants. -/
def activeTenants (s : State) : List Nat := (List.range 16).filter fun n => (s.tenant n).active

/-- The first k pages that are not used, of n pages from p on. -/
def unusedFrom (used : List Nat) : Nat → Nat → Nat → List Nat
  | 0, _, _ | _, 0, _ => []
  | n + 1, k + 1, p => if used.contains p then unusedFrom used n (k + 1) (p + 1) else p :: unusedFrom used n k (p + 1)

/-- The first k pages of device memory, within the package, that hold nothing of an activated tenant and no control block. -/
def freePages (s : State) (k : Nat) : List Nat :=
  let used := (s.activeTenants.flatMap fun n => pagesOf s.pkg (s.tenant n) ++ s.treePages (s.tenant n)) ++
    pagesMet [(s.fw.qcbBase, s.fw.qcbBase + 0x40000)]
  ((List.range 8).foldl (fun l d => l ++ unusedFrom used (dmSize / pageSize) (k - l.length) (s.pkg * 2 ^ 32 + d * 2 ^ 29)) []).map
    (· - s.pkg * 2 ^ 32)

/-- The clusters that no activated tenant holds, as die * 32 + cluster. -/
def freeClusters (s : State) : List Nat :=
  (List.range 256).filter fun c => s.activeTenants.all fun n => !(((s.tenant n).clusters[c / 32]?).getD 0).getLsbD (c % 32)

/-- Has the package free clusters, quota and memory for tenants that need so much of each (R395), and numbers for them? -/
def roomFor (s : State) (ts : List (Nat × Nat × Nat)) : Bool :=
  let sum := fun (f : Nat × Nat × Nat → Nat) => (ts.map f).foldl (· + ·) 0
  let pages := sum fun t => (t.2.2 + pageSize - 1) / pageSize
  decide (sum (·.1) ≤ s.freeClusters.length) &&
  decide (sum (·.2.1) + (s.activeTenants.map fun n => (s.tenant n).quota).foldl (· + ·) 0 ≤ 32) &&
  decide ((s.freePages pages).length = pages) && decide (ts.length + s.activeTenants.length ≤ 16)

/-! ## What crosses -/

/-- A tenant's descriptor, as it stands (R380). -/
def descOf (t : Tenant) : List Byte :=
  leBytes 8 t.root ++ leBytes 8 t.nodeBase ++ leBytes 4 t.nodeLen ++ leBytes 1 t.supDie ++ leBytes 2 t.supCore ++ leBytes 1 t.quota ++
  leBytes 8 t.capt.toNat ++ (t.clusters.flatMap fun c => leBytes 4 c.toNat) ++
  slice (t.windows.flatMap fun w => leBytes 8 w.1 ++ leBytes 8 w.2) 0 128 ++ leBytes 8 t.saveArea ++ List.replicate 56 0

/-- What crosses for a tenant: its descriptor, the bytes of its memory and of its tree that are not 0, and its queues' control blocks. -/
def crossing (s : State) (n : Nat) : EvictTenant :=
  let t := s.tenant n
  let ps := pagesOf s.pkg t ++ s.treePages t
  { desc := descOf t
    dm := (s.dm.cells.map fun c => (s.globalOf c.1, c.2)).filter fun c => ps.contains (c.1 / pageSize)
    queues := (s.fw.queues.filter fun q => q.2.st != .disabled && q.2.tenant == n).map fun q => (q.1, s.readMem (s.resolve (s.qcb q.1 0)) 64) }

/-- What a neighbour is asked for: of each tenant its clusters, its quota and its bytes of memory. -/
def needs (s : State) : List (Nat × Nat × Nat) :=
  s.activeTenants.map fun n =>
    let t := s.tenant n
    ((maskCores t.clusters).length / 16, t.quota, pageSize * (pagesOf s.pkg t).length)

/-! ## Taking a tenant in -/

/-- Where an address lies after the move: its page may have been given another. -/
def movedTo (s : State) (ps : List (Nat × Nat)) (g : Nat) : Nat :=
  match ps.find? fun x => x.1 == g / pageSize with
  | some x => s.globalOf (x.2 * pageSize + g % pageSize)
  | none => g

/-- Do the pages of a range that is placed whole follow each other after the move? -/
def staysWhole (s : State) (ps : List (Nat × Nat)) (r : Nat × Nat) : Bool :=
  decide (r.2 ≤ r.1) || decide (s.movedTo ps (r.2 - 1) + r.1 = s.movedTo ps r.1 + (r.2 - 1))

/-- The windows over pages, each page joined to the window that it follows. -/
def joinWindows (l : List Nat) : List (Nat × Nat) :=
  l.foldr (fun p acc => match acc with
    | w :: r => if p + pageSize = w.1 then (p, w.2) :: r else (p, p + pageSize) :: acc
    | [] => [(p, p + pageSize)]) []

/-- The clusters for those of a tenant: the same ones where all are free, else the lowest free ones; both in rising order. -/
def newClusters (s : State) (old : List Nat) : List Nat :=
  if old.all s.freeClusters.contains then old else s.freeClusters.take old.length

def maskClusters (masks : List (BitVec 32)) : List Nat :=
  (List.range 256).filter fun c => ((masks[c / 32]?).getD 0).getLsbD (c % 32)

def clusterMasks (l : List Nat) : List (BitVec 32) :=
  (List.range 8).map fun d => BitVec.ofNat 32 ((l.filter fun c => c / 32 == d).foldl (fun n c => n + 2 ^ (c % 32)) 0)

/-- The core that stands for core k of a tenant, of whose clusters the i-th becomes new[i]. -/
def newCore (old new : List Nat) (k : Nat) : Nat := (new[old.findIdx (· == k / 16)]?).getD 0 * 16 + k % 16

/-- A queue that crosses takes its own number where that is free, else the lowest free one; its block says where it stands, and one that was
mapped is PENDING (R375). -/
def takeQueue (s : State) (n : Nat) (q : Nat × List Byte) : State :=
  let free := fun (i : Nat) => (s.queue i).st == .disabled
  match if free q.1 then some q.1 else firstBelow 4096 free with
  | none => s
  | some i =>
    let b := splice q.2 6 (leBytes 1 (0x80 + n))
    match s.parseBlock b with
    | none => s
    | some x =>
      let s := (s.updQueue i fun _ => { x with tail := field b 8 4, head := field b 12 4, taken := field b 16 4 }).putPhys (s.qcb i 0) b
      match field b 7 1 with
      | 1 => s.setQState i .idle
      | 2 | 3 => (s.setQState i .idle).pendQueue i
      | _ => s.setQState i .broken

/-- Take a tenant in: its memory and its tree on this package's own, its record pre-empted, and its saved cores; it is still to be restored.
None where there is no room for it. -/
def takeTenant (s : State) (source : Nat) (x : EvictTenant) : Option State :=
  let t := parseTenant x.desc
  let old := maskClusters t.clusters
  let new := s.newClusters old
  let pages := pagesOf source t
  let src : Mem := x.dm.foldl (fun m c => m.write c.1 [c.2]) Mem.empty
  let spans := (treeLeaves src levels [(0, t.root)]).flatMap fun l => (List.range (l.2.1 / pageSize)).map fun j =>
    (l.1 + j * pageSize, entryAddr l.2.2 + j * pageSize, l.2.2 % 256)
  let free := s.freePages (pages.length + 2 + levels.length * spans.length)
  let ps := pages.zip free
  let moved := s.movedTo ps
  match firstBelow 16 (fun n => !(s.tenant n).active), free.drop pages.length with
  | some n, root :: rest =>
    if new.length < old.length ∨ ps.length < pages.length ∨ !(wholeRanges t).all (s.staysWhole ps) then none
    else
      let dm := ps.foldl (fun m p => m.clear (p.2 * pageSize) pageSize) s.dm
      let dm := x.dm.foldl (fun m c => if pages.contains (c.1 / pageSize) then m.write (moved c.1 % 2 ^ 48) [c.2] else m) dm
      let (dm, left) := spans.foldl (fun y l => mapPage s.pkg l.1 (moved l.2.1 + l.2.2) levels (root * pageSize) y)
        (dm.clear (root * pageSize) pageSize, rest)
      if left = [] then none
      else
        let sup := newCore old new (t.supDie * 512 + t.supCore)
        let t' := { t with
          active := true, preempted := true, byEvict := true, movedFrom := some source, root := s.globalOf (root * pageSize)
          nodeBase := moved t.nodeBase, saveArea := moved t.saveArea, supDie := sup / 512, supCore := sup % 512, clusters := clusterMasks new
          windows := joinWindows (((pagesMet t.windows).map fun p => moved (p * pageSize))) }
        let s := ({ s with dm := dm }.updTenant n fun _ => t').putGuestEntries n
        let images := ((List.range (maskCores t.clusters).length).zip (maskCores t.clusters)).map fun k =>
          (newCore old new k.2, ((s.savePlace n k.1).bind fun a => Config.imageCore (s.dm.read (a + 0x100000) 0x100000)).getD (Core.reset, []))
        let cores := images.map fun c =>
          (c.1, { c.2.1 with assigned := true, tenant := n, capt := t.capt, sv := decide (c.1 = sup), ulm := Mem.empty, wb := Mem.empty, ab := Mem.empty })
        let s : State := { s with saved := s.saved ++ [{ tenant := n, cores := cores, strips := images.flatMap fun c => c.2.2 }] }
        some (x.queues.foldl (takeQueue · n) s)
  | _, _ => none

/-- Take all tenants of a source in; none where there is no room for one. -/
def takeTenants (s : State) (source : Nat) : List EvictTenant → Option State
  | [] => some s
  | x :: r => (s.takeTenant source x).bind fun s => s.takeTenants source r

/-- The source fails before the confirmation: what has crossed from it is discarded (R395). -/
def discardCrossed (s : State) (source : Nat) : State :=
  (s.crossedFrom source).foldl (fun s n => (s.destroyTenant n).zeroWindows (s.tenant n).windows) s

end State

end Machine

end Sys2Proof
end

