-- ==== Sys2Proof/Machine/Platform.lean ====
section
/-! DEFINITION. The security processor (R385 to R397) and the presence map (R403): states, debug, attestation, power, the identity
store, firmware images, management messages, and the eviction handshake. Results of management messages are answered as
0 DONE, 1 BUSY, 2 STATE, 3 BADSIG, 4 REFUSED. -/

namespace Sys2Proof.Machine

open Sys2Proof

namespace State

def updPlat (s : State) (f : Platform → Platform) : State := { s with plat := f s.plat }

/-- Answer a management message. DESIGN CHOICE, log entry 88. -/
def reply (s : State) (code : Nat) (d : List Byte := []) : State := s.addOut (.reply code d)

/-- A management message reaches a package whose rails are up; an unpowered one answers nothing (R385). -/
def manage (s : State) (k : State → State) : Host.Outcome State Fault Refusal := .next (if s.powered then k s else s)

end State

/-! ## Identity (R392) -/

/-- The byte of the identity store at an offset below 160. -/
def identityField (o : Nat) : Byte :=
  match o with
  | 0 => 1
  | 1 => 0
  | 2 => 0x00
  | 3 => 0x02
  | 20 => 0x5A
  | 21 => 0x56
  | 22 => 0x39
  | 23 => 0x2D
  | 24 => 0x4D
  | 25 => 0x20
  | 26 => 0x20
  | 27 => 0x20
  | 31 => 0
  | _ => Config.identityByte o

/-- The byte of the identity store at an offset: SIG is Oprid's signature over SM3 of bytes 0 to 159. -/
def identity (o : Nat) : Byte :=
  if 224 ≤ o then 0xFF
  else if 160 ≤ o then ((Config.opridSign (Config.sm3 ((List.range 160).map identityField)))[o - 160]?).getD 0
  else identityField o

/-- The serial number. -/
def serial : List Byte := (List.range 16).map fun i => identity (4 + i)

/-- IDENTITY_STORE_READ: the store answers on standby power, whatever the state of the package. -/
def execIdentityStoreRead (off : Nat) (s : State) : Host.Outcome State Fault Refusal :=
  .next (s.reply 0 (if off < 512 then [identity off] else []))
def execIdread (s : State) : Host.Outcome State Fault Refusal := s.manage fun s => s.reply 0 ((List.range 512).map identity)
/-- IDCHAL: a signature with the identity private key; none where its working copy has been zeroed (R391, R395; DESIGN CHOICE, log entry 88). -/
def execIdchal (chal : List Byte) (s : State) : Host.Outcome State Fault Refusal :=
  s.manage fun s => if s.plat.idKey then s.reply 0 (Config.sm2Sign (Config.sm3 (chal ++ serial))) else s.reply 2

/-! ## Firmware images (R393) -/

/-- Does the security processor accept an image: its signature checks and its version is not below the fused minimum? -/
def imageOk (min' : Nat) (i : FwImage) : Bool :=
  Config.sm2Verify Config.imageKey (Config.sm3 (leBytes 8 i.version ++ i.body)) i.signature && decide (min' ≤ i.version)

def execPldmFirmwareUpdate (image : FwImage) (s : State) : Host.Outcome State Fault Refusal :=
  s.manage fun s =>
    if imageOk s.plat.minVersion image then (s.updPlat fun p => { p with image := some image }).reply 0 else s.reply 3

/-- ACCEPTMIN raises the fused minimum; it never falls. DEDUCED, log entry 92. -/
def execAcceptmin (version : Nat) (s : State) : Host.Outcome State Fault Refusal :=
  s.manage fun s => (s.updPlat fun p => { p with minVersion := max p.minVersion version }).reply 0

/-! ## Reading states (R394) -/

def securityCode : Security → Nat
  | .open => 0
  | .secure => 1
  | .attested => 2
def debugCode : DebugState → Nat
  | .off => 0
  | .observe => 1
  | .control => 2
def evictCode : Evict → Nat
  | .normal => 0
  | .evictReq => 1
  | .draining => 2
  | .moving => 3
  | .routesDrained => 4
  | .safe => 5
  | .failed => 6

namespace State

/-- Power as it is read: IDLE where the clocks of every die are gated. -/
def powerCode (s : State) : Nat :=
  match s.plat.power with
  | .active => if (List.range 8).all fun d => (s.die d).gated then 1 else 0
  | .retention => 2
  | .off => 3

/-- The security, debug and power states. -/
def stateBytes (s : State) : List Byte :=
  [BitVec.ofNat 8 (securityCode s.plat.security), BitVec.ofNat 8 (debugCode s.plat.debug), BitVec.ofNat 8 s.powerCode]

/-- The eviction state, with the side that holds the tenants of a failed one. -/
def evictBytes (s : State) : List Byte :=
  [BitVec.ofNat 8 (evictCode s.plat.evict), if s.plat.neighbourSide then 1 else 0]

end State

def execGetstate (s : State) : Host.Outcome State Fault Refusal := s.manage fun s => s.reply 0 (s.stateBytes ++ s.evictBytes)
def execEvstat (s : State) : Host.Outcome State Fault Refusal := s.manage fun s => s.reply 0 s.evictBytes

/-- PLDM_MONITOR: die temperatures and rail power, which the spec leaves to the part, and the three state variables. -/
def execPldmMonitor (s : State) : Host.Outcome State Fault Refusal :=
  s.manage fun s =>
    ({ s with freeCount := s.freeCount + 1 } : State).reply 0
      (((List.range 16).flatMap fun i => leBytes 8 (Config.sensor s.freeCount i).toNat) ++ s.stateBytes)

/-! ## Security and debug (R385 to R389) -/

def execProvision (s : State) : Host.Outcome State Fault Refusal :=
  s.manage fun s =>
    if s.plat.security = .open then (s.updPlat fun p => { p with security := .secure }).reply 0 else s.reply 2

/-- DEBUGCHAL: a challenge of 16 bytes, which one authorisation may use. -/
def execDebugchal (s : State) : Host.Outcome State Fault Refusal :=
  s.manage fun s =>
    let c := Config.challenge s.plat.issued
    (s.updPlat fun p => { p with issued := p.issued + 1, challenges := p.challenges ++ [c] }).reply 0 c

namespace State

/-- The digest that a debug authorisation signs (R387). -/
def authDigest (target : DebugState) (mask : BitVec 16) (chal : List Byte) : List Byte :=
  Config.sm3 (serial ++ chal ++ [BitVec.ofNat 8 (debugCode target)] ++ leBytes 2 mask.toNat)

/-- The tenants in attested execution. -/
def attested (s : State) : List Nat := (List.range 16).filter fun n => (s.tenant n).attestKey.isSome

/-- Is control authorised: by the debug key, with a challenge not used before, and by each attested tenant? -/
def authorised (s : State) (mask : BitVec 16) (chal sig : List Byte) (sigs : List (Nat × List Byte)) : Bool :=
  s.plat.challenges.contains chal && Config.sm2Verify Config.debugKey (authDigest .control mask chal) sig &&
  s.attested.all fun n =>
    match (s.tenant n).attestKey, sigs.find? fun x => x.1 == n with
    | some k, some x => Config.sm2Verify k (authDigest .control mask chal) x.2
    | _, _ => false

/-- Is an eviction past its request: from DRAINING to SAFE (R397)? -/
def evictUnderWay (s : State) : Bool :=
  match s.plat.evict with
  | .draining | .moving | .routesDrained | .safe => true
  | _ => false

/-- The attested tenants are destroyed, as DESTROY does, and the device memory of their windows is zeroed then (R387). -/
def destroyAttested (s : State) : State := s.attested.foldl (fun s n => (s.destroyTenant n).zeroWindows (s.tenant n).windows) s

end State

/-- DEBUGAUTH: OFF and OBSERVE need no authorisation; CONTROL needs none in OPEN, a signature in SECURE, and those of the attested
tenants in ATTESTED, which are then destroyed (R387). -/
def execDebugauth (target : DebugState) (tenantMask : BitVec 16) (chal : List Byte) (signature : List Byte)
    (tenantSigs : List (Nat × List Byte)) (s : State) : Host.Outcome State Fault Refusal :=
  s.manage fun s =>
    match target with
    | .control =>
      if s.evictUnderWay then s.reply 2
      else if s.plat.security = .open then (s.updPlat fun p => { p with debug := .control, debugMask := tenantMask }).reply 0
      else if !s.authorised tenantMask chal signature tenantSigs then s.reply 3
      else
        (s.destroyAttested.updPlat fun p =>
          { p with debug := .control, debugMask := tenantMask, challenges := p.challenges.erase chal }).reply 0
    | t => (s.updPlat fun p => { p with debug := t }).reply 0

/-- ATTEST: a tenant enters attested execution and the security processor answers with a signed report over the running image, the tenant's
descriptor and the challenge (R388). -/
def execAttest (tenant : Nat) (key chal : List Byte) (s : State) : Host.Outcome State Fault Refusal :=
  s.manage fun s =>
    if s.plat.security = .open ∨ s.plat.debug = .control ∨ !(s.tenant tenant).active ∨ !s.plat.idKey then s.reply 2
    else
      let d := Config.sm3 ((s.plat.running.map (·.body)).getD []) ++ Config.sm3 (s.tdesc.read (256 * tenant) 256) ++ Config.sm3 chal
      (((s.updTenant tenant fun t => { t with attestKey := some key }).updPlat fun p => { p with security := .attested }).reply 0
        (d ++ Config.sm2Sign d))

namespace State

/-- May a debug command touch a core (R385, R387 to R389): debug is CONTROL, no attested tenant is left, and in SECURE the tenant that
holds the core is in the authorised mask?. DEDUCED, log entry 87. -/
def debugMay (s : State) (k : Nat) : Bool :=
  let c := s.core k
  s.powered && s.plat.debug == .control && s.plat.security != .attested && decide (k < 4096) &&
  !(c.assigned && (s.tenant c.tenant).attestKey.isSome) &&
  (s.plat.security == .open || !c.assigned || s.plat.debugMask.getLsbD c.tenant)

/-- A die's clocks run again. -/
def wakeDie (s : State) (d : Nat) : State :=
  if (s.die d).gated then (s.updDie d fun d => { d with gated := false }).trace (.power (some d) 0) else s

/-- An access of debug to a core of an IDLE die ungates it (R389). -/
def ungate (s : State) (k : Nat) : State := s.wakeDie (k / 512)

/-- May debug read a counter: in OBSERVE and CONTROL, of every security state (R385, R387)? -/
def mayObserve (s : State) : Bool := s.powered && s.plat.debug != .off

/-- A counter as debug reads it: that of a core which an attested tenant holds reads 0 (R389). DEDUCED, log entry 125. -/
def counter (s : State) : DebugTarget → Option Word
  | .cycles k =>
    let c := s.core k
    if 4096 ≤ k then none
    else some (if c.assigned ∧ (s.tenant c.tenant).attestKey.isSome then 0 else BitVec.ofNat 64 (s.cycOf k))
  | .segments p => if 32 ≤ p then none else some (BitVec.ofNat 64 (s.port p).segctr)
  | _ => none

/-- A 64-bit word of a wider register, and the register with the word replaced. -/
def regWord (n : Nat) (r : BitVec n) (w : Nat) : Word := (r >>> (64 * w)).setWidth 64
def setRegWord (n : Nat) (r : BitVec n) (w : Nat) (x : Word) : BitVec n :=
  (r &&& ~~~((0xFFFFFFFFFFFFFFFF : BitVec n) <<< (64 * w))) ||| (x.setWidth n <<< (64 * w))

/-- What a debug access reads, and the state after its write; none where the target does not exist. -/
def debugDo (s : State) (t : DebugTarget) (w : Option Word) : Option (State × Word) :=
  match t with
  | .gReg core thread idx =>
    let h := (s.core core).thread thread
    if thread < 64 ∧ idx < h.wl * 8 then
      some (match w with | some x => s.putG (core * 64 + thread) idx x | none => s, FMap.get 0 (s.core core).gfile (h.gbase * 8 + idx))
    else none
  | .buffer core sp off =>
    if sp = .dm ∨ off % 8 ≠ 0 ∨ bufSize sp < off + 8 then none
    else some (match w with | some x => s.writeMem (.buf core sp off) (leBytes 8 x.toNat) | none => s,
      BitVec.ofNat 64 (leNat (s.readMem (.buf core sp off) 8)))
  | .coreReg core num =>
    match w with
    | some x => (s.writeCoreCsr core num x).map fun s' => (s', s.coreCsr core num)
    | none => some (s, s.coreCsr core num)
  | .vReg core thread idx i =>
    let h := (s.core core).thread thread
    let v : VWord := FMap.get 0 (s.core core).vfile (h.vbase * 4 + idx)
    if thread < 64 ∧ idx < h.vl * 4 ∧ i < 64 then
      some (match w with | some x => s.putV (core * 64 + thread) idx (setRegWord 4096 v i x) | none => s, regWord 4096 v i)
    else none
  | .mReg core thread idx i =>
    let m : Mask128 := FMap.get 0 ((s.core core).thread thread).m idx
    if thread < 64 ∧ idx < 8 ∧ i < 2 then
      some (match w with | some x => s.putM (core * 64 + thread) idx (setRegWord 128 m i x) | none => s, regWord 128 m i)
    else none
  | .acc core off =>
    if off % 8 ≠ 0 ∨ 0x28000 < off + 8 ∨ w.isSome then none
    else some (s, BitVec.ofNat 64 (leNat (s.readAny (.acc core off) 8)))
  | .cycles _ | .segments _ => none

end State

/-- The core that a debug target is on. -/
def debugCore : DebugTarget → Nat
  | .gReg c _ _ | .buffer c _ _ | .coreReg c _ | .vReg c _ _ _ | .mReg c _ _ _ | .acc c _ | .cycles c => c
  | .segments _ => 0

/-- Is a debug target a counter? -/
def isCounter : DebugTarget → Bool
  | .cycles _ | .segments _ => true
  | _ => false

/-- DEBUG_ACCESS: a counter is read, or a register or a word of the core windows is read or written (R385, R389). -/
def execDebugAccess (target : DebugTarget) (write : Option Word) (s : State) : Host.Outcome State Fault Refusal :=
  s.manage fun s =>
    if isCounter target then
      (match if s.mayObserve ∧ write.isNone then s.counter target else none with
       | some v => s.addOut (.debugData v)
       | none => s.reply 2)
    else if !s.debugMay (debugCore target) then s.reply 2
    else
      match (s.ungate (debugCore target)).debugDo target write with
      | some (s', v) => if write.isSome then s' else s'.addOut (.debugData v)
      | none => s.reply 2

/-- DEBUG_HALT of core State.subj: its threads stop as SUSP stops them (R351, R385). -/
def execDebugHalt (s : State) : Host.Outcome State Fault Refusal :=
  s.manage fun s =>
    let k := s.subj
    if !s.debugMay k then s.reply 2
    else
      (List.range 64).foldl (fun s i =>
        let t := k * 64 + i
        match (s.thr t).st with
        | .run | .parked => if s.atBoundary t then s.suspend t else s.askStop t false
        | _ => s) (s.ungate k)

/-! ## Power (R385, R390, R391) -/

namespace State

/-- A port that the port table gives a peer: another package that is present. -/
def linked (s : State) (p : Port) : Bool := p.st != .spare && decide (p.prow * 16 + p.pcol ≠ s.pkg) && s.present.contains (p.prow * 16 + p.pcol)

/-- Finsin trains the links: every port with a peer is UP, under a new key (R301, R314, R390). -/
def trainLinks (s : State) : State :=
  ({ s with ports := s.ports.map fun (p : Nat × Port) =>
      (p.1, if s.linked p.2 then { p.2 with st := PortState.up, segctr := 0, key := p.2.key + 1, first := true } else p.2) } : State).tracePorts s

/-- Bring-up (R19, R301, R307, R403): Finsin writes the presence map and the tables of other packages' guests, assigns ports 0 to 14 to the
other packages of the row and 15 to 29 to those of the column, and makes 30 and 31 the spares. DESIGN CHOICE, log entry 34. -/
def bringUp (s : State) : State :=
  let row := s.pkg / 16
  let col := s.pkg % 16
  let others := fun (x : Nat) => (List.range 16).filter (· != x)
  let peers := ((others col).map fun c => (row, c)) ++ (others row).map fun r => (r, col)
  let port := fun (n : Nat) =>
    let p := s.port n
    match peers[n]? with
    | some (r, c) => { p with prow := r, pcol := c, cut := Config.cutThrough n, st := .down }
    | none => { p with st := .spare }
  { s with present := s.pkg :: Config.present.filter fun p => p != s.pkg && decide (p < 256)
           guests := { s.guests with third := Config.guestThird }
           ports := (List.range 32).map fun n => (n, port n) }

/-- A port as a reset leaves it: without a key, but the number of the next one goes on, for no counter value comes twice under one (R314); the peer that bring-up writes into its entry stays given (DESIGN CHOICE, log entry 34). -/
def portAtReset (p : Port) : Port :=
  { Port.reset with prow := p.prow, pcol := p.pcol, cut := p.cut, key := p.key, st := if p.st = .spare then .spare else .down }

/-- Every unit at its reset values, with what the reset does not touch: the outside, the fuses and the installed image. -/
def unitsReset (s : State) (power : Power) (dm : Mem) : State :=
  { State.reset with
    pkg := s.pkg, now := s.now, sched := s.sched, inbox := s.inbox, nextId := s.nextId, freeCount := s.freeCount, dm := dm
    present := s.present, out := s.out
    ports := s.ports.map fun (p : Nat × Port) => (p.1, portAtReset p.2)
    cores := s.cores.map fun (c : Nat × Core) => (c.1, { Core.reset with defects := { c.2.defects with regs := [] } })
    plat := { Platform.reset with
      security := if s.plat.security = .attested then .secure else s.plat.security
      power := power, minVersion := s.plat.minVersion, image := s.plat.image, issued := s.plat.issued } }

/-- The rails are removed: keys are zeroed, and everything volatile is lost (R391). -/
def railsDown (s : State) : State := (s.unitsReset .off Mem.empty).updPlat fun p => { p with idKey := false }

/-- Is the eviction handshake between EVICTREQ and SAFE (R390)? -/
def evictBusy (s : State) : Bool :=
  match s.plat.evict with
  | .evictReq | .draining | .moving | .routesDrained => true
  | _ => false

end State

/-- POWER_ON: main power is applied, or a package that has been reset boots. The security processor checks Finsin; an accepted image
runs on the 33 harts, each from the start of instruction memory, the links are trained and READY is set (R372, R390, R393; PRESUMED, log
entry 26). -/
def occPowerOn (s : State) : Option State :=
  if (s.plat.power ≠ .off ∧ s.fw.ready) ∨ s.fw.fatal then none
  else
    let s := s.updPlat fun p => { p with power := .active, debug := .off, linkKeys := true, idKey := true }
    match s.plat.image with
    | some i =>
      if !imageOk s.plat.minVersion i then some s
      else
        let base := s.pkg * 2 ^ 48 + Config.qcbBlock % (dmSize / 4096 - 64) * 4096
        let s := s.updPlat fun p => { p with running := some i }
        some ({ s with dm := s.dm.clear (Config.qcbBlock % (dmSize / 4096 - 64) * 4096) 0x40000
                       fw := { s.fw with ready := true, qcbBase := base, imem := Mem.empty.write 0 (i.body.take 0x40000)
                                         harts := (List.range 33).map fun k => (k, { Hart.reset with running := true }) } }.bringUp.trainLinks)
    | none => some s

def execPowerOn (s : State) : Host.Outcome State Fault Refusal := s.happen (occPowerOn s)

def execLossOfMainPower (s : State) : Host.Outcome State Fault Refusal := .next s.railsDown

/-- PACKAGE_RESET (R384): device memory keeps its content. DEDUCED, log entry 89. -/
def execPackageReset (s : State) : Host.Outcome State Fault Refusal :=
  .next (if s.powered then
    (s.unitsReset .active s.dm).updPlat fun p =>
      { p with linkKeys := s.plat.linkKeys, idKey := s.plat.idKey, latch := s.plat.latch, neighbourSide := s.plat.neighbourSide
               evict := match s.plat.evict with | .safe => .safe | .failed => .failed | _ => .normal }
  else s)

/-- SETPOWER RETENTION: every tenant is pre-empted, and the package then holds its SRAM (R390). -/
def execSetpowerRetention (s : State) : Host.Outcome State Fault Refusal :=
  s.manage fun s =>
    if s.plat.changing then s.reply 1
    else if s.plat.power = .retention then s.reply 0
    else if s.evictBusy then s.reply 2
    else (s.updPlat fun p => { p with changing := true }).enterRetention

/-- SETPOWER ACTIVE: from RETENTION the ports are retrained; tenants are left to RESTORE (R390). -/
def execSetpowerActive (s : State) : Host.Outcome State Fault Refusal :=
  s.manage fun s =>
    if s.plat.changing then s.reply 1
    else if s.plat.power = .active then s.reply 0
    else (((s.updPlat fun p => { p with power := .active }).trace (.power none 0)).trainLinks).reply 0

/-- SETPOWER OFF: keys are zeroed, from ATTESTED also every SRAM and register file and the attested tenants' device memory; the rails
are removed (R390, R391). -/
def execSetpowerOff (s : State) : Host.Outcome State Fault Refusal :=
  s.manage fun s =>
    if s.plat.changing then s.reply 1
    else if s.evictBusy then s.reply 2
    else (s.reply 0).railsDown

namespace State

/-- Is a copy, a tile addition or a halo strip pending on a die (R390)? -/
def diePending (s : State) (d : Nat) : Bool :=
  s.cores.any (fun c => decide (c.1 / 512 = d) &&
    (c.2.copy.queues.any (fun q => q.2 != []) || c.2.tiles.slots.any fun t => t.2.landing != [])) ||
  s.heldStrips.any (fun p => p.dst.die == d) ||
  s.net.any fun i => match i.msg with
    | .strip p => p.dst.pkg == s.pkg && p.dst.die == d
    | .contribution c => decide (c.handle.toNat / 2 ^ 53 = s.pkg * 8 + d)
    | _ => false

/-- Does every thread of a die stand still: WFW, OFF, EMPTY, HALTED or SUSPENDED? -/
def threadsStill (s : State) (d : Nat) : Bool :=
  s.cores.all fun c => decide (c.1 / 512 ≠ d) || c.2.threads.all fun h =>
    match h.2.st with
    | .wfw | .off | .empty | .halted | .suspended => h.2.halting.isNone
    | _ => false

/-- Has anything arrived for a die: a node at its walker or a dispenser, a packet, a write (R390)? -/
def dieCalled (s : State) (d : Nat) : Bool :=
  let die := s.die d
  die.walker != [] || die.disp.any (fun q => q.2 != []) || die.copyNodes != [] || die.copyDone != [] || die.mig != [] ||
  s.flight.any (fun a => !a.place.isRemote && a.place.die == d) || s.ingress.any (fun i => i.port / 4 == d) ||
  s.net.any fun i => match i.msg with
    | .atomicAns l _ _ _ | .receipt l _ _ | .copyData l _ _ _ | .delivered l _ _ _ _ | .credit l _ _ => l.pkg == s.pkg && l.die == d
    | .contribution c => decide (c.handle.toNat / 2 ^ 53 = s.pkg * 8 + d)
    | .mcmd m => m.target.pkg == s.pkg && m.target.die == d
    | .strip p => p.dst.pkg == s.pkg && p.dst.die == d
    | .cmsg m => m.dst.pkg == s.pkg && m.dst.die == d
    | .raw m => m.dst.pkg == s.pkg && m.dst.die == d
    | .goHome p _ => p.home.pkg == s.pkg && p.home.die == d
    | .recall g _ _ => g.pkg == s.pkg && g.die == d
    | _ => false

/-- May a die's clocks be gated: nothing has been pending for 100 microseconds, its threads stand still, and nothing has arrived? -/
def mayIdle (s : State) (d : Nat) : Bool :=
  s.plat.power == .active && decide (d < 8) && !(s.die d).gated && s.threadsStill d && !s.diePending d && !s.dieCalled d &&
  decide ((s.die d).idleSince + 100000 ≤ s.now)

end State

/-- DIE_IDLE_ENTRY of die State.subj. -/
def occDieIdleEntry (s : State) : Option State :=
  if s.mayIdle s.subj then some ((s.updDie s.subj fun d => { d with gated := true }).trace (.power (some s.subj) 1)) else none

def execDieIdleEntry (s : State) : Host.Outcome State Fault Refusal := s.happen (occDieIdleEntry s)

/-- DIE_WAKE of die State.subj, which comes before anything takes what has arrived. -/
def occDieWake (s : State) : Option State :=
  if (s.die s.subj).gated ∧ s.dieCalled s.subj then some (s.wakeDie s.subj) else none

def execDieWake (s : State) : Host.Outcome State Fault Refusal := s.happen (occDieWake s)

/-! ## The presence map (R403) -/

/-- PACKAGE_ABSENT_ACKNOWLEDGE: the bit of a package that is gone is cleared, and what is queued for it does not leave; the package's own is
always set. -/
def execPackageAbsentAcknowledge (position : Nat) (s : State) : Host.Outcome State Fault Refusal :=
  .next (if position = s.pkg then s
    else (({ s with present := s.present.filter (· != position) } : State).purge position).addOut (.absent position))

/-- POSITION_BROUGHT_UP. -/
def execPositionBroughtUp (position : Nat) (s : State) : Host.Outcome State Fault Refusal :=
  .next (if 256 ≤ position ∨ s.present.contains position then s else { s with present := position :: s.present })

/-! ## The eviction handshake (R395 to R397) -/

/-- The time within which SAFE must be reached: 30 s. -/
def evictBudget : Nat := 30000000000

/-- EVICT: accepted in NORMAL, ACTIVE or IDLE, without CONTROL, for a neighbour of the row or column. -/
def execEvict (neighbour : Nat) (s : State) : Host.Outcome State Fault Refusal :=
  s.manage fun s =>
    if s.plat.power ≠ .active ∨ s.plat.evict ≠ .normal ∨ s.plat.debug = .control ∨ neighbour = s.pkg ∨ 256 ≤ neighbour ∨
        ¬(neighbour / 16 = s.pkg / 16 ∨ neighbour % 16 = s.pkg % 16) then s.reply 2
    else
      ((s.updPlat fun p => { p with evict := .evictReq, evictTo := neighbour, evictAt := s.now + evictBudget, neighbourSide := false }).addOut
        (.evictRequest neighbour s.needs)).reply 0

/-- EVICTION_REQUEST_RECEIVED: Finsin accepts in NORMAL, ACTIVE or IDLE, where it has free clusters, quota and memory for every tenant; then
the tenants cross, and it takes them in, to restore each and confirm (R395). -/
def execEvictionRequestReceived (source : EvictRequest) (s : State) : Host.Outcome State Fault Refusal :=
  .next (if !s.powered then s
    else match source.msg with
    | .ask ts =>
      let ok := s.plat.evict == .normal && s.plat.power == .active && s.fwAlive && s.plat.incoming.isNone && s.roomFor ts
      (if ok then s.updPlat fun p => { p with incoming := some source.pkg } else s).addOut (.evictAnswer source.pkg ok)
    | .move ts =>
      if s.plat.incoming ≠ some source.pkg ∨ !s.fwAlive then s
      else
        let s' := s.updPlat fun p => { p with incoming := none }
        match s'.takeTenants source.pkg ts with
        | some t => if ts = [] then t.addOut (.moveConfirmed source.pkg) else t
        | none => s')

def occNeighbourAccept (s : State) : Option State :=
  if s.plat.evict ≠ .evictReq then none else some (s.updPlat fun p => { p with evict := .draining })

def execNeighbourAccept (s : State) : Host.Outcome State Fault Refusal := s.happen (occNeighbourAccept s)

def occNeighbourRefuse (s : State) : Option State :=
  if s.plat.evict ≠ .evictReq then none
  else some ((s.updPlat fun p => { p with evict := .normal }).reply 4)

def execNeighbourRefuse (s : State) : Host.Outcome State Fault Refusal := s.happen (occNeighbourRefuse s)

namespace State

/-- Is the package drained: guests are home and every tenant is pre-empted, one by TCMD included (R395, R397)? -/
def evictDrained (s : State) : Bool :=
  (List.range 16).all (fun n => !(s.tenant n).active || ((s.tenant n).preempted && (s.guestsOf n).isEmpty)) &&
  (List.range 8).all fun d => (s.die d).mig == []

end State

def occDrainingDone (s : State) : Option State :=
  if s.plat.evict ≠ .draining ∨ !s.evictDrained then none
  else some ((s.updPlat fun p => { p with evict := .moving }).addOut (.moveTenants s.plat.evictTo (s.activeTenants.map s.crossing)))

def execDrainingDone (s : State) : Host.Outcome State Fault Refusal := s.happen (occDrainingDone s)

/-- MOVE_CONFIRMATION: the neighbour holds the tenants from now on; their records leave, and their windows are still to be zeroed.
DEDUCED, log entry 90. -/
def occMoveConfirmation (s : State) : Option State :=
  if s.plat.evict ≠ .moving then none
  else
    let ts := (List.range 16).filter fun n => (s.tenant n).active
    let w := ts.flatMap fun n => (s.tenant n).windows
    some ((ts.foldl destroy s).updPlat fun p => { p with evict := .routesDrained, leaving := w })
where
  destroy (s : State) (n : Nat) : State := s.destroyTenant n

def execMoveConfirmation (s : State) : Host.Outcome State Fault Refusal := s.happen (occMoveConfirmation s)

namespace State

/-- Have the ports nothing left to send or to confirm? -/
def portsQuiet (s : State) : Bool := s.stranded == [] && s.ports.all fun p => p.2.queue == [] && p.2.unconfirmed == []

/-- Every SRAM is zeroed. -/
def zeroSram (s : State) : State :=
  { s with cores := s.cores.map fun (c : Nat × Core) => (c.1,
      { c.2 with ulm := Mem.empty, wb := Mem.empty, ab := Mem.empty, full := [], gfile := [], vfile := [], tiles := TileUnit.reset }) }

end State

/-- ROUTES_DRAINED: the peers hold the package absent and its ports are quiet; device memory, SRAM and keys are zeroed, SAFE is
reached and the latch released (R395). -/
def occRoutesDrained (s : State) : Option State :=
  if s.plat.evict ≠ .routesDrained ∨ !s.portsQuiet then none
  else
    let s := (s.zeroWindows s.plat.leaving).zeroSram
    let down : State := { s with
      ports := s.ports.map fun (p : Nat × Port) => (p.1, if p.2.st = PortState.spare then p.2 else { p.2 with st := PortState.down }) }
    some ((down.tracePorts s).updPlat fun p => { p with evict := .safe, latch := true, linkKeys := false, idKey := false, leaving := [] })

def execRoutesDrained (s : State) : Host.Outcome State Fault Refusal := s.happen (occRoutesDrained s)

namespace State

/-- The handshake fails: after the confirmation on the neighbour side; before it on the source side, where every tenant is told, those
that are being pre-empted for it go on, and those that were are restored (R395, R396). DEDUCED, log entry 93. -/
def evictFails (s : State) : State :=
  if s.plat.evict = .routesDrained then s.updPlat fun p => { p with evict := .failed, neighbourSide := true }
  else
    let s := s.updPlat fun p => { p with evict := .failed, neighbourSide := false }
    (List.range 16).foldl (fun s n =>
      if (s.tenant n).active then
        (s.putOutcome n 2).updTenant n fun t => if t.byEvict ∧ !t.preempted then { t with stopping := 0, byEvict := false } else t
      else s) s

end State

def occEvictionTimeout (s : State) : Option State :=
  if !s.evictBusy ∨ s.now < s.plat.evictAt then none else some s.evictFails

def execEvictionTimeout (s : State) : Host.Outcome State Fault Refusal := s.happen (occEvictionTimeout s)

/-- EVICTION_LINK_FAILURE: the link or the other package fails. On the side of the neighbour, what has crossed and is not confirmed is
discarded (R395). -/
def occEvictionLinkFailure (s : State) : Option State :=
  let from' := (List.range 16).filterMap fun n => (s.tenant n).movedFrom
  if s.evictBusy then some s.evictFails
  else if s.plat.incoming.isSome ∨ from' ≠ [] then
    some ((from'.foldl State.discardCrossed s).updPlat fun p => { p with incoming := none })
  else none

def execEvictionLinkFailure (s : State) : Host.Outcome State Fault Refusal := s.happen (occEvictionLinkFailure s)

/-- CLEAR: FAILED or SAFE returns to NORMAL (R395). DEDUCED, log entry 91. -/
def execClearEv (s : State) : Host.Outcome State Fault Refusal :=
  s.manage fun s =>
    match s.plat.evict with
    | .failed | .safe => (s.updPlat fun p => { p with evict := .normal, latch := false, neighbourSide := false }).reply 0
    | _ => s.reply 2

end Sys2Proof.Machine
end

