-- ==== Sys2Proof/Machine/Dispatch.lean ====
section
/-! DEFINITION. One arm for every constructor of Instr: each a call of its meaning. -/

namespace Sys2Proof.Machine

open Sys2Proof

def exec (i : Instr) (s : State) : Host.Outcome State Fault Refusal :=
  match i with
  | .segmentArrival port seg => Sys2Proof.Machine.execSegmentArrival port seg s
  | .retransmitRequest port ctr => Sys2Proof.Machine.execRetransmitRequest port ctr s
  | .apertureWrite fn off data relaxed => Sys2Proof.Machine.execApertureWrite fn off data relaxed s
  | .apertureRead fn off len => Sys2Proof.Machine.execApertureRead fn off len s
  | .queueKick fn queue tail => Sys2Proof.Machine.execQueueKick fn queue tail s
  | .scaleoutDoorbell fn qp => Sys2Proof.Machine.execScaleoutDoorbell fn qp s
  | .mberrClear fn value => Sys2Proof.Machine.execMberrClear fn value s
  | .tlbinvWrite fn => Sys2Proof.Machine.execTlbinvWrite fn s
  | .ethernetPortConfigWrite port off data => Sys2Proof.Machine.execEthernetPortConfigWrite port off data s
  | .regionTableWrite region off data => Sys2Proof.Machine.execRegionTableWrite region off data s
  | .bar0RegisterWrite fn off data => Sys2Proof.Machine.execBar0RegisterWrite fn off data s
  | .rdmaRequestArrival qp req => Sys2Proof.Machine.execRdmaRequestArrival qp req s
  | .rdmaAckArrival qp ack => Sys2Proof.Machine.execRdmaAckArrival qp ack s
  | .warm rs1 => Sys2Proof.Machine.execWarm rs1 s
  | .wblk rd => Sys2Proof.Machine.execWblk rd s
  | .queueTableUe queue blockReadable => Sys2Proof.Machine.execQueueTableUe queue blockReadable s
  | .debugauth target tenantMask chal signature tenantSigs => Sys2Proof.Machine.execDebugauth target tenantMask chal signature tenantSigs s
  | .attest tenant key chal => Sys2Proof.Machine.execAttest tenant key chal s
  | .idchal chal => Sys2Proof.Machine.execIdchal chal s
  | .identityStoreRead off => Sys2Proof.Machine.execIdentityStoreRead off s
  | .pldmFirmwareUpdate image => Sys2Proof.Machine.execPldmFirmwareUpdate image s
  | .acceptmin version => Sys2Proof.Machine.execAcceptmin version s
  | .evict neighbour => Sys2Proof.Machine.execEvict neighbour s
  | .csrwFring a => Sys2Proof.Machine.execCsrwFring a s
  | .csrwFrrd a => Sys2Proof.Machine.execCsrwFrrd a s
  | .csrwTstate a => Sys2Proof.Machine.execCsrwTstate a s
  | .vlogsRead a => Sys2Proof.Machine.execVlogsRead a s
  | .add t sat a b c => Sys2Proof.Machine.execAdd t sat a b c s
  | .sub t sat a b c => Sys2Proof.Machine.execSub t sat a b c s
  | .addi a b imm => Sys2Proof.Machine.execAddi a b imm s
  | .mul t sat a b c => Sys2Proof.Machine.execMul t sat a b c s
  | .mulh t a b c => Sys2Proof.Machine.execMulh t a b c s
  | .div t a b c => Sys2Proof.Machine.execDiv t a b c s
  | .rem t a b c => Sys2Proof.Machine.execRem t a b c s
  | .min t a b c => Sys2Proof.Machine.execMin t a b c s
  | .max t a b c => Sys2Proof.Machine.execMax t a b c s
  | .abs t sat a b => Sys2Proof.Machine.execAbs t sat a b s
  | .neg t sat a b => Sys2Proof.Machine.execNeg t sat a b s
  | .lea a b imm => Sys2Proof.Machine.execLea a b imm s
  | .sext w a b => Sys2Proof.Machine.execSext w a b s
  | .zext w a b => Sys2Proof.Machine.execZext w a b s
  | .and a b c => Sys2Proof.Machine.execAnd a b c s
  | .or a b c => Sys2Proof.Machine.execOr a b c s
  | .xor a b c => Sys2Proof.Machine.execXor a b c s
  | .andn a b c => Sys2Proof.Machine.execAndn a b c s
  | .orn a b c => Sys2Proof.Machine.execOrn a b c s
  | .shl w a b c => Sys2Proof.Machine.execShl w a b c s
  | .shr w a b c => Sys2Proof.Machine.execShr w a b c s
  | .sra w a b c => Sys2Proof.Machine.execSra w a b c s
  | .rol w a b c => Sys2Proof.Machine.execRol w a b c s
  | .shli w a b imm => Sys2Proof.Machine.execShli w a b imm s
  | .shri w a b imm => Sys2Proof.Machine.execShri w a b imm s
  | .srai w a b imm => Sys2Proof.Machine.execSrai w a b imm s
  | .bfx a b pos lenM1 => Sys2Proof.Machine.execBfx a b pos lenM1 s
  | .bfi a b pos lenM1 => Sys2Proof.Machine.execBfi a b pos lenM1 s
  | .clz w a b => Sys2Proof.Machine.execClz w a b s
  | .ffs w a b => Sys2Proof.Machine.execFfs w a b s
  | .popc w a b => Sys2Proof.Machine.execPopc w a b s
  | .brev w a b => Sys2Proof.Machine.execBrev w a b s
  | .bswap w a b => Sys2Proof.Machine.execBswap w a b s
  | .cmpeq t a b c => Sys2Proof.Machine.execCmpeq t a b c s
  | .cmpne t a b c => Sys2Proof.Machine.execCmpne t a b c s
  | .cmplt t a b c => Sys2Proof.Machine.execCmplt t a b c s
  | .cmple t a b c => Sys2Proof.Machine.execCmple t a b c s
  | .sel a b c d => Sys2Proof.Machine.execSel a b c d s
  | .movi a imm => Sys2Proof.Machine.execMovi a imm s
  | .movhi a imm => Sys2Proof.Machine.execMovhi a imm s
  | .mov a b => Sys2Proof.Machine.execMov a b s
  | .movToLc l b => Sys2Proof.Machine.execMovToLc l b s
  | .movFromLc a l => Sys2Proof.Machine.execMovFromLc a l s
  | .movFromN1 a => Sys2Proof.Machine.execMovFromN1 a s
  | .movToN0 b => Sys2Proof.Machine.execMovToN0 b s
  | .tid a => Sys2Proof.Machine.execTid a s
  | .cyc a => Sys2Proof.Machine.execCyc a s
  | .cget a c => Sys2Proof.Machine.execCget a c s
  | .cset c b => Sys2Proof.Machine.execCset c b s
  | .signal a => Sys2Proof.Machine.execSignal a s
  | .gang n => Sys2Proof.Machine.execGang n s
  | .join m a b off => Sys2Proof.Machine.execJoin m a b off s
  | .leave m a off => Sys2Proof.Machine.execLeave m a off s
  | .arrive m a b off => Sys2Proof.Machine.execArrive m a b off s
  | .arriveBytes m a b off c => Sys2Proof.Machine.execArriveBytes m a b off c s
  | .waitgen m a off b => Sys2Proof.Machine.execWaitgen m a off b s
  | .ld t m a b off => Sys2Proof.Machine.execLd t m a b off s
  | .st t m a off b => Sys2Proof.Machine.execSt t m a off b s
  | .stSig t m a off b c => Sys2Proof.Machine.execStSig t m a off b c s
  | .ldv m a b off => Sys2Proof.Machine.execLdv m a b off s
  | .stv m a off b => Sys2Proof.Machine.execStv m a off b s
  | .ldx t m a b off c => Sys2Proof.Machine.execLdx t m a b off c s
  | .stx t m a off b c => Sys2Proof.Machine.execStx t m a off b c s
  | .ldfe a b off => Sys2Proof.Machine.execLdfe a b off s
  | .stfe a off b => Sys2Proof.Machine.execStfe a off b s
  | .ldff a b off => Sys2Proof.Machine.execLdff a b off s
  | .stff a off b => Sys2Proof.Machine.execStff a off b s
  | .spillG ulm a off b cntM1 => Sys2Proof.Machine.execSpillG ulm a off b cntM1 s
  | .spillV ulm a off b cntM1 => Sys2Proof.Machine.execSpillV ulm a off b cntM1 s
  | .fillG ulm a b off cntM1 => Sys2Proof.Machine.execFillG ulm a b off cntM1 s
  | .fillV ulm a b off cntM1 => Sys2Proof.Machine.execFillV ulm a b off cntM1 s
  | .sbind q b => Sys2Proof.Machine.execSbind q b s
  | .sfree q => Sys2Proof.Machine.execSfree q s
  | .sstatMask m q => Sys2Proof.Machine.execSstatMask m q s
  | .sstatPosition a q => Sys2Proof.Machine.execSstatPosition a q s
  | .amo op w64 m a b off c => Sys2Proof.Machine.execAmo op w64 m a b off c s
  | .cas w64 m a b off c => Sys2Proof.Machine.execCas w64 m a b off c s
  | .amof op m a b off c => Sys2Proof.Machine.execAmof op m a b off c s
  | .fence sc => Sys2Proof.Machine.execFence sc s
  | .cpset f a => Sys2Proof.Machine.execCpset f a s
  | .cpgo a => Sys2Proof.Machine.execCpgo a s
  | .cpqf mask => Sys2Proof.Machine.execCpqf mask s
  | .cpstat a b => Sys2Proof.Machine.execCpstat a b s
  | .cpwait a => Sys2Proof.Machine.execCpwait a s
  | .cpcan a => Sys2Proof.Machine.execCpcan a s
  | .gdecl a => Sys2Proof.Machine.execGdecl a s
  | .gld f a b c d => Sys2Proof.Machine.execGld f a b c d s
  | .gst f a b c => Sys2Proof.Machine.execGst f a b c s
  | .gstep a b => Sys2Proof.Machine.execGstep a b s
  | .gstat a b => Sys2Proof.Machine.execGstat a b s
  | .gfree a => Sys2Proof.Machine.execGfree a s
  | .cbegin a => Sys2Proof.Machine.execCbegin a s
  | .csend a b c => Sys2Proof.Machine.execCsend a b c s
  | .crecv a off b c => Sys2Proof.Machine.execCrecv a off b c s
  | .crecvSig a off b c => Sys2Proof.Machine.execCrecvSig a off b c s
  | .crrs op a off b c => Sys2Proof.Machine.execCrrs op a off b c s
  | .ccopy a b c => Sys2Proof.Machine.execCcopy a b c s
  | .cwait a => Sys2Proof.Machine.execCwait a s
  | .cpeer a b c => Sys2Proof.Machine.execCpeer a b c s
  | .cend a => Sys2Proof.Machine.execCend a s
  | .trap imm => Sys2Proof.Machine.execTrap imm s
  | .csrr a num => Sys2Proof.Machine.execCsrr a num s
  | .csrw num a => Sys2Proof.Machine.execCsrw num a s
  | .rdwin a b => Sys2Proof.Machine.execRdwin a b s
  | .wrwin a b => Sys2Proof.Machine.execWrwin a b s
  | .resume a => Sys2Proof.Machine.execResume a s
  | .susp a => Sys2Proof.Machine.execSusp a s
  | .kill a => Sys2Proof.Machine.execKill a s
  | .cfgt a b => Sys2Proof.Machine.execCfgt a b s
  | .savec a off b => Sys2Proof.Machine.execSavec a off b s
  | .loadc a off b => Sys2Proof.Machine.execLoadc a off b s
  | .br c a b disp => Sys2Proof.Machine.execBr c a b disp s
  | .jmp disp => Sys2Proof.Machine.execJmp disp s
  | .jmpr a => Sys2Proof.Machine.execJmpr a s
  | .call a disp => Sys2Proof.Machine.execCall a disp s
  | .callr a b => Sys2Proof.Machine.execCallr a b s
  | .ret a => Sys2Proof.Machine.execRet a s
  | .loop l disp => Sys2Proof.Machine.execLoop l disp s
  | .vadd e k a b c => Sys2Proof.Machine.execVadd e k a b c s
  | .vsub e k a b c => Sys2Proof.Machine.execVsub e k a b c s
  | .vmul e k a b c => Sys2Proof.Machine.execVmul e k a b c s
  | .vfma e k a b c => Sys2Proof.Machine.execVfma e k a b c s
  | .vfms e k a b c => Sys2Proof.Machine.execVfms e k a b c s
  | .vmin e k a b c => Sys2Proof.Machine.execVmin e k a b c s
  | .vmax e k a b c => Sys2Proof.Machine.execVmax e k a b c s
  | .vabs e k a b => Sys2Proof.Machine.execVabs e k a b s
  | .vneg e k a b => Sys2Proof.Machine.execVneg e k a b s
  | .vdiv md k a b c => Sys2Proof.Machine.execVdiv md k a b c s
  | .vsqrt md k a b => Sys2Proof.Machine.execVsqrt md k a b s
  | .vrcp md k a b => Sys2Proof.Machine.execVrcp md k a b s
  | .vrsq md k a b => Sys2Proof.Machine.execVrsq md k a b s
  | .vexp2 md k a b => Sys2Proof.Machine.execVexp2 md k a b s
  | .vlog2 md k a b => Sys2Proof.Machine.execVlog2 md k a b s
  | .vsin md k a b => Sys2Proof.Machine.execVsin md k a b s
  | .vcos md k a b => Sys2Proof.Machine.execVcos md k a b s
  | .vand k a b c => Sys2Proof.Machine.execVand k a b c s
  | .vor k a b c => Sys2Proof.Machine.execVor k a b c s
  | .vxor k a b c => Sys2Proof.Machine.execVxor k a b c s
  | .vshl w k a b c => Sys2Proof.Machine.execVshl w k a b c s
  | .vshr w k a b c => Sys2Proof.Machine.execVshr w k a b c s
  | .vsra w k a b c => Sys2Proof.Machine.execVsra w k a b c s
  | .vclz w u k a b => Sys2Proof.Machine.execVclz w u k a b s
  | .vffs w u k a b => Sys2Proof.Machine.execVffs w u k a b s
  | .vpopc w u k a b => Sys2Proof.Machine.execVpopc w u k a b s
  | .vcmp c t m a b => Sys2Proof.Machine.execVcmp c t m a b s
  | .vsel m a b c => Sys2Proof.Machine.execVsel m a b c s
  | .vmov k a b => Sys2Proof.Machine.execVmov k a b s
  | .vbcast k a b => Sys2Proof.Machine.execVbcast k a b s
  | .vins k a b c => Sys2Proof.Machine.execVins k a b c s
  | .vext a b c => Sys2Proof.Machine.execVext a b c s
  | .vperm k a b c => Sys2Proof.Machine.execVperm k a b c s
  | .vrot k a b c => Sys2Proof.Machine.execVrot k a b c s
  | .viota k a => Sys2Proof.Machine.execViota k a s
  | .vred op e k a b => Sys2Proof.Machine.execVred op e k a b s
  | .vscan op e k a b => Sys2Proof.Machine.execVscan op e k a b s
  | .vcvt op k a b => Sys2Proof.Machine.execVcvt op k a b s
  | .vpack w k a b c => Sys2Proof.Machine.execVpack w k a b c s
  | .vunpk w u k a b => Sys2Proof.Machine.execVunpk w u k a b s
  | .vdec f k a b => Sys2Proof.Machine.execVdec f k a b s
  | .venc f sat k a b => Sys2Proof.Machine.execVenc f sat k a b s
  | .dtld tab a off => Sys2Proof.Machine.execDtld tab a off s
  | .mand a b c => Sys2Proof.Machine.execMand a b c s
  | .mor a b c => Sys2Proof.Machine.execMor a b c s
  | .mxor a b c => Sys2Proof.Machine.execMxor a b c s
  | .mnot a b => Sys2Proof.Machine.execMnot a b s
  | .mpop a b => Sys2Proof.Machine.execMpop a b s
  | .mfirst a b => Sys2Proof.Machine.execMfirst a b s
  | .mmaStream a b q d => Sys2Proof.Machine.execMmaStream a b q d s
  | .mmaAb a b c d => Sys2Proof.Machine.execMmaAb a b c d s
  | .mmasK16Stream a b q d e => Sys2Proof.Machine.execMmasK16Stream a b q d e s
  | .mmasK16Ab a b c d e => Sys2Proof.Machine.execMmasK16Ab a b c d e s
  | .mmasK8Stream a b q d e => Sys2Proof.Machine.execMmasK8Stream a b q d e s
  | .mmasK8Ab a b c d e => Sys2Proof.Machine.execMmasK8Ab a b c d e s
  | .bld a => Sys2Proof.Machine.execBld a s
  | .swapt a b => Sys2Proof.Machine.execSwapt a b s
  | .ldt a b => Sys2Proof.Machine.execLdt a b s
  | .mcmd a b c => Sys2Proof.Machine.execMcmd a b c s
  | .talloc int34 a b => Sys2Proof.Machine.execTalloc int34 a b s
  | .tcont a b c d => Sys2Proof.Machine.execTcont a b c d s
  | .tstat a b => Sys2Proof.Machine.execTstat a b s
  | .tread fmt sat wrap a off b => Sys2Proof.Machine.execTread fmt sat wrap a off b s
  | .twait a => Sys2Proof.Machine.execTwait a s
  | .taban a => Sys2Proof.Machine.execTaban a s
  | .tpeek a b => Sys2Proof.Machine.execTpeek a b s
  | .tfree a => Sys2Proof.Machine.execTfree a s
  | .qshape imm => Sys2Proof.Machine.execQshape imm s
  | .qtld n a off => Sys2Proof.Machine.execQtld n a off s
  | .qclr k a => Sys2Proof.Machine.execQclr k a s
  | .qacc q k a b => Sys2Proof.Machine.execQacc q k a b s
  | .qmerge k a b => Sys2Proof.Machine.execQmerge k a b s
  | .qred k a => Sys2Proof.Machine.execQred k a s
  | .qfin q k a b => Sys2Proof.Machine.execQfin q k a b s
  | .unassignedOpcode opc sub' => Sys2Proof.Machine.execUnassignedOpcode opc sub' s
  | .portSpareReplacement port spare => Sys2Proof.Machine.execPortSpareReplacement port spare s
  | .debugAccess target write => Sys2Proof.Machine.execDebugAccess target write s
  | .evictionRequestReceived source => Sys2Proof.Machine.execEvictionRequestReceived source s
  | .packageAbsentAcknowledge position => Sys2Proof.Machine.execPackageAbsentAcknowledge position s
  | .positionBroughtUp position => Sys2Proof.Machine.execPositionBroughtUp position s
  | .powerOn => Sys2Proof.Machine.execPowerOn s
  | .lossOfMainPower => Sys2Proof.Machine.execLossOfMainPower s
  | .lineFetchComplete => Sys2Proof.Machine.execLineFetchComplete s
  | .resultReady => Sys2Proof.Machine.execResultReady s
  | .loadReply => Sys2Proof.Machine.execLoadReply s
  | .portAcceptance => Sys2Proof.Machine.execPortAcceptance s
  | .bankAcknowledgement => Sys2Proof.Machine.execBankAcknowledgement s
  | .routeAcknowledgement => Sys2Proof.Machine.execRouteAcknowledgement s
  | .receiptArrival => Sys2Proof.Machine.execReceiptArrival s
  | .atomicEngineTake => Sys2Proof.Machine.execAtomicEngineTake s
  | .waitgenRepresent => Sys2Proof.Machine.execWaitgenRepresent s
  | .graphWalkerReceive => Sys2Proof.Machine.execGraphWalkerReceive s
  | .copyNodeLaunch => Sys2Proof.Machine.execCopyNodeLaunch s
  | .pipeStageRelease => Sys2Proof.Machine.execPipeStageRelease s
  | .dispenserPlacement => Sys2Proof.Machine.execDispenserPlacement s
  | .taskStart => Sys2Proof.Machine.execTaskStart s
  | .collectiveOccupancyUpdate => Sys2Proof.Machine.execCollectiveOccupancyUpdate s
  | .followerBundle => Sys2Proof.Machine.execFollowerBundle s
  | .channelSlotPublish => Sys2Proof.Machine.execChannelSlotPublish s
  | .streamVectorFetch => Sys2Proof.Machine.execStreamVectorFetch s
  | .pageWalkComplete => Sys2Proof.Machine.execPageWalkComplete s
  | .tlbInvalidationComplete => Sys2Proof.Machine.execTlbInvalidationComplete s
  | .stewynIngressAccept => Sys2Proof.Machine.execStewynIngressAccept s
  | .rekeyStart => Sys2Proof.Machine.execRekeyStart s
  | .portStop => Sys2Proof.Machine.execPortStop s
  | .keyExchangeComplete => Sys2Proof.Machine.execKeyExchangeComplete s
  | .migArrival => Sys2Proof.Machine.execMigArrival s
  | .migQueuePlacement => Sys2Proof.Machine.execMigQueuePlacement s
  | .migReturn => Sys2Proof.Machine.execMigReturn s
  | .guestReturnHome => Sys2Proof.Machine.execGuestReturnHome s
  | .recall => Sys2Proof.Machine.execRecall s
  | .matrixQueueEntry => Sys2Proof.Machine.execMatrixQueueEntry s
  | .latchArrival => Sys2Proof.Machine.execLatchArrival s
  | .mcmdArrival => Sys2Proof.Machine.execMcmdArrival s
  | .contributionExamine => Sys2Proof.Machine.execContributionExamine s
  | .tileAdditionsLand => Sys2Proof.Machine.execTileAdditionsLand s
  | .swaptPairComplete => Sys2Proof.Machine.execSwaptPairComplete s
  | .decodeTableReplace => Sys2Proof.Machine.execDecodeTableReplace s
  | .meanPairReplace => Sys2Proof.Machine.execMeanPairReplace s
  | .copyOperationStart => Sys2Proof.Machine.execCopyOperationStart s
  | .copyCompletion => Sys2Proof.Machine.execCopyCompletion s
  | .userInterruptTake => Sys2Proof.Machine.execUserInterruptTake s
  | .stripArrival => Sys2Proof.Machine.execStripArrival s
  | .haloTimeout => Sys2Proof.Machine.execHaloTimeout s
  | .messageSend => Sys2Proof.Machine.execMessageSend s
  | .messageArrival => Sys2Proof.Machine.execMessageArrival s
  | .deliveryAcknowledgement => Sys2Proof.Machine.execDeliveryAcknowledgement s
  | .creditReturn => Sys2Proof.Machine.execCreditReturn s
  | .rawMessageArrival => Sys2Proof.Machine.execRawMessageArrival s
  | .faultMessageDelivery => Sys2Proof.Machine.execFaultMessageDelivery s
  | .meridianSend => Sys2Proof.Machine.execMeridianSend s
  | .qcmdEnable => Sys2Proof.Machine.execQcmdEnable s
  | .qcmdDisable => Sys2Proof.Machine.execQcmdDisable s
  | .activate => Sys2Proof.Machine.execActivate s
  | .preempt => Sys2Proof.Machine.execPreempt s
  | .restore => Sys2Proof.Machine.execRestore s
  | .destroy => Sys2Proof.Machine.execDestroy s
  | .invalidate => Sys2Proof.Machine.execInvalidate s
  | .queuePairEnable => Sys2Proof.Machine.execQueuePairEnable s
  | .queuePairDisable => Sys2Proof.Machine.execQueuePairDisable s
  | .sendRingPoll => Sys2Proof.Machine.execSendRingPoll s
  | .hartTakeSlot => Sys2Proof.Machine.execHartTakeSlot s
  | .nodeRetire => Sys2Proof.Machine.execNodeRetire s
  | .managerMap => Sys2Proof.Machine.execManagerMap s
  | .queueAging => Sys2Proof.Machine.execQueueAging s
  | .watchReread => Sys2Proof.Machine.execWatchReread s
  | .imemUeRecovery => Sys2Proof.Machine.execImemUeRecovery s
  | .firmwareHalt => Sys2Proof.Machine.execFirmwareHalt s
  | .dieIdleEntry => Sys2Proof.Machine.execDieIdleEntry s
  | .dieWake => Sys2Proof.Machine.execDieWake s
  | .getstate => Sys2Proof.Machine.execGetstate s
  | .provision => Sys2Proof.Machine.execProvision s
  | .setpowerRetention => Sys2Proof.Machine.execSetpowerRetention s
  | .setpowerActive => Sys2Proof.Machine.execSetpowerActive s
  | .setpowerOff => Sys2Proof.Machine.execSetpowerOff s
  | .debugchal => Sys2Proof.Machine.execDebugchal s
  | .idread => Sys2Proof.Machine.execIdread s
  | .pldmMonitor => Sys2Proof.Machine.execPldmMonitor s
  | .evstat => Sys2Proof.Machine.execEvstat s
  | .clearEv => Sys2Proof.Machine.execClearEv s
  | .neighbourAccept => Sys2Proof.Machine.execNeighbourAccept s
  | .neighbourRefuse => Sys2Proof.Machine.execNeighbourRefuse s
  | .drainingDone => Sys2Proof.Machine.execDrainingDone s
  | .moveConfirmation => Sys2Proof.Machine.execMoveConfirmation s
  | .routesDrained => Sys2Proof.Machine.execRoutesDrained s
  | .evictionTimeout => Sys2Proof.Machine.execEvictionTimeout s
  | .evictionLinkFailure => Sys2Proof.Machine.execEvictionLinkFailure s
  | .windowRegisterWrite => Sys2Proof.Machine.execWindowRegisterWrite s
  | .wfw => Sys2Proof.Machine.execWfw s
  | .doneOp => Sys2Proof.Machine.execDoneOp s
  | .yield => Sys2Proof.Machine.execYield s
  | .disband => Sys2Proof.Machine.execDisband s
  | .uiret => Sys2Proof.Machine.execUiret s
  | .home => Sys2Proof.Machine.execHome s
  | .isync => Sys2Proof.Machine.execIsync s
  | .nop => Sys2Proof.Machine.execNop s
  | .brot => Sys2Proof.Machine.execBrot s
  | .packageReset => Sys2Proof.Machine.execPackageReset s
  | .atomicResponse => Sys2Proof.Machine.execAtomicResponse s
  | .rdmaNakArrival => Sys2Proof.Machine.execRdmaNakArrival s
  | .debugHalt => Sys2Proof.Machine.execDebugHalt s
  | .slotUncorrectableError => Sys2Proof.Machine.execSlotUncorrectableError s

end Sys2Proof.Machine
end

