-- ==== Sys2Proof/Machine/Harts.lean ====
section
/-! DEFINITION. The base instructions of the harts (R372): RV64IMAC with the machine-mode registers and traps. R372 names the architecture
and does not describe it; what stands here is the architecture's own (PRESUMED, log entry 26). A hart fetches from instruction memory from
0 on and loads and stores by global physical address (R372; DESIGN CHOICE, log entry 97). -/

namespace Sys2Proof.Machine

open Sys2Proof

/-! ## Fields of a word -/

/-- n bits of a word from bit i on. -/
def rvBits (w i n : Nat) : Nat := w / 2 ^ i % 2 ^ n

/-- An n-bit field as a signed word. -/
def rvSext (n x : Nat) : Word := (BitVec.ofNat n x).signExtend 64

def rvImmI (w : Nat) : Word := rvSext 12 (rvBits w 20 12)
def rvImmS (w : Nat) : Word := rvSext 12 (rvBits w 25 7 * 32 + rvBits w 7 5)
def rvImmB (w : Nat) : Word :=
  rvSext 13 (rvBits w 31 1 * 4096 + rvBits w 7 1 * 2048 + rvBits w 25 6 * 32 + rvBits w 8 4 * 2)
def rvImmU (w : Nat) : Word := rvSext 32 (rvBits w 12 20 * 4096)
def rvImmJ (w : Nat) : Word :=
  rvSext 21 (rvBits w 31 1 * 2 ^ 20 + rvBits w 12 8 * 4096 + rvBits w 20 1 * 2048 + rvBits w 21 10 * 2)

/-! ## The compressed forms as whole words -/

def rvI (op f3 rd rs1 imm : Nat) : Nat := op + rd * 2 ^ 7 + f3 * 2 ^ 12 + rs1 * 2 ^ 15 + imm % 4096 * 2 ^ 20
def rvR (op f3 f7 rd rs1 rs2 : Nat) : Nat := op + rd * 2 ^ 7 + f3 * 2 ^ 12 + rs1 * 2 ^ 15 + rs2 * 2 ^ 20 + f7 * 2 ^ 25
def rvS (f3 rs1 rs2 imm : Nat) : Nat :=
  0x23 + imm % 32 * 2 ^ 7 + f3 * 2 ^ 12 + rs1 * 2 ^ 15 + rs2 * 2 ^ 20 + imm / 32 * 2 ^ 25
def rvB (f3 rs1 imm : Nat) : Nat :=
  0x63 + (imm / 2 % 16 * 2 + imm / 2048 % 2) * 2 ^ 7 + f3 * 2 ^ 12 + rs1 * 2 ^ 15 + (imm / 32 % 64 + imm / 4096 % 2 * 64) * 2 ^ 25
def rvJ (rd imm : Nat) : Nat :=
  0x6F + rd * 2 ^ 7 + imm / 4096 % 256 * 2 ^ 12 + imm / 2048 % 2 * 2 ^ 20 + imm / 2 % 1024 * 2 ^ 21 + imm / 2 ^ 20 % 2 * 2 ^ 31

/-- A signed n-bit field, as a number modulo 2 to the m. -/
def rvWide (n m x : Nat) : Nat := ((BitVec.ofNat n x).signExtend m).toNat

/-- The six-bit immediate of most compressed forms. -/
def rvImm6 (h : Nat) : Nat := rvBits h 12 1 * 32 + rvBits h 2 5

/-- Quadrant 0. -/
def rvExpand0 (h : Nat) : Option Nat :=
  let rd := rvBits h 2 3 + 8
  let rs := rvBits h 7 3 + 8
  let w4 := rvBits h 10 3 * 8 + rvBits h 6 1 * 4 + rvBits h 5 1 * 64
  let w8 := rvBits h 10 3 * 8 + rvBits h 5 2 * 64
  match rvBits h 13 3 with
  | 0 =>
    let imm := rvBits h 11 2 * 16 + rvBits h 7 4 * 64 + rvBits h 6 1 * 4 + rvBits h 5 1 * 8
    if imm = 0 then none else some (rvI 0x13 0 rd 2 imm)
  | 2 => some (rvI 0x03 2 rd rs w4)
  | 3 => some (rvI 0x03 3 rd rs w8)
  | 6 => some (rvS 2 rs rd w4)
  | 7 => some (rvS 3 rs rd w8)
  | _ => none

/-- The arithmetic of quadrant 1. -/
def rvExpandArith (h : Nat) : Option Nat :=
  let r := rvBits h 7 3 + 8
  let r2 := rvBits h 2 3 + 8
  match rvBits h 10 2 with
  | 0 => some (rvI 0x13 5 r r (rvImm6 h))
  | 1 => some (rvI 0x13 5 r r (rvImm6 h + 0x400))
  | 2 => some (rvI 0x13 7 r r (rvWide 6 12 (rvImm6 h)))
  | _ =>
    match rvBits h 12 1 * 4 + rvBits h 5 2 with
    | 0 => some (rvR 0x33 0 0x20 r r r2)
    | 1 => some (rvR 0x33 4 0 r r r2)
    | 2 => some (rvR 0x33 6 0 r r r2)
    | 3 => some (rvR 0x33 7 0 r r r2)
    | 4 => some (rvR 0x3B 0 0x20 r r r2)
    | 5 => some (rvR 0x3B 0 0 r r r2)
    | _ => none

/-- Quadrant 1. -/
def rvExpand1 (h : Nat) : Option Nat :=
  let r := rvBits h 7 5
  let s := rvBits h 7 3 + 8
  let j := rvBits h 12 1 * 2048 + rvBits h 11 1 * 16 + rvBits h 9 2 * 256 + rvBits h 8 1 * 1024 + rvBits h 7 1 * 64 +
    rvBits h 6 1 * 128 + rvBits h 3 3 * 2 + rvBits h 2 1 * 32
  let b := rvWide 9 13 (rvBits h 12 1 * 256 + rvBits h 10 2 * 8 + rvBits h 5 2 * 64 + rvBits h 3 2 * 2 + rvBits h 2 1 * 32)
  match rvBits h 13 3 with
  | 0 => some (rvI 0x13 0 r r (rvWide 6 12 (rvImm6 h)))
  | 1 => if r = 0 then none else some (rvI 0x1B 0 r r (rvWide 6 12 (rvImm6 h)))
  | 2 => some (rvI 0x13 0 r 0 (rvWide 6 12 (rvImm6 h)))
  | 3 =>
    if rvImm6 h = 0 then none
    else if r = 2 then
      some (rvI 0x13 0 2 2 (rvWide 10 12 (rvBits h 12 1 * 512 + rvBits h 6 1 * 16 + rvBits h 5 1 * 64 + rvBits h 3 2 * 128 + rvBits h 2 1 * 32)))
    else some (0x37 + r * 2 ^ 7 + rvWide 6 20 (rvImm6 h) * 2 ^ 12)
  | 4 => rvExpandArith h
  | 5 => some (rvJ 0 (rvWide 12 21 j))
  | 6 => some (rvB 0 s b)
  | _ => some (rvB 1 s b)

/-- Quadrant 2. -/
def rvExpand2 (h : Nat) : Option Nat :=
  let r := rvBits h 7 5
  let r2 := rvBits h 2 5
  match rvBits h 13 3 with
  | 0 => some (rvI 0x13 1 r r (rvImm6 h))
  | 2 => if r = 0 then none else some (rvI 0x03 2 r 2 (rvBits h 12 1 * 32 + rvBits h 4 3 * 4 + rvBits h 2 2 * 64))
  | 3 => if r = 0 then none else some (rvI 0x03 3 r 2 (rvBits h 12 1 * 32 + rvBits h 5 2 * 8 + rvBits h 2 3 * 64))
  | 4 =>
    if rvBits h 12 1 = 0 then
      if r2 = 0 then (if r = 0 then none else some (rvI 0x67 0 0 r 0)) else some (rvR 0x33 0 0 r 0 r2)
    else if r2 = 0 then (if r = 0 then some 0x00100073 else some (rvI 0x67 0 1 r 0))
    else some (rvR 0x33 0 0 r r r2)
  | 6 => some (rvS 2 2 r2 (rvBits h 9 4 * 4 + rvBits h 7 2 * 64))
  | 7 => some (rvS 3 2 r2 (rvBits h 10 3 * 8 + rvBits h 7 3 * 64))
  | _ => none

/-- The word that a compressed instruction stands for; none where it is illegal. -/
def rvExpand (h : Nat) : Option Nat :=
  match h % 4 with
  | 0 => rvExpand0 h
  | 1 => rvExpand1 h
  | 2 => rvExpand2 h
  | _ => none

/-! ## Arithmetic -/

/-- Division of the M extension: by 0, and of the most negative number by -1, as it states. -/
def rvDiv {n : Nat} (f3 : Nat) (a b : BitVec n) : BitVec n :=
  match f3 with
  | 4 => if b = 0 then -1 else a.sdiv b
  | 5 => if b = 0 then -1 else a / b
  | 6 => if b = 0 then a else a.srem b
  | _ => if b = 0 then a else a % b

/-- The upper word of a product. -/
def rvHigh (x : Int) : Word := BitVec.ofInt 64 (x / 2 ^ 64)

/-- The operations of OP by funct3 and funct7. -/
def rvOp (f3 f7 : Nat) (a b : Word) : Option Word :=
  match f7, f3 with
  | 0, 0 => some (a + b)
  | 0x20, 0 => some (a - b)
  | 0, 1 => some (a <<< (b.toNat % 64))
  | 0, 2 => some (if a.slt b then 1 else 0)
  | 0, 3 => some (if a.ult b then 1 else 0)
  | 0, 4 => some (a ^^^ b)
  | 0, 5 => some (a >>> (b.toNat % 64))
  | 0x20, 5 => some (a.sshiftRight (b.toNat % 64))
  | 0, 6 => some (a ||| b)
  | 0, 7 => some (a &&& b)
  | 1, 0 => some (a * b)
  | 1, 1 => some (rvHigh (a.toInt * b.toInt))
  | 1, 2 => some (rvHigh (a.toInt * (b.toNat : Int)))
  | 1, 3 => some (rvHigh ((a.toNat : Int) * (b.toNat : Int)))
  | 1, f => some (rvDiv f a b)
  | _, _ => none

/-- The operations of OP-32. -/
def rvOp32 (f3 f7 : Nat) (a b : Word) : Option Word :=
  let x : Word32 := a.setWidth 32
  let y : Word32 := b.setWidth 32
  let n := b.toNat % 32
  (match f7, f3 with
   | 0, 0 => some (x + y)
   | 0x20, 0 => some (x - y)
   | 0, 1 => some (x <<< n)
   | 0, 5 => some (x >>> n)
   | 0x20, 5 => some (x.sshiftRight n)
   | 1, 0 => some (x * y)
   | 1, f => if 4 ≤ f then some (rvDiv f x y) else none
   | _, _ => none).map fun (r : Word32) => r.signExtend 64

/-- The operations of OP-IMM. -/
def rvOpImm (w : Nat) (a : Word) : Option Word :=
  let f3 := rvBits w 12 3
  if f3 = 1 ∨ f3 = 5 then rvOp f3 (if rvBits w 26 6 = 0x10 then 0x20 else if rvBits w 26 6 = 0 then 0 else 2) a (BitVec.ofNat 64 (rvBits w 20 6))
  else rvOp f3 0 a (rvImmI w)

/-- The operations of OP-IMM-32. -/
def rvOpImm32 (w : Nat) (a : Word) : Option Word :=
  match rvBits w 12 3 with
  | 0 => rvOp32 0 0 a (rvImmI w)
  | 1 => if rvBits w 25 7 = 0 then rvOp32 1 0 a (BitVec.ofNat 64 (rvBits w 20 5)) else none
  | 5 =>
    if rvBits w 25 7 = 0 ∨ rvBits w 25 7 = 0x20 then rvOp32 5 (rvBits w 25 7) a (BitVec.ofNat 64 (rvBits w 20 5)) else none
  | _ => none

/-- Is a branch taken? -/
def rvBranch (f3 : Nat) (a b : Word) : Option Bool :=
  match f3 with
  | 0 => some (a == b)
  | 1 => some (a != b)
  | 4 => some (a.slt b)
  | 5 => some (!a.slt b)
  | 6 => some (a.ult b)
  | 7 => some (!a.ult b)
  | _ => none

/-- The new value of the word of an AMO, by funct5. -/
def rvAmo {n : Nat} (f5 : Nat) (old b : BitVec n) : Option (BitVec n) :=
  match f5 with
  | 0x01 => some b
  | 0x00 => some (old + b)
  | 0x04 => some (old ^^^ b)
  | 0x0C => some (old &&& b)
  | 0x08 => some (old ||| b)
  | 0x10 => some (if old.slt b then old else b)
  | 0x14 => some (if old.slt b then b else old)
  | 0x18 => some (if old.ult b then old else b)
  | 0x1C => some (if old.ult b then b else old)
  | _ => none

/-! ## Machine-mode registers -/

/-- A register of hart k by its number; none where there is no such register. -/
def Hart.readCsr (h : Hart) (k n : Nat) : Option Word :=
  match n with
  | 0x300 => some h.mstatus
  | 0x301 => some 0x8000000000001105
  | 0x304 => some h.mie
  | 0x305 => some h.mtvec
  | 0x340 => some h.mscratch
  | 0x341 => some h.mepc
  | 0x342 => some h.mcause
  | 0x343 => some h.mtval
  | 0x344 | 0xF11 | 0xF12 | 0xF13 => some 0
  | 0xF14 => some (BitVec.ofNat 64 k)
  | _ => none

/-- Write a register that software writes. -/
def Hart.writeCsr (h : Hart) (n : Nat) (w : Word) : Hart :=
  match n with
  | 0x300 => { h with mstatus := (w &&& 0x88) ||| 0x1800 }
  | 0x304 => { h with mie := w &&& 0x888 }
  | 0x305 => { h with mtvec := w &&& ~~~2#64 }
  | 0x340 => { h with mscratch := w }
  | 0x341 => { h with mepc := w &&& ~~~1#64 }
  | 0x342 => { h with mcause := w }
  | 0x343 => { h with mtval := w }
  | _ => h

namespace State

/-! ## Memory -/

/-- The device memory of this package that n bytes at a global physical address lie in; none where a part of them does not (R113, R372). -/
def hartPlace (s : State) (a : Word) (n : Nat) : Option Place :=
  if 2 ^ 56 ≤ a.toNat + n then none
  else
    match s.resolve a.toNat, s.resolve (a.toNat + n - 1) with
    | .dm d, .dm _ => some (.dm d)
    | _, _ => none

/-- The bytes that a hart reads; none where the access faults. -/
def hartRead (s : State) (a : Word) (n : Nat) : Option (List Byte) :=
  match s.hartPlace a n with
  | some p => if (s.badMem p n).isSome then none else some (s.readMem p n)
  | none => none

/-- Finsin writes CAPT or TENANT of a core (R348, R372); none where the number is another's. -/
def hartCsr (s : State) (c n : Nat) (w : Word) : Option State :=
  match n with
  | 0x040 => some (s.updCore c fun x => { x with capt := w })
  | 0x041 => some (s.updCore c fun x => { x with sv := w.getLsbD 7, assigned := w.getLsbD 6, tenant := w.toNat % 16 })
  | _ => none

/-- Write bytes for a hart, to device memory or, whole, to CAPT or TENANT; none where the access faults. -/
def hartWrite (s : State) (a : Word) (d : List Byte) : Option State :=
  match s.hartPlace a d.length with
  | some p => some (s.writeMem p d)
  | none =>
    match s.resolve a.toNat with
    | .csr c o => if a.toNat < 2 ^ 56 ∧ o % 8 = 0 ∧ d.length = 8 then s.hartCsr c (o / 8) (BitVec.ofNat 64 (leNat d)) else none
    | _ => none

/-! ## Execution -/

/-- Hart k goes on after an instruction of n bytes. -/
def hartNext (s : State) (k n : Nat) : State := s.updHart k fun h => { h with pc := h.pc + BitVec.ofNat 64 n }

/-- The result of an instruction, or the exception where it has none. -/
def hartPut (s : State) (k n rd word : Nat) (r : Option Word) : State :=
  match r with
  | some v => (s.putX k rd v).hartNext k n
  | none => s.hartIllegal k word

/-- A load of 2 to the f3 % 4 bytes. -/
def hartLoad (s : State) (k n rd f3 word : Nat) (a : Word) : State :=
  if f3 = 7 then s.hartIllegal k word
  else
    let len := 2 ^ (f3 % 4)
    match s.hartRead a len with
    | some d => (s.putX k rd (if f3 < 4 then rvSext (8 * len) (leNat d) else BitVec.ofNat 64 (leNat d))).hartNext k n
    | none => s.hartTrap k 5 a

/-- A store. -/
def hartStore (s : State) (k n f3 word : Nat) (a w : Word) : State :=
  if 4 ≤ f3 then s.hartIllegal k word
  else
    match s.hartWrite a (leBytes (2 ^ f3) (w.toNat % 256 ^ (2 ^ f3))) with
    | some s' => s'.hartNext k n
    | none => s.hartTrap k 7 a

/-- LR, SC and the AMOs on a word of len bytes. The reservation holds while the bytes are those that LR read. -/
def hartAmo (s : State) (k n rd f5 len word : Nat) (a b : Word) : State :=
  let put := fun (s : State) (d : Nat) => (s.putX k rd (rvSext (8 * len) d)).hartNext k n
  if a.toNat % len ≠ 0 then s.hartTrap k (if f5 = 2 then 4 else 6) a
  else
    match s.hartRead a len with
    | none => s.hartTrap k (if f5 = 2 then 5 else 7) a
    | some d =>
      let old := leNat d
      if f5 = 2 then put (s.updHart k fun h => { h with resv := some (a.toNat, d) }) old
      else if f5 = 3 then
        let ok := (s.hart k).resv == some (a.toNat, d)
        let s' := s.updHart k fun h => { h with resv := none }
        if ok then put ((s'.hartWrite a (leBytes len (b.toNat % 256 ^ len))).getD s') 0 else put s' 1
      else
        match rvAmo f5 (BitVec.ofNat (8 * len) old) (BitVec.ofNat (8 * len) b.toNat) with
        | some v =>
          (match s.hartWrite a (leBytes len v.toNat) with
           | some s' => put s' old
           | none => s.hartTrap k 7 a)
        | none => s.hartIllegal k word

/-- The accesses to machine-mode registers. -/
def hartCsrOp (s : State) (k n w : Nat) : State :=
  let num := rvBits w 20 12
  let rs1 := rvBits w 15 5
  let op := rvBits w 12 2
  let src := if rvBits w 14 1 = 1 then BitVec.ofNat 64 rs1 else s.hartX k rs1
  let writes := op = 1 ∨ rs1 ≠ 0
  match (s.hart k).readCsr k num with
  | none => s.hartIllegal k w
  | some old =>
    if writes ∧ 0xC00 ≤ num then s.hartIllegal k w
    else
      let v := match op with
        | 1 => src
        | 2 => old ||| src
        | _ => old &&& ~~~src
      let s := if writes then s.updHart k fun h => h.writeCsr num v else s
      (s.putX k (rvBits w 7 5) old).hartNext k n

/-- ECALL, EBREAK, MRET, WFI and the accesses to machine-mode registers. WFI goes on at once, as the architecture lets it. -/
def hartSystem (s : State) (k n w : Nat) : State :=
  if rvBits w 12 3 = 0 then
    if w = 0x00000073 then s.hartTrap k 11 0
    else if w = 0x00100073 then s.hartTrap k 3 (s.hart k).pc
    else if w = 0x30200073 then
      s.updHart k fun h =>
        { h with pc := h.mepc
                 mstatus := (h.mstatus &&& ~~~0x88#64) ||| 0x1880#64 ||| (if h.mstatus.getLsbD 7 then 8#64 else 0) }
    else if w = 0x10500073 then s.hartNext k n
    else s.hartIllegal k w
  else if rvBits w 12 2 = 0 then s.hartIllegal k w
  else s.hartCsrOp k n w

/-- Hart k executes a whole word that takes n bytes of instruction memory; `word` is what an exception reports. -/
def hartExec (s : State) (k n w word : Nat) : State :=
  let h := s.hart k
  let rd := rvBits w 7 5
  let f3 := rvBits w 12 3
  let f7 := rvBits w 25 7
  let a := s.hartX k (rvBits w 15 5)
  let b := s.hartX k (rvBits w 20 5)
  let put := s.hartPut k n rd word
  match w % 128 with
  | 0x37 => put (some (rvImmU w))
  | 0x17 => put (some (h.pc + rvImmU w))
  | 0x6F => (s.putX k rd (h.pc + BitVec.ofNat 64 n)).updHart k fun h => { h with pc := h.pc + rvImmJ w }
  | 0x67 =>
    if f3 ≠ 0 then s.hartIllegal k word
    else (s.putX k rd (h.pc + BitVec.ofNat 64 n)).updHart k fun h => { h with pc := (a + rvImmI w) &&& ~~~1#64 }
  | 0x63 =>
    match rvBranch f3 a b with
    | some true => s.updHart k fun h => { h with pc := h.pc + rvImmB w }
    | some false => s.hartNext k n
    | none => s.hartIllegal k word
  | 0x03 => s.hartLoad k n rd f3 word (a + rvImmI w)
  | 0x23 => s.hartStore k n f3 word (a + rvImmS w) b
  | 0x13 => put (rvOpImm w a)
  | 0x1B => put (rvOpImm32 w a)
  | 0x33 => put (rvOp f3 f7 a b)
  | 0x3B => put (rvOp32 f3 f7 a b)
  | 0x0F => if f3 = 0 then s.hartNext k n else s.hartIllegal k word
  | 0x2F =>
    if (f3 = 2 ∨ f3 = 3) ∧ (f7 / 4 = 2 → rvBits w 20 5 = 0) then s.hartAmo k n rd (f7 / 4) (2 ^ f3) word a b
    else s.hartIllegal k word
  | 0x73 => s.hartSystem k n w
  | _ => s.hartIllegal k word

/-- Hart k executes the base instruction at its pc. -/
def hartBase (s : State) (k : Nat) : State :=
  let pc := (s.hart k).pc
  if 0x40000 ≤ pc.toNat then s.hartTrap k 1 pc
  else
    let w := s.fw.imem.nat pc.toNat 4
    if w % 4 = 3 then s.hartExec k 4 w w
    else
      match rvExpand (w % 0x10000) with
      | some x => s.hartExec k 2 x (w % 0x10000)
      | none => s.hartIllegal k (w % 0x10000)

end State

end Sys2Proof.Machine
end

