-- ==== Sys2Proof/Machine/Schedule.lean ====
section
/-! DEFINITION. What a step does next: the inputs that have arrived, the work that the last events have made due, the events that
can happen, the bundle a core issues (R38, R61 to R63, R100, R404), the word a hart issues (R372, R373), and the clock. Log entries 2,
7, 8, 9 and 22. -/

namespace Sys2Proof.Machine

open Sys2Proof

/-! ## Inputs (DESIGN CHOICE, log entry 9) -/

/-- What the outside does to the package. DESIGN CHOICE, log entry 1. -/
def isInput : Instr → Bool
  | .powerOn | .lossOfMainPower | .packageReset | .segmentArrival _ _ | .retransmitRequest _ _ | .keyExchangeComplete
  | .portSpareReplacement _ _ | .apertureWrite _ _ _ _ | .apertureRead _ _ _ | .queueKick _ _ _ | .scaleoutDoorbell _ _
  | .mberrClear _ _ | .tlbinvWrite _ | .ethernetPortConfigWrite _ _ _ | .regionTableWrite _ _ _ | .bar0RegisterWrite _ _ _
  | .rdmaRequestArrival _ _ | .rdmaAckArrival _ _ | .rdmaNakArrival | .queueTableUe _ _ | .slotUncorrectableError
  | .debugauth _ _ _ _ _ | .attest _ _ _ | .idchal _ | .identityStoreRead _ | .pldmFirmwareUpdate _ | .acceptmin _ | .evict _
  | .getstate | .provision | .setpowerRetention | .setpowerActive | .setpowerOff | .debugchal | .idread | .pldmMonitor
  | .evstat | .clearEv | .neighbourAccept | .neighbourRefuse | .moveConfirmation | .routesDrained | .evictionLinkFailure
  | .debugHalt | .debugAccess _ _ | .evictionRequestReceived _ | .packageAbsentAcknowledge _ | .positionBroughtUp _ => true
  | _ => false

namespace State

/-- The event i about the unit or item k. -/
def event (s : State) (k : Nat) (i : Instr) : Host.Outcome State Fault Refusal := exec i { s with subj := k }

/-- The oldest input happens. -/
def takeInput (s : State) (k : Nat) (i : Instr) : Host.Outcome State Fault Refusal :=
  if isInput i then s.event k i else .next s

/-! ## Events that can happen (DESIGN CHOICE, log entry 2) -/

/-- The state that an event of the package's own gives, where it can happen. -/
def occurs (i : Instr) (s : State) : Option State :=
  match i with
  | .atomicEngineTake => occAtomicEngineTake s
  | .waitgenRepresent => occWaitgenRepresent s
  | .atomicResponse => occAtomicResponse s
  | .messageSend => occMessageSend s
  | .messageArrival => occMessageArrival s
  | .deliveryAcknowledgement => occDeliveryAcknowledgement s
  | .creditReturn => occCreditReturn s
  | .rawMessageArrival => occRawMessageArrival s
  | .copyOperationStart => occCopyOperationStart s
  | .copyCompletion => occCopyCompletion s
  | .userInterruptTake => occUserInterruptTake s
  | .rekeyStart => occRekeyStart s
  | .portStop => occPortStop s
  | .stewynIngressAccept => occStewynIngressAccept s
  | .qcmdEnable => occQcmdEnable s
  | .qcmdDisable => occQcmdDisable s
  | .watchReread => occWatchReread s
  | .hartTakeSlot => occHartTakeSlot s
  | .nodeRetire => occNodeRetire s
  | .managerMap => occManagerMap s
  | .queueAging => occQueueAging s
  | .imemUeRecovery => occImemUeRecovery s
  | .firmwareHalt => occFirmwareHalt s
  | .decodeTableReplace => occDecodeTableReplace s
  | .stripArrival => occStripArrival s
  | .haloTimeout => occHaloTimeout s
  | .meridianSend => occMeridianSend s
  | .tlbInvalidationComplete => occTlbInvalidationComplete s
  | .queuePairEnable => occQueuePairEnable s
  | .queuePairDisable => occQueuePairDisable s
  | .sendRingPoll => occSendRingPoll s
  | .swaptPairComplete => occSwaptPairComplete s
  | .matrixQueueEntry => occMatrixQueueEntry s
  | .latchArrival => occLatchArrival s
  | .mcmdArrival => occMcmdArrival s
  | .meanPairReplace => occMeanPairReplace s
  | .lineFetchComplete => occLineFetchComplete s
  | .resultReady => occResultReady s
  | .portAcceptance => occPortAcceptance s
  | .bankAcknowledgement => occBankAcknowledgement s
  | .routeAcknowledgement => occRouteAcknowledgement s
  | .windowRegisterWrite => occWindowRegisterWrite s
  | .loadReply => occLoadReply s
  | .receiptArrival => occReceiptArrival s
  | .pageWalkComplete => occPageWalkComplete s
  | .migArrival => occMigArrival s
  | .migQueuePlacement => occMigQueuePlacement s
  | .migReturn => occMigReturn s
  | .guestReturnHome => occGuestReturnHome s
  | .recall => occRecall s
  | .dieIdleEntry => occDieIdleEntry s
  | .dieWake => occDieWake s
  | .drainingDone => occDrainingDone s
  | .evictionTimeout => occEvictionTimeout s
  | .streamVectorFetch => occStreamVectorFetch s
  | .channelSlotPublish => occChannelSlotPublish s
  | .faultMessageDelivery => occFaultMessageDelivery s
  | .dispenserPlacement => occDispenserPlacement s
  | .pipeStageRelease => occPipeStageRelease s
  | .graphWalkerReceive => occGraphWalkerReceive s
  | .copyNodeLaunch => occCopyNodeLaunch s
  | .taskStart => occTaskStart s
  | .collectiveOccupancyUpdate => occCollectiveOccupancyUpdate s
  | .activate => occActivate s
  | .invalidate => occInvalidate s
  | .preempt => occPreempt s
  | .restore => occRestore s
  | .destroy => occDestroy s
  | .followerBundle => occFollowerBundle s
  | .tileAdditionsLand => occTileAdditionsLand s
  | .contributionExamine => occContributionExamine s
  | _ => none

/-- Can the event happen? -/
def enabled (s : State) (e : Nat × Instr) : Bool := (occurs e.2 { s with subj := e.1 }).isSome

/-- The keys of the threads that the state lists. -/
def threadKeys (s : State) : List Nat :=
  s.cores.flatMap fun (c : Nat × Core) => c.2.threads.map fun (h : Nat × Thread) => c.1 * 64 + h.1

def eachOf (ks : List Nat) (is : List Instr) : List (Nat × Instr) := ks.flatMap fun k => is.map fun i => (k, i)

def threadEvents (s : State) : List (Nat × Instr) :=
  eachOf s.threadKeys [.lineFetchComplete, .resultReady, .taskStart, .pageWalkComplete, .haloTimeout, .userInterruptTake]

def accessEvents (s : State) : List (Nat × Instr) :=
  eachOf (s.issued.map fun (a : Access) => a.id) [.portAcceptance] ++
  s.flight.flatMap fun (a : Access) => match a.kind with
    | .load _ => [(a.id, .loadReply)]
    | .store _ | .masked _ => [(a.id, .bankAcknowledgement), (a.id, .windowRegisterWrite)]
    | .atomic _ =>
      [(a.id, .atomicResponse), (a.id, .waitgenRepresent)] ++
      (match engineOf a.place with
       | some e => [(e, .atomicEngineTake)]
       | none => [])

/-- What takes a message at its unit. -/
def takers : NetMsg → List Instr
  | .store .. | .masked .. | .atomic .. | .copyRead .. => []
  | .routeAck .. => [.routeAcknowledgement]
  | .bankAck .. => [.bankAcknowledgement]
  | .atomicAns .. => [.atomicResponse]
  | .contribution .. => [.contributionExamine]
  | .receipt .. => [.receiptArrival]
  | .mcmd .. => [.mcmdArrival]
  | .mig .. => [.migArrival, .migReturn]
  | .goHome .. => [.migReturn, .guestReturnHome]
  | .recall .. => [.recall]
  | .strip .. => [.stripArrival]
  | .cmsg .. => [.messageArrival]
  | .delivered .. => [.deliveryAcknowledgement]
  | .credit .. => [.creditReturn]
  | .raw .. => [.rawMessageArrival]
  | .faultMsg .. => [.faultMessageDelivery]
  | .copyData .. => [.loadReply]

def messageEvents (s : State) : List (Nat × Instr) :=
  s.net.flatMap (fun (m : NetItem) => (takers m.msg).map fun i => (m.id, i)) ++
  s.ingress.map fun (i : IngressItem) => (i.id, .stewynIngressAccept)

/-- The units of the cores that the state lists. -/
def coreEvents (s : State) : List (Nat × Instr) :=
  s.cores.flatMap fun (c : Nat × Core) =>
    eachOf [c.1] [.matrixQueueEntry, .latchArrival, .decodeTableReplace, .meanPairReplace, .messageSend, .swaptPairComplete] ++
    eachOf (c.2.q.map fun (q : Nat × Stream) => c.1 * 8 + q.1) [.channelSlotPublish, .streamVectorFetch] ++
    eachOf (c.2.copy.queues.map fun (q : Nat × List CopyOp) => c.1 * 8 + q.1) [.copyOperationStart, .copyCompletion] ++
    eachOf (c.2.tiles.slots.map fun (t : Nat × TileSlot) => c.1 * 32 + t.1) [.tileAdditionsLand]

def dieEvents (s : State) : List (Nat × Instr) :=
  eachOf (List.range 8) [.graphWalkerReceive, .copyNodeLaunch, .pipeStageRelease, .collectiveOccupancyUpdate, .migQueuePlacement,
    .dieIdleEntry, .dieWake] ++
  s.dies.flatMap fun (d : Nat × Die) => d.2.disp.map fun (q : Nat × List DispItem) => (d.1 * 32 + q.1, .dispenserPlacement)

def hostEvents (s : State) : List (Nat × Instr) :=
  eachOf (s.host.map fun (h : HostItem) => h.fn).eraseDups [.meridianSend] ++
  eachOf (s.fns.map fun (f : Nat × Fn) => f.1) [.tlbInvalidationComplete] ++
  eachOf (s.qps.map fun (q : Nat × Qp) => q.1) [.queuePairEnable, .queuePairDisable, .sendRingPoll] ++
  eachOf (s.ports.map fun (p : Nat × Port) => p.1) [.rekeyStart, .portStop]

def firmwareEvents (s : State) : List (Nat × Instr) :=
  eachOf [0] [.qcmdEnable, .qcmdDisable, .nodeRetire, .managerMap, .imemUeRecovery, .firmwareHalt, .evictionTimeout, .drainingDone] ++
  eachOf (List.range 16) [.activate, .preempt, .restore, .destroy, .invalidate] ++
  eachOf (s.fw.queues.map fun (q : Nat × Queue) => q.1) [.queueAging] ++
  eachOf (s.fw.harts.map fun (h : Nat × Hart) => h.1) [.hartTakeSlot, .watchReread]

/-- The events that may be about to happen, the oldest accesses first. DESIGN CHOICE, log entry 46. -/
def candidates (s : State) : List (Nat × Instr) :=
  s.threadEvents ++ s.accessEvents ++ s.messageEvents ++ s.coreEvents ++ s.dieEvents ++ s.hostEvents ++ s.firmwareEvents

/-- The events that can happen now; none while main power is off. -/
def pendingEvents (s : State) : List (Nat × Instr) := if s.powered then s.candidates.filter s.enabled else []

/-- Must an event that can happen do so now: its time is a figure of the spec (R64, R95, R214, R263, R272, R370, R373, R379, R395)? -/
def urgent (s : State) (e : Nat × Instr) : Bool :=
  match e.2 with
  | .haloTimeout | .meanPairReplace | .latchArrival | .collectiveOccupancyUpdate | .sendRingPoll | .watchReread | .queueAging
  | .evictionTimeout => true
  | .lineFetchComplete => (s.thr e.1).lastIssue.any (fun c => decide (c + 8 ≤ s.cycOf (e.1 / 64))) ||
      s.since.any fun x => x.1 == e && decide (x.2 + 8 ≤ s.now)
  | _ => false

/-- Has an event been possible for as long as anything may take: what can complete does so in bounded time (R406)? -/
def overdue (s : State) (e : Nat × Instr) : Bool := s.since.any fun x => x.1 == e && decide (x.2 + Config.latest ≤ s.now)

/-- The event that happens in this step: one whose time has come; else State.sched names its place in the list, the first where it names
none; a place beyond the list leaves for later what is not overdue. DESIGN CHOICE, log entry 46. -/
def nextEvent (s : State) : Option (Nat × Instr) :=
  let l := s.pendingEvents
  ((l.find? s.urgent).or l[s.sched.headD 0]?).or (l.find? s.overdue)

/-- The cycle ends: the events that can happen, each with the time since when. -/
def stillPending (s : State) : State :=
  { s with since := s.pendingEvents.map fun e => (e, ((s.since.find? fun x => x.1 == e).map (·.2)).getD s.now) }

/-! ## Bundles -/

/-- The heads of the bundle at a PC of a line: one, or the two of a pair (R36). -/
def bundleHeads (l : Line) (pc : Nat) : List (Head × Nat) :=
  let i := pc % 64 / 2
  if headP (l.unit i) then [(headOf (l.unit i), l.tail i), (headOf (l.unit (i + 1)), l.tail (i + 1))]
  else [(headOf (l.unit i), l.tail i)]

/-- The first of a bundle's heads that a check fails. -/
def firstBad (r : List (Except DecErr Instr)) (e : DecErr) : Bool := r.any fun x => match x with | .error f => f == e | _ => false

def okOf (r : List (Except DecErr Instr)) : List Instr := r.filterMap fun x => match x with | .ok i => some i | _ => none

/-- The operations of a bundle, or the first of checks 1 to 5 of R38 that it fails. A single head of an unassigned opcode or a
reserved SUB is an operation of its own (R60). -/
def checkBundle (s : State) : List (Head × Nat) → Except FaultRec (List Instr)
  | [(h, t)] =>
    match decodeHead h t with
    | .ok i => .ok [i]
    | .error _ => .error (illegal subTAILFIELD)
  | hs =>
    let r := hs.map fun h => decodeOp h.1.opc h.1.sub h.1.tl h.2
    if firstBad r .opcode then .error (illegal subOPCODE)
    else if firstBad r .subcode then .error (illegal subSUBCODE)
    else if firstBad r .tailfield || (okOf r).any fun i => (usesN i && decide (s.cur % 64 ≠ 63)) || tailBad i then .error (illegal subTAILFIELD)
    else
      match okOf r with
      | [a, b] =>
        if (dests a).any (dests b).contains then .error (illegal 0x07)
        else if !s.windowsOk a || !s.windowsOk b then .error regwin
        else .ok [a, b]
      | l => .ok l

/-- The registers that the decodable heads of a bundle read and write. -/
def bundleOps (hs : List (Head × Nat)) : List Instr := okOf (hs.map fun h => decodeHead h.1 h.2)

/-- The stream registers that an operation names. -/
def namesQ (i : Instr) : List Nat :=
  qIn i ++ qOut i ++ (match i with
    | .sbind q _ | .sfree q | .sstatMask _ q | .sstatPosition _ q => [q.toNat]
    | _ => [])

/-- Does MMA or MMAS take its stream from a register that the other half names (R138)? -/
def streamClash (i other : Instr) : Bool :=
  match mmaStreamQ i with
  | some q => (namesQ other).contains q
  | none => false

/-- The rank of a half among the accesses of its bundle: what reads comes before what writes (R27). -/
def halfRank : Instr → Nat
  | .swapt .. | .tread .. => 1
  | .st .. | .stSig .. | .stv .. | .stx .. | .spillG .. | .spillV .. | .gst .. | .amo .. | .cas .. | .amof .. | .join .. | .leave ..
  | .arrive .. | .arriveBytes .. | .waitgen .. | .ldfe .. | .stfe .. | .stff .. => 2
  | _ => 0

/-- What is kept of the issue of the pair a, b that the thread executes. -/
def pairIssue (s : State) (a b : Instr) : Issue := s.began.getD (s.issueNow s.ck [a, b])

/-- One half of a pair, at its place among the accesses of the bundle. -/
def half (i other : Instr) (s : State) : Host.Outcome State Fault Refusal :=
  if streamClash i other then .next (s.fault (streamF 0 0))
  else
    let was := s.pairIssue i other
    exec i { s with began := some { was with place := was.place + halfRank i } }

/-- Has the executing thread left the bundle: departed to another package (R306)? -/
def bundleDeparts (s : State) : Bool :=
  match s.my.st with
  | .away | .empty => true
  | _ => false

/-- Does half i, of which x is what comes of it, fault? A guest that is killed has left its slot (R38, R312, R340). -/
def halfFaults (s x : State) (i : Instr) : Bool := isStopped x.my || (s.guard i).isSome

/-- Is the bundle not issued, for a stream or the queue of the matrix unit? -/
def bundleUnissued (s : State) : Bool := !isStopped s.my && s.my.wait == [.issue]

/-- Does it wait for the page walker (R119)? -/
def bundleWalks (s : State) : Bool :=
  !isStopped s.my && s.my.wait.any fun w => match w with | .walk _ _ _ => true | _ => false

/-- Does it wait for a condition of its own, all checks passed? -/
def bundleAgain (s : State) : Bool := !isStopped s.my && s.my.wait.any Wait.isOwn

/-- Of two waits of the halves of a pair, is the first the one to wait for: the half that has done nothing yet, and before a place at
the port is kept? -/
def waitsFirst (a b : State) : Bool := decide (b.my.wait.length > 1) || (decide (a.my.wait.length ≤ 1) && b.my.wait == [.port])

/-- The state that an outcome of a bundle operation gives, which is always a next state. -/
def after' (s : State) : Host.Outcome State Fault Refusal → State
  | .next s' => s'
  | _ => s

/-- Does an answer that half i awaits in state x come with a fault perhaps (R404)? -/
def isLate (x : State) (i : Instr) : Bool := answersLate i && x.my.wait != []

/-- May the effects of an operation that answers late, or of its unit, be undone until the other half has its answer: it waits for a partner
or for vectors at the matrix unit? -/
def undoable : Instr → Bool
  | .swapt .. | .mmaStream .. | .mmasK16Stream .. | .mmasK8Stream .. => true
  | _ => false

/-- Does an operation that answers late only read? -/
def onlyReads : Instr → Bool
  | .ld .. | .ldv .. | .ldx .. | .fillG .. | .fillV .. | .ldff .. => true
  | _ => false

/-- Does an operation only read what the core's units hold: its result is taken at the bundle's place? -/
def readsUnits : Instr → Bool
  | .gld .. | .gstat .. | .cpstat .. | .ldt .. | .tstat .. | .tpeek .. | .csrr .. => true
  | _ => false

/-- The result of an operation that only reads what the core's units hold, for register r; x is the state that it gives. -/
def unitResult (s x : State) (i : Instr) (r : RegRef) : Late :=
  let ready := (x.my.pend.findSome? fun m => if m.reg == r then some m.ready else none).getD none
  match r, i with
  | .g n, _ => { reg := r, val := (FMap.get 0 (x.core s.ck).gfile (s.me.gbase * 8 + n)).setWidth 4096, ready := ready }
  | .v n, _ => { reg := r, val := FMap.get 0 (x.core s.ck).vfile (s.me.vbase * 4 + n), ready := ready }
  | _, .gld _ _ b c _ =>
    let (cx, cy, cz, n) := coords (s.rdG c)
    { reg := r, ready := none
      val := match s.gridAt s.ck (s.rdG b).toNat with
        | some g => gldValue s.rd.ab g.desc cx cy cz n
        | none => 0 }
  | _, _ => { reg := r, val := 0, ready := none }

/-- The blocks of ULM that half i reads at the bundle's place: it reads nothing of what the other half, or a later bundle, writes (R27,
R398). -/
def ulmBlocks (s : State) (i : Instr) : List (Nat × Nat) :=
  match i with
  | .mcmd _ _ c => [((s.rdG c).toNat, 64)]
  | .dtld _ a _ => [((s.rdG a).toNat, 1024)]
  | .qtld _ a _ => [((s.rdG a).toNat, 2240)]
  | .sbind _ b => [((s.rdG b).toNat, 64)]
  | .gdecl a => [((s.rdG a).toNat, 128)]
  | .mmaStream .. | .mmaAb .. | .mmasK16Stream .. | .mmasK16Ab .. | .mmasK8Stream .. | .mmasK8Ab .. =>
    if s.scalesNow false then (sclBlock s.me.scla).toList ++ (sclBlock s.me.sclb).toList else []
  | _ => []

/-- Half i is withheld in state x, which the other half has given: it is executed when that has its answer (R404). What it only reads of the
core's units, or of ULM, it has read at its place in state s; the horizon of an acquire is waited for as well (R148). -/
def withhold (s x : State) (i other : Instr) (trial : State) : State :=
  if readsUnits i then
    x.updThr s.cur fun h => { h with late := h.late ++ (dests i).map (unitResult s trial i)
                                     wait := h.wait ++ trial.my.wait.filter fun w => match w with | .horizon _ => true | _ => false }
  else
    let was := s.pairIssue i other
    let s := { s with began := some was }
    x.updThr s.cur fun h => { h with withheld := some i, blocks := (s.ulmBlocks i).map fun b => (b.1, s.ulmBlock b.1 b.2) }

/-- What the executing thread has under way at the matrix unit waits for the bundle's other half (R404). -/
def holdMatrix (s : State) : State :=
  match s.my.wait.findSome? fun w => match w with | .unit id => some id | _ => none with
  | none => s
  | some id =>
    (s.updCore s.ck fun c => { c with mx := { c.mx with
        queue := c.mx.queue.map fun e => if e.id = id then { e with hold := true } else e
        swaps := c.mx.swaps.map fun w => if w.id = id then { w with hold := true } else w } }).updThr s.cur fun h =>
      { h with holding := some id }

/-- Has a load of the bundle, in state x, been issued to the core's own AB? -/
def readsAb (s x : State) : Bool :=
  x.issued.any fun a => decide (s.nextId ≤ a.id) && (match a.kind, a.place with
    | .load _, .buf c .ab _ => c == s.ck
    | _, _ => false)

/-- The two halves that can be executed now, as the states sa and sb that each gives: both read the registers, and the buffers, as at the
issue (R27). Where one still awaits an answer that may be a fault, the other's effects wait for it; where both do, a half that only reads
comes first, and what a half has under way at the matrix unit is held until the other has its answer (R404). DEDUCED, log entry 96. -/
def runHalves (s sa sb : State) (a b : Instr) : State :=
  let la := isLate sa a
  let lb := isLate sb b
  if lb && undoable b && !(la && onlyReads a) then
    (if readsUnits a then withhold s sb a b sa else withhold s sb.holdMatrix a b sa)
  else if la && undoable a && !(lb && onlyReads b) then
    (if readsUnits b then withhold s sa b a sb else withhold s sa.holdMatrix b a sb)
  else if la && (onlyReads a || !lb || !onlyReads b) then withhold s sa b a sb
  else if lb then withhold s sb a b sa
  else if (halfRank b == 1 && s.readsAb sa) then withhold s sa b a sb
  else if (halfRank a == 1 && s.readsAb sb) then withhold s sb a b sa
  else
    let then' := fun (x : State) (i other : Instr) =>
      s.after' (half i other { x with snap := some s.rd, began := some (s.pairIssue a b), second := true })
    if halfRank a ≤ halfRank b then then' sa b a else then' sb a b

/-- A pair. One of which a half may not be issued yet is not issued (R138, R199). A fault of either half leaves the other undone (R8), the
first half's before the second's; then the pair waits until neither half has a condition of its own to wait for, and no half has an effect
before that (R404). -/
def runPair (s : State) (a b : Instr) : State :=
  let sa := s.after' (half a b s)
  let sb := s.after' (half b a s)
  if bundleUnissued sa ∨ bundleUnissued sb then s.unissued
  else if halfFaults s sa a ∨ bundleWalks sa then sa
  else if halfFaults s sb b ∨ bundleWalks sb then sb
  else if bundleAgain sa ∧ (bundleAgain sb → waitsFirst sa sb) then sa
  else if bundleAgain sb then sb
  else if bundleDeparts sa then sa
  else if bundleDeparts sb then sb
  else s.runHalves sa sb a b

/-- The operations of one bundle of the executing thread. -/
def runOps (s : State) : List Instr → Host.Outcome State Fault Refusal
  | [] => .next s
  | [i] => exec i s
  | a :: b :: _ => .next (s.runPair a b)

/-- A grid load that parks again has been parked since it first did (R272). -/
def keepSince (old new : List Wait) : List Wait :=
  new.map fun w => match w with
    | .grid d c => (old.findSome? fun v => match v with | .grid d' c' => if d' = d then some (Wait.grid d c') else none | _ => none).getD
        (.grid d c)
    | w => w

/-- A QRED occupies the mean unit for 8 cycles from its issue (R254). -/
def occupyMean (s : State) (t : Nat) (i : Issue) : State :=
  if i.ops.any fun x => match x with | .qred .. => true | _ => false then
    s.updCore (t / 64) fun c => { c with means := { c.means with free := max c.means.free (i.cycle + 8) } }
  else s

/-- The bundle of issue i has been executed on thread t as far as it goes: it retires unless it waits. -/
def finishBundle (s : State) (t : Nat) (old : List Wait) (i : Issue) : State :=
  (((s.settled.updThr t fun h => { h with wait := keepSince old h.wait }).occupyMean t i).keepIssue t i).retire t

/-- Thread t executes the bundle of issue i. -/
def runBundle (s : State) (t : Nat) (old : List Wait) (i : Issue) : Host.Outcome State Fault Refusal :=
  match s.runOps i.ops with
  | .next s' => .next (s'.finishBundle t old i)
  | o => o

/-! ## Issue (R61 to R63, R100, R101) -/

/-- Is any register of the operations pending for thread t? -/
def opsPending (s : State) (t : Nat) (l : List Instr) : Bool :=
  l.any fun i => (sources i ++ dests i).any ((s.thr t).pendingAt (s.cycOf (t / 64)))

/-- Thread t begins to issue the bundle of heads at its PC: its next PC is the next bundle's (R40). -/
def beginIssue (s : State) (t : Nat) (l : Line) : State :=
  let c := s.cycOf (t / 64)
  let s := s.updThr t fun h =>
    { h with st := .run, wait := [], npc := BitVec.ofNat 64 (l.nextPc h.pc.toNat), lastIssue := some c }
  let s := s.updCore (t / 64) fun k => { k with issuedAt := some c }
  let s := if t % 64 = 63 then s.updDie (t / 64 / 512) fun d => { d with slot0 := d.slot0 + 1 } else s
  { s with cur := t, snap := none, began := none, second := false }

/-- A gang leader's bundle goes to its followers, over the hops between them (R100); a bundle of the leader's own does not. -/
def forward (s : State) (t : Nat) (l : List Instr) : State :=
  let h := s.thr t
  if h.grole ≠ 1 then s
  else
    let fwd := forwardable l
    if fwd.isEmpty then s.updThr t fun h => { h with gangLeft := [t] }
    else
      h.members.foldl (fun s m => s.updThr m fun g =>
          { g with pc := h.pc, npc := h.npc, forwarded := g.forwarded ++ [(s.cycOf (m / 64) + hops (t / 64 % 16) (m / 64 % 16), fwd)] })
        (s.updThr t fun h => { h with gangLeft := t :: h.members })

/-- Does a lone operation fail one of checks 1 to 5 of R38 itself, so that its bundle never issues? -/
def failsAlone (s : State) : List Instr → Bool
  | [.unassignedOpcode _ _] => true
  | [i] => (usesN i && decide (s.cur % 64 ≠ 63)) || tailBad i || !s.windowsOk i
  | _ => false

/-- Is thread t parked on a bundle that is not issued (R136, R138, R199)? -/
def isUnissued (s : State) (t : Nat) : Bool := (s.thr t).wait == [.issue] && !isStopped (s.thr t)

/-- Thread t issues the bundle at its PC. A leader forwards only a bundle that has passed checks 1 to 5 of R38 (R44, R100). Where the bundle
may not be issued, the thread is parked and nothing else happens. -/
def issue (s : State) (t : Nat) : Host.Outcome State Fault Refusal :=
  match (s.thr t).line with
  | none => .next s
  | some l =>
    let s1 := s.beginIssue t l
    let alone := fun (s : State) => if (s.thr t).grole = 1 then s.updThr t fun h => { h with gangLeft := [t] } else s
    match s1.checkBundle (bundleHeads l (s.thr t).pc.toNat) with
    | .error f => .next ((alone s1).fault f)
    | .ok ops =>
      match ((if s1.failsAlone ops then alone s1 else s1.forward t ops)).runBundle t [] (s1.issueNow (t / 64) ops) with
      | .next s' => .next (if s'.isUnissued t then s.updThr t fun h => { h with st := .parked, wait := [.issue] } else s')
      | o => o

/-- Does an operation find its streams, and the queue of the matrix unit, such that it may be issued (R136, R138, R199)? -/
def mayIssue (s : State) (i : Instr) : Bool :=
  ((qIn i).all fun n => match s.stream n with
    | some st => atEnd st || st.fetched != []
    | none => true) &&
  ((qOut i).all fun n => (s.stream n).all channelRoom) && !(uses .matrix i && s.mxFull s.ck 1)

/-- May thread t, which is parked on a bundle that is not issued, issue the operations l? -/
def issuable (s : State) (t : Nat) (l : List Instr) : Bool :=
  l.all ({ s.settled with cur := t } : State).mayIssue

/-- The wait of thread t after an outcome. -/
def waitAfter (t : Nat) : Host.Outcome State Fault Refusal → Option (List Wait)
  | .next s => if isStopped (s.thr t) then some [] else some (s.thr t).wait
  | _ => none

/-- Does thread t wait for nothing but a condition of its bundle's own? -/
def ownWaits (s : State) (t : Nat) : Bool := decide ((s.thr t).wait ≠ []) && (s.thr t).wait.all Wait.isOwn

/-- The bundle of thread t, which waits for a condition of its own, is executed as at its issue, where it would go on. A grid load whose time
is over does not (R272). -/
def goesOn (s : State) (t : Nat) : Option (Host.Outcome State Fault Refusal) :=
  let h := s.thr t
  match h.issue, s.haloExpired t with
  | some i, none =>
    let o := ((s.updThr t fun h => { h with st := .run, wait := [] }).resume t i).runBundle t h.wait i
    if waitAfter t o != some h.wait then some o else none
  | _, _ => none

/-- Is an operation one of the mean unit (R254)? -/
def usesMean : Instr → Bool
  | .qclr .. | .qacc .. | .qmerge .. | .qred .. | .qfin .. => true
  | _ => false

/-- Does a QRED still occupy the mean unit that an operation needs (R254)? -/
def meanBusy (s : State) (ck : Nat) (l : List Instr) : Bool := l.any usesMean && decide (s.cycOf ck < (s.core ck).means.free)

/-- Has every member of the leader's gang executed its last bundle, and may all issue the next (R100)? -/
def gangReady (s : State) (t : Nat) (l : List Instr) : Bool :=
  let h := s.thr t
  decide (h.grole ≠ 1) ||
  (decide (h.gangLeft = []) && h.members.all fun m =>
    let g := s.thr m
    g.st == .run && g.wait == [] && g.forwarded == [] && g.due == [] && !s.opsPending m l && !s.meanBusy (m / 64) l)

/-- Is thread t home for a supervisor's instruction that now takes effect (R313, R344)?. DEDUCED, log entry 42. -/
def heldHome (s : State) (t : Nat) : Bool :=
  (s.thr t).wanted.any fun k => (s.thr k).st == .parked && s.ownWaits k && (s.goesOn k).isSome

/-- The operations of the bundle at the PC of thread t: none where it holds no line. -/
def nextOps (s : State) (t : Nat) : Option (List Instr) :=
  (s.thr t).line.map fun l => bundleOps (bundleHeads l (s.thr t).pc.toNat)

/-- Is thread t eligible in the present cycle of its core but for a refresh (R61)? -/
def unheld (s : State) (t : Nat) : Bool :=
  let h := s.thr t
  let c := s.cycOf (t / 64)
  match h.line with
  | none => false
  | some l =>
    let ops := bundleOps (bundleHeads l h.pc.toNat)
    h.st == .run && h.wait == [] && !h.unsettled && h.halting.isNone && h.arrived.isNone &&
    h.stopAsk.isNone && h.due == [] && decide (h.grole ≠ 2) && !uintReady h && decide ((s.tenant (s.tenantOf t)).stopping ≠ 2) &&
    (h.lastIssue.all fun n => decide (n + 8 ≤ c)) && decide (h.holdUntil ≤ c) && !s.opsPending t ops && !s.meanBusy (t / 64) ops &&
    s.gangReady t ops && !s.heldHome t

/-- Does the refresh of a register file hold thread t in the present cycle (R63)? -/
def refreshed (s : State) (t : Nat) : Bool := (s.nextOps t).any (refreshHolds (s.cycOf (t / 64)))

/-- May thread t issue in the present cycle of its core (R61)? -/
def eligible (s : State) (t : Nat) : Bool := !s.refreshed t && s.unheld t

/-- Threads 0 to 62 of core ck in the order in which they are candidates: ascending with wrap-around, after the last to issue (R61). -/
def rotation (s : State) (ck : Nat) : List Nat := (List.range 63).map fun i => ((s.core ck).lastThread + 1 + i) % 63

/-- The thread of core ck that a refresh holds before any other could issue, which keeps its place (R63). DEDUCED, log entry 35. -/
def placeKept (s : State) (ck : Nat) : Option Nat :=
  if s.cycOf ck % 32 ≠ 31 then none
  else ((s.rotation ck).find? fun n => s.unheld (ck * 64 + n)).filter fun n => s.refreshed (ck * 64 + n)

/-- The thread that counts as the last to issue on core ck: where a refresh holds one that would have come first, it is the first
candidate of the next cycle (R63); else the one that issues, or as before. -/
def lastAfter (s : State) (ck : Nat) (issues : Option Nat) : Nat :=
  match s.placeKept ck, issues with
  | some n, _ => (n + 62) % 63
  | none, some n => n
  | none, none => (s.core ck).lastThread

/-- What a core does in the present cycle. -/
inductive Turn where
  | thread (t : Nat)
  | follower (t : Nat)
  deriving DecidableEq, Repr

/-- Has core ck issued in the present cycle? -/
def hasIssued (s : State) (ck : Nat) : Bool :=
  (s.core ck).issuedAt == some (s.cycOf ck)

/-- The turn of core ck: thread 63 in slot 0, a follower whose bundle has come, or the next of the others (R61, R100); of
two followers that are due, the one of the lower thread number (DESIGN CHOICE, log entry 132). -/
def turn (s : State) (ck : Nat) : Option Turn :=
  if s.hasIssued ck then none
  else if s.cycOf ck % 8 = 0 ∧ s.eligible (ck * 64 + 63) then some (.thread (ck * 64 + 63))
  else
    match List.find? (fun (h : Nat × Thread) => s.enabled (ck * 64 + h.1, .followerBundle)) (s.core ck).threads with
    | some h => some (.follower (ck * 64 + h.1))
    | none =>
      ((s.rotation ck).find? fun n => s.eligible (ck * 64 + n)).map fun n => .thread (ck * 64 + n)

/-- The first core that has a turn, of the dies whose clocks run. -/
def nextTurn (s : State) : Option Turn :=
  if s.plat.power ≠ .active then none
  else s.cores.findSome? fun (c : Nat × Core) => if (s.die (c.1 / 512)).gated then none else s.turn c.1

/-- Thread t issues, and the order of its core goes on after it (R61, R63); thread 63 takes no part in that order. -/
def takeTurn (s : State) : Turn → Host.Outcome State Fault Refusal
  | .thread t =>
    (match s.issue t with
     | .next s' => .next (if t % 64 = 63 ∨ s'.isUnissued t then s'
       else s'.updCore (t / 64) fun c => { c with lastThread := s.lastAfter (t / 64) (some (t % 64)) })
     | o => o)
  | .follower t => s.event t .followerBundle

/-! ## Work that is due -/

/-- What thread t's bundle has under way at the matrix unit goes on, its other half having its answer (R404). -/
def release (s : State) (t id : Nat) : State :=
  let ck := t / 64
  let s := s.updThr t fun h => { h with holding := none }
  if (s.core ck).mx.swaps.any fun w => w.id == id then
    (s.updCore ck fun c => { c with mx := { c.mx with swaps := c.mx.swaps.map fun w => if w.id = id then { w with hold := false } else w } }).updThr
      t fun h => { h with wait := h.wait ++ [.unit id] }
  else
    match (s.core ck).mx.queue.find? fun e => e.id == id with
    | some e =>
      let s := s.updCore ck fun c => { c with mx := { c.mx with queue := c.mx.queue.map fun x => if x.id = id then { x with hold := false } else x } }
      (match e.op.streamOf with
       | some q => s.takeLent ck q
       | none => s)
    | none => s

/-- The half that waited for the other's answer is executed as at the bundle's issue. Its place is the bundle's; where the other half has
waited for something without bound, it is the present one. It stays withheld while it must still wait; when it has no answer to await, what
the other half has under way at the matrix unit goes on (R404). DEDUCED, log entry 96. -/
def runWithheld (s : State) (t : Nat) (i : Instr) : State :=
  let h := s.thr t
  let was := h.issue.getD (s.issueNow (t / 64) [i])
  let base := if h.wait = [] ∧ was.ops.any (fun x => x != i && waitsOpenly x) then s.nextId else was.place
  let was : Issue := { was with place := base }
  let s := ({ (s.updThr t fun h => { h with withheld := none, wait := [] }) with nextId := max s.nextId (base + bundlePlaces) } : State)
  let s := (s.after' (exec i (s.resume t { was with place := base + 3 }))).settled
  if isStopped (s.thr t) then s
  else if (s.thr t).wait.any Wait.isEarly then s.updThr t fun h => { h with withheld := some i, issue := some was }
  else
    let s := s.updThr t fun h => { h with issue := none, blocks := [] }
    (match (s.thr t).holding with
     | some id => if answersLate i && (s.thr t).wait != [] then s else s.release t id
     | none => s).retire t

/-- What the bundle of thread t has still to do as it retires: what it has under way at the matrix unit goes on; then it takes its vectors and
writes the results held back (R138, R404). -/
def settleBundle (s : State) (t : Nat) : State :=
  let h := s.thr t
  match h.holding with
  | some id => (s.release t id).retire t
  | none =>
    let s := h.takes.foldl (fun (s : State) e =>
      if ((FMap.find? (s.core (t / 64)).q e.1).map (·.pos)) = some e.2 then s.popStream (t / 64) e.1 else s) s
    (h.late.foldl (fun s l => s.putLate t l) (s.updThr t fun h => { h with late := [], takes := [] })).retire t

/-- A follower executes the bundle that has come (R100). -/
def runDue (s : State) (t : Nat) (l : List Instr) : Host.Outcome State Fault Refusal :=
  let s1 := ({ (s.updThr t fun h => { h with wait := [], st := .run, due := [] }) with cur := t } : State).settled
  match s1.runBundle t [] (s1.issueNow (t / 64) l) with
  | .next s' => .next (if s'.isUnissued t then
      s1.updThr t fun h => { h with st := .parked, wait := [.issue], forwarded := (0, l) :: h.forwarded } else s')
  | o => o

/-- The operations of the bundle that thread t has next: a follower's has come from its leader. -/
def nextBundle (s : State) (t : Nat) : List Instr :=
  let h := s.thr t
  if h.grole = 2 then (h.forwarded.head?.map (·.2)).getD [] else (s.nextOps t).getD []

/-- The 64-byte read of a guest's line at its home core's window (R309). -/
def fetchLine (s : State) (t : Nat) (home : Loc) : State :=
  let gpa := home.pkg * 2 ^ 48 + home.die * 2 ^ 45 + 0x100000000000 + home.core * 0x800000 + (s.thr t).pc.toNat / 64 * 64
  let a : Access :=
    { id := s.nextId, core := t / 64, tenant := s.tenantOf t, va := BitVec.ofNat 64 gpa, place := s.resolve gpa, kind := .load 64 }
  { (s.updThr t fun h => { h with fetch := some s.nextId }) with nextId := s.nextId + 1, issued := s.issued ++ [a] }

/-- The answer to an atomic operation of another package that has waited for its horizon (R148). -/
def answerWork (s : State) : Option State :=
  s.flight.findSome? fun a => match a.horizon, a.back, a.ans with
    | some (some n), some (l, id), some ans => if s.horizonReached n then some (s.answerFar a l id ans) else none
    | _, _, _ => none

/-- The horizon that thread t waits for and that is reached (R148), or the stop that has taken effect (R351, R353). DEDUCED, log entry
63. -/
def reachedHorizon (s : State) (t : Nat) : Option Wait :=
  (s.thr t).wait.find? fun w => match w with
    | .horizon n => n.any s.horizonReached
    | .stop k => (s.thr k).stopAsk.isNone
    | .cancel x => !outstanding (s.cpStat (t / 64) x)
    | _ => false

/-- What is due on thread t, if anything, other than a bundle that waits for a condition of its own. -/
def threadWork (s : State) (t : Nat) : Option (Host.Outcome State Fault Refusal) :=
  let h := s.thr t
  match if h.wait = [.receive] then s.receiveWork t else none with
  | some s' => some (.next s')
  | none =>
  if s.stopDue t then some (.next (s.takeStop t))
  else
    match h.halting, s.reachedHorizon t, h.due, h.withheld, h.arrived, h.home with
    | some f, _, _, _, _, home =>
      if !h.openMarks && (home.isNone || (s.storesDone t s.nextId && decide (s.relaxedOps t = 0))) then
        some (.next (s.finishFault t f)) else none
    | none, some w, _, _, _, _ => some (.next (s.doneWaiting t w))
    | none, none, x :: l, _, _, _ => some (s.runDue t (x :: l))
    | none, none, [], some i, _, _ =>
      if h.wait = [] ∨ s.ownWaits t then
        (let o := .next (s.runWithheld t i)
         if waitAfter t o = some h.wait ∧ h.wait ≠ [] then none else some o)
      else none
    | none, none, [], none, some _, _ => if h.wait = [] then some (.next (s.arrivalAccess t)) else none
    | none, none, [], none, none, home =>
      match h.wait, h.rearm, home with
      | [], none, _ => if h.unsettled then some (.next (s.settleBundle t)) else none
      | [], some (va, target), _ => some (.next (s.rearmWait t va target))
      | [.issue], _, _ =>
        if s.issuable t (s.nextBundle t) then some (.next (s.updThr t fun h => { h with st := .run, wait := [] })) else none
      | [.line], _, some (l, _) => if h.fetch = none then some (.next (s.fetchLine t l)) else none
      | _, _, _ => none

/-- The threads whose bundles wait for a condition of their own, in the order of their places: thread keys with places, those of lower
place before. -/
def insertPlace (t p : Nat) : List (Nat × Nat) → List (Nat × Nat)
  | [] => [(t, p)]
  | e :: r => if p < e.2 then (t, p) :: e :: r else e :: insertPlace t p r

def waiters (s : State) : List Nat :=
  (s.threadKeys.foldl (fun l t =>
    let h := s.thr t
    if s.ownWaits t && h.halting.isNone && h.withheld.isNone then insertPlace t ((h.issue.map (·.place)).getD 0) l else l) []).map (·.1)

/-- What is due at the matrix units (R212 to R214). -/
def matrixWork (s : State) : Option State :=
  s.cores.findSome? fun (c : Nat × Core) => (s.drainWork c.1).or (s.latchWork c.1)

/-- The COPY node whose action is performed: it decrements its successors and retires (R298). -/
def copyNodeWork (s : State) : Option State :=
  s.dies.findSome? fun (d : Nat × Die) =>
    (d.2.copyDone.find? fun n => n.after.all fun id => !(s.issued.any fun a => a.id == id) && !(s.flight.any fun a => a.id == id)).map
      fun n => ((s.updDie d.1 fun e => { e with copyDone := e.copyDone.erase n }).decrementSuccessors (unitOf d.1) n.tenant n.index
        (s.dieLoc d.1)).nodeRetired n.tenant n.index

/-- A read of BAR0 comes to the Meridian, in the order of its function, where the link takes a further read (R358, R364; DESIGN CHOICE, log
entry 75). -/
def readArrives (s : State) : Option State :=
  match s.bar0Reads with
  | (fn, off, n) :: r => if maxReads ≤ s.readsOut then none else some (({ s with bar0Reads := r } : State).push fn (.regs off n))
  | [] => none

/-- A die for which something has arrived wakes first (R390). -/
def wakeWork (s : State) : Option State := (List.range 8).findSome? fun d => occDieWake { s with subj := d }

/-- The first thing that is due: a die that wakes, then in the order of the threads; then the first bundle in the order of places that waited for a condition of
its own and would go on. -/
def dueWork (s : State) : Option (Host.Outcome State Fault Refusal) :=
  if s.powered then
    ((s.wakeWork.map .next).or (s.threadKeys.findSome? s.threadWork)).or
      (((((s.answerWork.or s.matrixWork).or s.copyNodeWork).or s.readArrives).map .next).or (s.waiters.findSome? s.goesOn))
  else none

/-! ## The harts (R372, R373) -/

/-- The hart that issues next, in rotation (R372): the complex runs at half the core clock, in RETENTION too (R385). The rotation begins after hart 0, and passes over
a hart that is stopped or blocks (DESIGN CHOICE, log entry 112). -/
def nextHart (s : State) : Option Nat :=
  if s.fw.fatal ∨ s.plat.power = .off ∨ s.now < s.fw.issuedAt then none
  else
    ((List.range 33).map fun i => (s.fw.curHart + 1 + i) % 33).find? fun k => (s.hart k).running && (s.hart k).blocked.isNone

/-- Hart k issues the instruction at its pc (R372): one of the two custom ones, or a base instruction. -/
def hartIssue (s : State) (k : Nat) : Host.Outcome State Fault Refusal :=
  let s := { s with fw := { s.fw with curHart := k, issuedAt := s.now + 2 } }
  match decodeHart (s.fw.imem.nat (s.hart k).pc.toNat 4) with
  | some i => exec i s
  | none => .next (s.hartBase k)

/-! ## The clock -/

/-- A message that waits to leave the package leaves when it can (R302, R303); towards a position that has become absent, a contribution, a
command or an answer has its outcome (R396). -/
def repost (s : State) (i : NetItem) : State :=
  if msgDst i.msg = s.pkg ∨ s.isPresent (msgDst i.msg) then s.leave i
  else
    match i.msg with
    | .mig .. | .goHome .. | .recall .. | .strip _ | .cmsg _ | .raw _ | .faultMsg .. => s
    | m => (s.netDrop i.id).absentPacket
        { src := s.pkg, dst := msgDst m, route := [], seq := i.id, cls := msgClass m, hops := 1, ord := false, msg := m }

/-- The cycle ends: the ingress horizons of its moments are known (R148). -/
def closeHorizons (s : State) : State :=
  let n := s.ingressSeq
  { s with
    cores := s.cores.map fun (c : Nat × Core) => (c.1, { c.2 with
      threads := c.2.threads.map fun (h : Nat × Thread) => (h.1, { h.2 with wait := h.2.wait.map (Wait.close n) }) })
    flight := s.flight.map fun a => if a.horizon = some none then { a with horizon := some (some n) } else a }

/-- The die's cycle: its counter, unless its clocks are gated, and the time since which nothing is pending (R61, R390). -/
def dieCycle (s : State) (d : Nat) : State :=
  let pending := s.diePending d
  s.updDie d fun x => { x with cyc := if x.gated then x.cyc else x.cyc + 1, idleSince := if pending then s.now else x.idleSince }

/-- The cycle of core ck ends: where it issued nothing, a thread that a refresh has held keeps its place (R63). -/
def endCycle (s : State) (ck : Nat) : State :=
  if (s.die (ck / 512)).gated ∨ s.hasIssued ck ∨ s.placeKept ck = none then s
  else s.updCore ck fun c => { c with lastThread := s.lastAfter ck none }

/-- One cycle of the package: a nanosecond. -/
def tick (s : State) : State :=
  let s := s.stillPending
  let s : State := if s.plat.power = .active then (s.cores.map (·.1)).foldl endCycle s else s
  let s : State := { s with now := s.now + 1 }
  let s : State := if s.plat.power = .active then (List.range 8).foldl dieCycle s else s
  if s.powered then
    let s := s.ports.foldl (fun s (p : Nat × Port) => s.checkTags p.1) s.closeHorizons
    let s := { s with ports := s.ports.map fun (p : Nat × Port) => (p.1, p.2.cycle s.pkg p.1) }
    let s := s.drainStranded
    s.net.foldl repost s
  else s

/-! ## The step -/

/-- What is left when no event happens: a core issues, or a hart, or the clock goes on. -/
def advance (s : State) : Host.Outcome State Fault Refusal :=
  match s.nextTurn with
  | some u => s.takeTurn u
  | none =>
    match s.nextHart with
    | some k => s.hartIssue k
    | none => .next s.tick

/-- Does the link hold an input back: a read of the host beyond those that may be outstanding (R358)? -/
def heldBack (s : State) : Instr → Bool
  | .apertureRead _ _ _ => decide (maxReads ≤ s.readsOut)
  | _ => false

/-- The oldest input that is taken now. -/
def nextInput (s : State) : Option (Nat × Instr) := s.inbox.find? fun x => !s.heldBack x.2

/-- An input that has arrived comes first, then what is due, then an event, then issue and the clock. -/
def stepState (s : State) : Host.Outcome State Fault Refusal :=
  match s.nextInput with
  | some (k, i) => { s with inbox := s.inbox.erase (k, i) }.takeInput k i
  | none =>
    match s.dueWork with
    | some o => o
    | none =>
      match s.nextEvent with
      | some (k, i) => { s with sched := s.sched.drop 1, since := s.since.filter fun x => x.1 != (k, i) }.event k i
      | none => { s with sched := s.sched.drop 1 }.advance

end State

/-! ## Placing an instruction -/

/-- The 64 bytes of a line that holds one head with its tail. -/
def oneLine (h : Head) (tail : Nat) : BitVec 512 :=
  let hd := h.tl * 0x4000 + h.opc * 16 + h.sub
  BitVec.ofNat 512 (1 * 2 ^ 11 + hd * 2 ^ 16 + tail % 2 ^ (16 * h.tl) * 2 ^ (16 * (32 - h.tl)))

namespace State

/-- Thread 0 of core 0 stands at the one bundle of a line at ULM offset 0, with register windows for its operands; the core is
assigned to tenant 0. -/
def placeLine (s : State) (bytes : BitVec 512) : State :=
  let t : Thread :=
    { s.thr 0 with wl := 16, gbase := 18, vl := 16, vbase := 2, st := .run, pc := 2, npc := 66, line := some { base := 0, bytes := bytes }
                   wait := [], lastIssue := none }
  let s := s.updCore 0 fun c =>
    ({ c with assigned := true, tenant := 0, sv := true
              ulm := c.ulm.write 0 ((List.range 64).map fun i => (bytes >>> (8 * i)).setWidth 8) } : Core).setThread 0 t
  { s with cur := 0, snap := none, began := none, second := false }

/-- Hart 0 runs and stands at a word of its instruction memory. -/
def placeHart (s : State) (w : Nat) : State :=
  let s := s.updHart 0 fun h => { h with running := true, pc := 0, blocked := none }
  { s with fw := { s.fw with imem := s.fw.imem.write 0 (leBytes 4 w), curHart := 32, issuedAt := s.now } }

/-- The state with the instruction of a table word placed where the step fetches its next. -/
def placeWord (s : State) (nbits w : Nat) : State :=
  if isHartWord nbits w then s.placeHart w
  else
    let (hd, tail) := tableParts nbits w
    s.placeLine (oneLine (headOf hd) tail)

end State

end Sys2Proof.Machine
end

