-- ==== Sys2Proof/Machine/Step.lean ====
section
/-! DEFINITION. The step of the package, and the placing of an instruction where the step fetches its next. -/

namespace Sys2Proof.Machine

/-- One step. DESIGN CHOICE, log entry 3. -/
def step (s : State) : Host.Outcome State Fault Refusal := s.stepState

/-- The state with the instruction whose table word is w placed where the step fetches its next (DESIGN CHOICE, log entries 17 and 36). -/
def State.withFetchWord (s : State) (nbits w : Nat) : State := s.placeWord nbits w

end Sys2Proof.Machine
end

