-- ==== Sys2Proof/Safety.lean ====
section
/-! DEFINITION. What a run must keep: every memory in its canonical form, and no step that ends without a next state. -/

namespace Sys2Proof.Machine

/-- The local buffers of a core are in canonical form. -/
def Core.memOk (c : Core) : Bool := c.ulm.wf && c.wb.wf && c.ab.wf

/-- Every memory that the state holds is in canonical form: device memory, the cores' buffers (those saved with a tenant too), the
tables of the I/O die and the firmware's instruction memory. -/
def State.memOk (s : State) : Bool :=
  s.dm.wf && s.cores.all (fun (c : Nat × Core) => c.2.memOk) && s.ethBytes.wf && s.regions.wf && s.tdesc.wf && s.fw.imem.wf &&
  s.fns.all (fun (f : Nat × Fn) => f.2.msix.wf) &&
  s.saved.all fun (v : SavedTenant) => v.cores.all fun (c : Nat × Core) => c.2.memOk

/-- A step is safe where it has a next state. -/
def StepsOn (s : State) : Prop := ∃ s', step s = .next s'

end Sys2Proof.Machine
end

