-- ==== Sys2Proof/Certificates/Slice0/Obligations.lean ====
section
/-! DEFINITION. The statements for the provers. Before them stand the few notions they are written in: when an operation may
perform its own effect, and what an operation that only writes one register leaves as it was. -/

namespace Sys2Proof.Claim

open Sys2Proof Sys2Proof.Machine Sys2Proof.Machine.State

/-- The operation i of the bundle of State.cur passes the checks that precede its own (R38, R132, R309, R319, R340), finds its stream
registers ready (R138), and may write its outbound vectors (R121). -/
def Ready (s : State) (i : Instr) : Prop :=
  s.guard i = none ∧ s.waits (s.streamsWait i) = false ∧ s.outFails i = none

/-- The state after an operation's effect, with the inbound vectors that it consumes taken from their streams (R138): at once, or, where its
answer is still to come and may be a fault, as its bundle retires (R404). -/
def Consumed (i : Instr) (s : State) : State :=
  (qIn i).foldl (fun x n => x.consume (answersLate i && s.my.wait != []) n) s

/-- The entry of the core's general register file that holds g i of thread t (R84). -/
def gEntry (s : State) (t : Nat) (i : GReg) : Nat := (s.thr t).gbase * 8 + i.toNat

/-- Nothing of the package but its cores differs. -/
def SameButCores (s t : State) : Prop := { t with cores := s.cores } = s

/-- Core c and core c' differ at most in entry e of the general register file, in the mark of that entry as uncorrectable, and in the
record of thread n. -/
def SameCoreBut (e : Option Nat) (n : Nat) (c c' : Core) : Prop :=
  { c' with gfile := c.gfile, defects := c.defects, threads := c.threads } = c ∧
  (∀ j, some j ≠ e → FMap.get 0 c'.gfile j = FMap.get 0 c.gfile j) ∧
  { c'.defects with regs := c.defects.regs } = c.defects ∧
  (∀ r : Bool × Nat, e ≠ some r.2 ∨ r.1 = true → (r ∈ c'.defects.regs ↔ r ∈ c.defects.regs)) ∧
  ∀ m, m ≠ n → c'.thread m = c.thread m

/-- What an operation of thread k that writes at most register file entry e leaves as it was: every other register of every thread,
every unit of every core, every byte of memory, the rest of the package; of the thread's own record everything but the marks of results
that are still to come and, where `counters` says so, the loop counters and the next PC. -/
def OnlyWrites (e : Option Nat) (counters : Bool) (s t : State) (k : Nat) : Prop :=
  SameButCores s t ∧ (∀ c, c ≠ k / 64 → t.core c = s.core c) ∧ SameCoreBut e (k % 64) (s.core (k / 64)) (t.core (k / 64)) ∧
  (∀ p n, t.readMem p n = s.readMem p n) ∧
  (if counters then
    { t.thr k with pend := (s.thr k).pend, lc0 := (s.thr k).lc0, lc1 := (s.thr k).lc1, npc := (s.thr k).npc } = s.thr k
   else { t.thr k with pend := (s.thr k).pend } = s.thr k)

/-- The integer, logical, shift, bit, compare, constant and move instructions, with their destination (R69 to R79). -/
def scalarDest : Instr → Option GReg
  | .add _ _ a _ _ | .sub _ _ a _ _ | .mul _ _ a _ _ | .mulh _ a _ _ | .div _ a _ _ | .rem _ a _ _ | .min _ a _ _ | .max _ a _ _
  | .addi a _ _ | .abs _ _ a _ | .neg _ _ a _ | .lea a _ _ | .sext _ a _ | .zext _ a _ | .and a _ _ | .or a _ _ | .xor a _ _
  | .andn a _ _ | .orn a _ _ | .shl _ a _ _ | .shr _ a _ _ | .sra _ a _ _ | .rol _ a _ _ | .shli _ a _ _ | .shri _ a _ _
  | .srai _ a _ _ | .bfx a _ _ _ | .bfi a _ _ _ | .clz _ a _ | .ffs _ a _ | .popc _ a _ | .brev _ a _ | .bswap _ a _
  | .cmpeq _ a _ _ | .cmpne _ a _ _ | .cmplt _ a _ _ | .cmple _ a _ _ | .sel a _ _ _ | .movi a _ | .movhi a _ | .mov a _
  | .movFromLc a _ | .tid a | .cyc a => some a
  | _ => none

/-- An operation of a bundle: what a core executes, as against the events of the package's units and of the outside. -/
def isOperation (i : Instr) : Bool := (encode i).isSome

end Sys2Proof.Claim

open Sys2Proof Sys2Proof.Machine Sys2Proof.Machine.State Sys2Proof.Claim

/-! ## Integer, logical, shift, bit, compare and move instructions -/

/-- R69, R70, R78: ADD, ADDI, SUB, MUL, MULH, DIV, REM, MIN, MAX, ABS, NEG and LEA (R78) write the value of the rule into their destination,
and DIV and REM leave it pending for 24 cycles (R62). -/
def Obligations.IntegerArithmeticCompletes : Prop :=
  ∀ (s : State) (t : IntTy) (sat : Bool) (a b c : GReg) (imm : Word32),
    (Ready s (.add t sat a b c) → exec (.add t sat a b c) s = .next (s.wrG a (put (val (s.rdG b) t + val (s.rdG c) t) t sat))) ∧
    (Ready s (.sub t sat a b c) → exec (.sub t sat a b c) s = .next (s.wrG a (put (val (s.rdG b) t - val (s.rdG c) t) t sat))) ∧
    (Ready s (.mul t sat a b c) → exec (.mul t sat a b c) s = .next (s.wrG a (put (val (s.rdG b) t * val (s.rdG c) t) t sat))) ∧
    (Ready s (.mulh t a b c) → exec (.mulh t a b c) s = .next (s.wrG a
      (ext (wrap (Int.fdiv (val (s.rdG b) t * val (s.rdG c) t) (2 ^ tyWidth t : Nat)) (tyWidth t)) t))) ∧
    (Ready s (.addi a b imm) → exec (.addi a b imm) s = .next (s.wrG a (s.rdG b + imm.signExtend 64))) ∧
    (Ready s (.lea a b imm) → exec (.lea a b imm) s = .next (s.wrG a (s.rdG b + imm.signExtend 64))) ∧
    (Ready s (.min t a b c) → exec (.min t a b c) s =
      .next (s.wrG a (ext (wrap (if val (s.rdG b) t ≤ val (s.rdG c) t then val (s.rdG b) t else val (s.rdG c) t) (tyWidth t)) t))) ∧
    (Ready s (.max t a b c) → exec (.max t a b c) s =
      .next (s.wrG a (ext (wrap (if val (s.rdG b) t ≤ val (s.rdG c) t then val (s.rdG c) t else val (s.rdG b) t) (tyWidth t)) t))) ∧
    (Ready s (.abs t sat a b) → exec (.abs t sat a b) s =
      .next (s.wrG a (put (if val (s.rdG b) t < 0 then -val (s.rdG b) t else val (s.rdG b) t) t sat))) ∧
    (Ready s (.neg t sat a b) → exec (.neg t sat a b) s = .next (s.wrG a (put (-val (s.rdG b) t) t sat))) ∧
    (Ready s (.div t a b c) → exec (.div t a b c) s = .next ((s.wrG a (if val (s.rdG c) t = 0 then ext (2 ^ tyWidth t - 1) t
      else ext (wrap (Int.tdiv (val (s.rdG b) t) (val (s.rdG c) t)) (tyWidth t)) t)).pend s.cur (.g a.toNat) (s.after 24))) ∧
    (Ready s (.rem t a b c) → exec (.rem t a b c) s = .next ((s.wrG a (if val (s.rdG c) t = 0 then ext (wrap (val (s.rdG b) t) (tyWidth t)) t
      else ext (wrap (Int.tmod (val (s.rdG b) t) (val (s.rdG c) t)) (tyWidth t)) t)).pend s.cur (.g a.toNat) (s.after 24)))

/-- R71 to R77: the sign and zero extensions, logical operations, shifts, bit fields and bit counts write the value of the rule into their
destination; an immediate shift of the width or more and a bit field that ends above bit 64 are not ready. -/
def Sys2Proof.Claim.LogicAndShiftComplete : Prop :=
  ∀ (s : State) (w : Wid) (a b c : GReg) (imm : Word32) (pos lenM1 : BitVec 6),
    (Ready s (.sext w a b) → exec (.sext w a b) s = .next (s.wrG a (BitVec.ofInt 64 (sx (s.rdG b).toNat (widBits w))))) ∧
    (Ready s (.zext w a b) → exec (.zext w a b) s = .next (s.wrG a (BitVec.ofNat 64 ((s.rdG b).toNat % 2 ^ widBits w)))) ∧
    (Ready s (.and a b c) → exec (.and a b c) s = .next (s.wrG a (s.rdG b &&& s.rdG c))) ∧
    (Ready s (.or a b c) → exec (.or a b c) s = .next (s.wrG a (s.rdG b ||| s.rdG c))) ∧
    (Ready s (.xor a b c) → exec (.xor a b c) s = .next (s.wrG a (s.rdG b ^^^ s.rdG c))) ∧
    (Ready s (.andn a b c) → exec (.andn a b c) s = .next (s.wrG a (s.rdG b &&& ~~~(s.rdG c)))) ∧
    (Ready s (.orn a b c) → exec (.orn a b c) s = .next (s.wrG a (s.rdG b ||| ~~~(s.rdG c)))) ∧
    (Ready s (.shl w a b c) → exec (.shl w a b c) s = .next (s.wrG a
      (zipElems (widBits w) (fun x n => x * 2 ^ (n % widBits w) % 2 ^ widBits w) (s.rdG b) (s.rdG c)))) ∧
    (Ready s (.shr w a b c) → exec (.shr w a b c) s = .next (s.wrG a
      (zipElems (widBits w) (fun x n => x / 2 ^ (n % widBits w)) (s.rdG b) (s.rdG c)))) ∧
    (Ready s (.sra w a b c) → exec (.sra w a b c) s = .next (s.wrG a
      (zipElems (widBits w) (fun x n => sraE (widBits w) x (n % widBits w)) (s.rdG b) (s.rdG c)))) ∧
    (Ready s (.rol w a b c) → exec (.rol w a b c) s = .next (s.wrG a
      (zipElems (widBits w) (fun x n => rolE (widBits w) x (n % widBits w)) (s.rdG b) (s.rdG c)))) ∧
    (Ready s (.shli w a b imm) → exec (.shli w a b imm) s = .next (s.wrG a
      (mapElems (widBits w) (fun x => x * 2 ^ imm.toNat % 2 ^ widBits w) (s.rdG b)))) ∧
    (Ready s (.shri w a b imm) → exec (.shri w a b imm) s = .next (s.wrG a
      (mapElems (widBits w) (fun x => x / 2 ^ imm.toNat) (s.rdG b)))) ∧
    (Ready s (.srai w a b imm) → exec (.srai w a b imm) s = .next (s.wrG a
      (mapElems (widBits w) (fun x => sraE (widBits w) x imm.toNat) (s.rdG b)))) ∧
    (Ready s (.bfx a b pos lenM1) → exec (.bfx a b pos lenM1) s = .next (s.wrG a
      (BitVec.ofNat 64 ((s.rdG b).toNat / 2 ^ pos.toNat % 2 ^ (lenM1.toNat + 1))))) ∧
    (Ready s (.bfi a b pos lenM1) → exec (.bfi a b pos lenM1) s = .next (s.wrG a
      (bfiV (s.rdG a) (s.rdG b) pos.toNat (lenM1.toNat + 1)))) ∧
    (Ready s (.clz w a b) → exec (.clz w a b) s = .next (s.wrG a (mapElems (widBits w) (clzE (widBits w)) (s.rdG b)))) ∧
    (Ready s (.ffs w a b) → exec (.ffs w a b) s = .next (s.wrG a (mapElems (widBits w) (ffsE (widBits w)) (s.rdG b)))) ∧
    (Ready s (.popc w a b) → exec (.popc w a b) s = .next (s.wrG a (mapElems (widBits w) (popE (widBits w)) (s.rdG b)))) ∧
    (Ready s (.brev w a b) → exec (.brev w a b) s = .next (s.wrG a (mapElems (widBits w) (brevE (widBits w)) (s.rdG b)))) ∧
    (Ready s (.bswap w a b) → exec (.bswap w a b) s = .next (s.wrG a (mapElems (widBits w) (bswapE (widBits w)) (s.rdG b))))

/-- R78, R79: compares write 1 or 0, SEL chooses by its last source, MOVI, MOVHI and MOV write their constant or source, and the forms of
MOV reach the loop counters, of which a follower's writes do nothing (R100). -/
def Sys2Proof.Claim.CompareAndMoveComplete : Prop :=
  ∀ (s : State) (t : IntTy) (a b c d : GReg) (imm : Word32) (l : LReg),
    (Ready s (.cmpeq t a b c) → exec (.cmpeq t a b c) s = .next (s.wrG a (if val (s.rdG b) t = val (s.rdG c) t then 1 else 0))) ∧
    (Ready s (.cmpne t a b c) → exec (.cmpne t a b c) s = .next (s.wrG a (if val (s.rdG b) t ≠ val (s.rdG c) t then 1 else 0))) ∧
    (Ready s (.cmplt t a b c) → exec (.cmplt t a b c) s = .next (s.wrG a (if val (s.rdG b) t < val (s.rdG c) t then 1 else 0))) ∧
    (Ready s (.cmple t a b c) → exec (.cmple t a b c) s = .next (s.wrG a (if val (s.rdG b) t ≤ val (s.rdG c) t then 1 else 0))) ∧
    (Ready s (.sel a b c d) → exec (.sel a b c d) s = .next (s.wrG a (if s.rdG d ≠ 0 then s.rdG b else s.rdG c))) ∧
    (Ready s (.movi a imm) → exec (.movi a imm) s = .next (s.wrG a (imm.signExtend 64))) ∧
    (Ready s (.movhi a imm) → exec (.movhi a imm) s = .next (s.wrG a (imm ++ (s.rdG a).setWidth 32))) ∧
    (Ready s (.mov a b) → exec (.mov a b) s = .next (s.wrG a (s.rdG b))) ∧
    (Ready s (.movToLc l b) → s.isFollower = false → exec (.movToLc l b) s = .next (s.wrLc l ((s.rdG b).setWidth 32))) ∧
    (Ready s (.movToLc l b) → s.isFollower = true → exec (.movToLc l b) s = .next s) ∧
    (Ready s (.movFromLc a l) → exec (.movFromLc a l) s = .next (s.wrG a ((s.rdLc l).setWidth 64)))

/-- Claim.LogicAndShiftComplete and Claim.CompareAndMoveComplete hold. -/
def Obligations.LogicAndCompareComplete : Prop := Claim.LogicAndShiftComplete ∧ Claim.CompareAndMoveComplete


/-- R8, R69 to R79: an integer, logical, shift, bit, compare, constant or move instruction, TID and CYC that pass their checks change
nothing but their destination: every other register, every flag and unit, every byte of memory and the rest of the package stay. -/
def Sys2Proof.Claim.ScalarFrame : Prop :=
  ∀ (s : State) (i : Instr) (a : GReg) (t : State),
    scalarDest i = some a → s.guard i = none → exec i s = .next t →
      OnlyWrites (some (gEntry s s.cur a)) false s t s.cur

/-- R68, R69: with saturation an ADD, SUB or MUL gives the exact result clamped to the range of its type, read back as that type; without,
a result that lies in the range of the type is exact. -/
def Sys2Proof.Claim.ArithmeticIsExact : Prop :=
  ∀ (t : IntTy) (x y : Word),
    (val (addV t true x y) t = min (max (val x t + val y t) (lo t)) (hi t)) ∧
    (val (subV t true x y) t = min (max (val x t - val y t) (lo t)) (hi t)) ∧
    (val (mulV t true x y) t = min (max (val x t * val y t) (lo t)) (hi t)) ∧
    (lo t ≤ val x t + val y t → val x t + val y t ≤ hi t → val (addV t false x y) t = val x t + val y t) ∧
    (lo t ≤ val x t - val y t → val x t - val y t ≤ hi t → val (subV t false x y) t = val x t - val y t) ∧
    (lo t ≤ val x t * val y t → val x t * val y t ≤ hi t → val (mulV t false x y) t = val x t * val y t)

/-- R70: where the divisor is not zero and the quotient lies in the range of the type, quotient and remainder give the dividend again,
the remainder is smaller than the divisor and has the sign of the dividend; a zero divisor gives all ones and the dividend. -/
def Sys2Proof.Claim.DivisionIdentity : Prop :=
  ∀ (t : IntTy) (x y : Word),
    (val y t ≠ 0 → Int.tdiv (val x t) (val y t) ≤ hi t →
      val (divV t x y) t * val y t + val (remV t x y) t = val x t ∧
      (val (remV t x y) t).natAbs < (val y t).natAbs ∧ 0 ≤ val (remV t x y) t * val x t) ∧
    (val y t = 0 → (divV t x y).toNat % 2 ^ tyWidth t = 2 ^ tyWidth t - 1 ∧ val (remV t x y) t = val x t)

/-- Claim.ArithmeticIsExact and Claim.DivisionIdentity hold. -/
def Obligations.IntegerResults : Prop := Claim.ArithmeticIsExact ∧ Claim.DivisionIdentity


/-- R74, R75: an immediate shift of the width or more, and a bit field that ends above bit 64, fault with ILLEGAL (TAILFIELD). -/
def Obligations.ShiftAndFieldLimits : Prop :=
  ∀ (s : State) (w : Wid) (a b : GReg) (imm : Word32) (pos lenM1 : BitVec 6),
    (widBits w ≤ imm.toNat →
      exec (.shli w a b imm) s = .next (s.fault (illegal 0x06)) ∧ exec (.shri w a b imm) s = .next (s.fault (illegal 0x06)) ∧
      exec (.srai w a b imm) s = .next (s.fault (illegal 0x06))) ∧
    (64 < pos.toNat + (lenM1.toNat + 1) →
      exec (.bfx a b pos lenM1) s = .next (s.fault (illegal 0x06)) ∧ exec (.bfi a b pos lenM1) s = .next (s.fault (illegal 0x06)))

/-! ## Control -/

/-- R80 to R83: outside a gang follower BR, JMP, JMPR, CALL, CALLR, RET and LOOP set the next PC that the rule gives, CALL and CALLR
write the return PC, LOOP counts its counter down, ISYNC drops the held line, and NOP changes nothing. -/
def Obligations.ControlCompletes : Prop :=
  ∀ (s : State) (k : Cond) (a b : GReg) (disp : Word32) (l : LReg), s.isFollower = false →
    (Ready s (.br k a b disp) → exec (.br k a b disp) s =
      .next (if condHolds k (s.rdG a) (s.rdG b) then s.setNpc (s.me.pc.setWidth 64 + disp.signExtend 64) else s)) ∧
    (Ready s (.jmp disp) → exec (.jmp disp) s = .next (s.setNpc (s.me.pc.setWidth 64 + disp.signExtend 64))) ∧
    (Ready s (.jmpr a) → exec (.jmpr a) s = .next (s.setNpc (s.rdG a))) ∧
    (Ready s (.call a disp) → exec (.call a disp) s =
      .next ((s.wrG a s.me.npc).setNpc (s.me.pc.setWidth 64 + disp.signExtend 64))) ∧
    (Ready s (.callr a b) → exec (.callr a b) s = .next ((s.wrG a s.me.npc).setNpc (s.rdG b))) ∧
    (Ready s (.ret a) → exec (.ret a) s = .next (s.setNpc (s.rdG a))) ∧
    (Ready s (.loop l disp) → exec (.loop l disp) s = .next (
      if s.rdLc l = 0 then s
      else if s.rdLc l = 1 then s.wrLc l 0
      else (s.wrLc l (s.rdLc l - 1)).setNpc (s.me.pc.setWidth 64 + disp.signExtend 64))) ∧
    (Ready s .isync → exec .isync s = .next (s.updThr s.cur fun h => { h with line := none })) ∧
    (Ready s .nop → exec .nop s = .next s)

/-- R80 to R83, R100: a control instruction that passes its checks changes nothing but the next PC, the loop counters, and for CALL and
CALLR the destination; in a gang follower it changes nothing. -/
def Sys2Proof.Claim.ControlFrame : Prop :=
  ∀ (s : State) (k : Cond) (a b : GReg) (disp : Word32) (l : LReg) (t : State),
    (∀ i, i = .br k a b disp ∨ i = .jmp disp ∨ i = .jmpr a ∨ i = .ret a ∨ i = .loop l disp ∨ i = .nop →
      s.guard i = none → exec i s = .next t → OnlyWrites none true s t s.cur ∧ (s.isFollower = true → t = s)) ∧
    (∀ i, i = .call a disp ∨ i = .callr a b → s.guard i = none → exec i s = .next t →
      OnlyWrites (some (gEntry s s.cur a)) true s t s.cur ∧ (s.isFollower = true → t = s))

/-- Claim.ScalarFrame and Claim.ControlFrame hold. -/
def Obligations.RegisterFrames : Prop := Claim.ScalarFrame ∧ Claim.ControlFrame


/-- R41, R42, R82: a transfer to an odd or 64-byte-aligned PC halts with ILLEGAL (BADTARGET), one to a line at or above 0x2_8000 with PROT;
within the held line the thread goes on at once where the line's check passes, and any other target's line is fetched. -/
def Obligations.TransferTargets : Prop :=
  ∀ (s : State) (t : Nat) (pc : Word),
    (pc.toNat % 2 = 1 ∨ pc.toNat % 64 = 0 → s.goTo t pc = s.entryFault t (pc.setWidth 32) (illegal 0x03)) ∧
    (pc.toNat % 2 = 0 → pc.toNat % 64 ≠ 0 → 0x28000 ≤ pc.toNat / 64 * 64 →
      s.goTo t pc = s.entryFault t (pc.setWidth 32) (protF (BitVec.ofNat 64 (pc.toNat / 64 * 64)))) ∧
    (pc.toNat % 2 = 0 → pc.toNat % 64 ≠ 0 → pc.toNat / 64 * 64 < 0x28000 →
      (∀ l, (s.thr t).line = some l → l.base = pc.toNat / 64 * 64 →
        (l.check (pc.toNat % 64) = none →
          ((s.goTo t pc).thr t).st = .run ∧ ((s.goTo t pc).thr t).pc = pc.setWidth 32 ∧ ((s.goTo t pc).thr t).wait = []) ∧
        (∀ sub, l.check (pc.toNat % 64) = some sub → s.goTo t pc = s.entryFault t (pc.setWidth 32) (illegal sub))) ∧
      ((∀ l, (s.thr t).line = some l → l.base ≠ pc.toNat / 64 * 64) →
        ((s.goTo t pc).thr t).st = .parked ∧ ((s.goTo t pc).thr t).pc = pc.setWidth 32 ∧ ((s.goTo t pc).thr t).wait = [.line] ∧
        ((s.goTo t pc).thr t).line = none))
/-! ## Threads, shared registers and gangs -/

/-- R66, R89, R90, R101: TID, CYC, CGET, CSET and YIELD. A CGET of an uncorrectable shared register reads 0, which it also writes
(R341). -/
def Obligations.ThreadStateCompletes : Prop :=
  ∀ (s : State) (a b : GReg) (n : CReg),
    (Ready s (.tid a) → exec (.tid a) s = .next (s.wrG a s.identity)) ∧
    (Ready s (.cyc a) → exec (.cyc a) s = .next (s.wrG a (BitVec.ofNat 64 s.issueCycle))) ∧
    (Ready s (.cget a n) → n.toNat ∉ s.rd.defects.cregs →
      exec (.cget a n) s = .next (s.wrG a (s.rd.readC s.issueCycle n.toNat))) ∧
    (Ready s (.cget a n) → n.toNat ∈ s.rd.defects.cregs → ∃ t : State, exec (.cget a n) s = .next (t.wrG a 0) ∧
      FMap.get 0 (t.core s.ck).c n.toNat = 0 ∧ n.toNat ∉ (t.core s.ck).defects.cregs) ∧
    (Ready s (.cset n b) → ∃ t : State, exec (.cset n b) s = .next t ∧
      { cycle := s.issueCycle, reg := n.toNat, val := s.rdG b } ∈ (t.core s.ck).csets ∧ t.dm = s.dm ∧
      ∀ k, k ≠ s.ck → t.core k = s.core k) ∧
    (Ready s .yield → s.isFollower = false →
      exec .yield s = .next (s.updThr s.cur fun h => { h with holdUntil := s.issueCycle + 64 }))

/-- R66: the shared registers are 64 bits wide. On a core whose CSETs of the last cycles stand in the order of their cycles and none of which
is of a later one, the value of a CSET issued in cycle n is what every bundle issued in cycle n + 7 or later reads, whatever was written before:
of two writes the later one remains, and the writing thread, whose next bundle issues in cycle n + 8 or later, sees its own. Until then a bundle
reads what it would have read without the CSET. The CSETs then stand in that order again. -/
def Obligations.SharedRegisterDelay : Prop :=
  ∀ (s t : State) (n : CReg) (b : GReg), s.began = none → (s.core s.ck).csets.Pairwise (fun x y => x.cycle ≤ y.cycle) →
    (∀ r ∈ (s.core s.ck).csets, r.cycle ≤ s.cycOf s.ck) → Ready s (.cset n b) → exec (.cset n b) s = .next t →
    let now := s.cycOf s.ck
    (∀ later, now + 7 ≤ later → (t.core s.ck).readC later n.toNat = s.rdG b) ∧
    (∀ soon, now ≤ soon → soon < now + 7 → (t.core s.ck).readC soon n.toNat = (s.core s.ck).readC soon n.toNat) ∧
    (∀ (c : CReg) (m : Nat), c ≠ n → now ≤ m → (t.core s.ck).readC m c.toNat = (s.core s.ck).readC m c.toNat) ∧
    (∀ u : State, (u.thr s.cur).lastIssue = some now → u.cycOf s.ck < now + 8 → u.eligible s.cur = false) ∧
    (t.core s.ck).csets.Pairwise (fun x y => x.cycle ≤ y.cycle) ∧ ∀ r ∈ (t.core s.ck).csets, r.cycle ≤ now

/-- R97, R98, R102: WFW and DONE, once nothing is pending and every store acknowledged, leave the thread waiting for work with no node and
its streams unbound; DONE of a thread that runs no node does no more; SIGNAL sends a decrement; outside a gang DISBAND does nothing, and a
leader's ends the gang. -/
def Sys2Proof.Claim.TaskEndCompletes : Prop :=
  ∀ (s : State) (a : GReg),
    (Ready s .wfw → s.me.grole = 0 → s.wfwWaits = false → ∃ t : State, exec .wfw s = .next t ∧ (t.thr s.cur).st = .wfw ∧
      (t.thr s.cur).node = 0xFFFFFFFF#32 ∧ t.boundTo = []) ∧
    (Ready s .doneOp → s.me.grole = 0 → s.wfwWaits = false → s.pipeOf = none → s.me.node = 0xFFFFFFFF#32 →
      ∃ t : State, exec .doneOp s = .next t ∧ (t.thr s.cur).st = .wfw ∧ t.fw = s.fw ∧ t.flight = s.flight ∧ t.issued = s.issued) ∧
    (Ready s .doneOp → s.me.grole = 0 → s.wfwWaits = false → s.pipeOf = none → s.me.node ≠ 0xFFFFFFFF#32 →
      exec .doneOp s = .next ((s.decrementSuccessors s.ck s.myTenant s.me.node.toNat (s.loc s.cur) (some (s.homeLoc s.cur))).nodeRetired s.myTenant s.me.node.toNat).toWfw) ∧
    (Ready s (.signal a) → s.waits (!s.released) = false →
      exec (.signal a) s = .next (s.decrement s.ck s.myTenant ((s.rdG a).toNat % 2 ^ 32) (s.loc s.cur) (some (s.homeLoc s.cur)))) ∧
    (Ready s .disband → s.me.grole = 0 → exec .disband s = .next s) ∧
    (Ready s .disband → s.me.grole = 1 → exec .disband s = .next (s.updThr s.cur fun h => { h with gangEnd := true }))

/-- R99: GANG, in a thread of the right place that is in no gang and whose followers wait for work on cores of its tenant with windows no
smaller, makes it the leader of the gang and each of them a running follower. -/
def Sys2Proof.Claim.GangForms : Prop :=
  ∀ (s : State) (n : GangSize), Ready s (.gang n) → s.me.grole = 0 → s.cur % 64 < 56 → gangPlaced n (s.ck % 16) = true →
    s.waits (!s.nothingPending) = false →
    (∀ f ∈ gangFollowers n s.cur, (s.thr f).st = .wfw ∧ (s.thr f).grole = 0 ∧ (s.core (f / 64)).assigned = true ∧
      (s.core (f / 64)).tenant = s.myTenant ∧ s.me.wl ≤ (s.thr f).wl ∧ s.me.vl ≤ (s.thr f).vl) →
    ∃ t : State, exec (.gang n) s = .next t ∧ (t.thr s.cur).grole = 1 ∧ (t.thr s.cur).members = gangFollowers n s.cur ∧
      ∀ f ∈ gangFollowers n s.cur, (t.thr f).st = .run ∧ (t.thr f).grole = 2 ∧ (t.thr f).leader = some s.cur

/-- Claim.GangForms and Claim.TaskEndCompletes hold. -/
def Obligations.GangAndTaskEndComplete : Prop := Claim.GangForms ∧ Claim.TaskEndCompletes


/-! ## Loads, stores, spills and fills -/

/-- R121, R123, R124, R126: LD, ST and LDV, STV whose access passes its checks in this package send it; a plain load parks its thread
until the reply, one with .rx leaves its destination pending; a plain store holds its thread until the port takes it, an .sc store until
it is acknowledged, and an .rx store not at all. -/
def Obligations.LoadStoreCompletes : Prop :=
  ∀ (s : State) (ty : IntTy) (m : Mcw) (a b c : GReg) (v : VOp) (off : Off16) (p : Place) (g : Nat), s.rxFull m.rx = false →
    (Ready s (.ld ty m a b off) → s.checkAccess m.sp (s.rdG b + off.signExtend 64) (tyWidth ty / 8) (tyWidth ty / 8) (.ld (tyWidth ty / 8)) = .ok p g →
      s.way p g = .here →
      let t := s.launch (.ld ty a.toNat) (Mode.ofMcw m) [{ va := s.rdG b + off.signExtend 64, place := p, kind := .load (tyWidth ty / 8) }]
      exec (.ld ty m a b off) s = .next (if m.rx then t.pend s.cur (.g a.toNat) none else t.park s.cur (.reply s.nextId))) ∧
    (Ready s (.st ty m a off b) → s.checkAccess m.sp (s.rdG a + off.signExtend 64) (tyWidth ty / 8) (tyWidth ty / 8) (.st (tyWidth ty / 8)) = .ok p g →
      let t := s.launch .store (Mode.ofMcw m)
        [{ va := s.rdG a + off.signExtend 64, place := p, kind := .store (leBytes (tyWidth ty / 8) (s.rdG b).toNat) }]
      exec (.st ty m a off b) s = .next (if m.rx then t else t.hold s.cur (if m.order = .sc then .ack s.nextId else .accept s.nextId))) ∧
    (Ready s (.stSig ty m a off b c) → s.checkAccess m.sp (s.rdG a + off.signExtend 64) (tyWidth ty / 8) (tyWidth ty / 8) (.st (tyWidth ty / 8)) = .ok p g →
      let t := s.launch .store { Mode.ofMcw m with sig := some ((s.rdG c).toNat % 2 ^ 32) }
        [{ va := s.rdG a + off.signExtend 64, place := p, kind := .store (leBytes (tyWidth ty / 8) (s.rdG b).toNat) }]
      exec (.stSig ty m a off b c) s = .next (if m.rx then t else t.hold s.cur (if m.order = .sc then .ack s.nextId else .accept s.nextId))) ∧
    (Ready s (.ldv m v b off) → s.checkFixed m.sp (s.rdG b + off.signExtend 64) 512 512 .ldv = .ok p g →
      let t := s.launch (.ldv v) (Mode.ofMcw m) (cutLoad (s.rdG b + off.signExtend 64) p 512)
      exec (.ldv m v b off) s = .next (Consumed (.ldv m v b off) (if m.rx then t.pend s.cur (Regs.v v) none else t.park s.cur (.reply s.nextId)))) ∧
    (Ready s (.stv m a off v) → s.checkAccess m.sp (s.rdG a + off.signExtend 64) 512 512 .stv = .ok p g →
      let ps := cutStore (s.rdG a + off.signExtend 64) p (vecBytes (s.rdV v))
      let t := s.launch .store (Mode.ofMcw m) ps
      exec (.stv m a off v) s = .next (Consumed (.stv m a off v)
        (if m.rx then t else t.hold s.cur (if m.order = .sc then .ack s.nextId else .accept s.nextId))))

/-- R127, R128: LDX and STX whose active lanes all pass their checks send one access for each active lane, lowest lane first; with no
active lane LDX writes zeros and STX stores nothing. -/
def Obligations.GatherScatterCompletes : Prop :=
  ∀ (s : State) (ty : IntTy) (m : Mcw) (a b : GReg) (v w : VOp) (off : Off16), s.rxFull m.rx = false →
    (Ready s (.ldx ty m v b off w) →
      (∀ x ∈ activeLanes (s.rdG b + off.signExtend 64) (s.rdV w),
        ∃ p g, s.checkFixed m.sp x.2 (tyWidth ty / 8) (tyWidth ty / 8) .ldx = .ok p g) →
      (activeLanes (s.rdG b + off.signExtend 64) (s.rdV w) = [] →
        exec (.ldx ty m v b off w) s = .next (Consumed (.ldx ty m v b off w) (s.wrV v 0 0))) ∧
      (activeLanes (s.rdG b + off.signExtend 64) (s.rdV w) ≠ [] →
        ∃ (t : State) (ps : List Piece), exec (.ldx ty m v b off w) s = .next (Consumed (.ldx ty m v b off w) t) ∧
          t.issued = (s.launch (.ldx ty v ((activeLanes (s.rdG b + off.signExtend 64) (s.rdV w)).map (·.1))) (Mode.ofMcw m) ps).issued ∧
          ps.map (·.va) = (activeLanes (s.rdG b + off.signExtend 64) (s.rdV w)).map (·.2) ∧
          (m.rx = false → (t.thr s.cur).wait = (s.thr s.cur).wait ++ [.reply s.nextId]))) ∧
    (Ready s (.stx ty m a off v w) →
      (∀ x ∈ activeLanes (s.rdG a + off.signExtend 64) (s.rdV w),
        ∃ p g, s.checkAccess m.sp x.2 (tyWidth ty / 8) (tyWidth ty / 8) .stx = .ok p g) →
      ∃ t : State, exec (.stx ty m a off v w) s = .next (Consumed (.stx ty m a off v w) t) ∧
        (t.issued.drop s.issued.length).map (·.va) = (activeLanes (s.rdG a + off.signExtend 64) (s.rdV w)).map (·.2) ∧
        (t.issued.drop s.issued.length).map (fun x => x.kind) = (activeLanes (s.rdG a + off.signExtend 64) (s.rdV w)).map
          fun x => .store (leBytes (tyWidth ty / 8) (lane (s.rdV v) x.1).toNat))

/-- R129, R130: SPILL and FILL whose blocks from FPROG on all pass their checks in this package send a store, or a load, of each of them, in
order: block k of 8 or 512 bytes lies at the base plus k times its size, at the place that its check gives, and a SPILL's carries the k-th
register from the named one on, while a FILL's replies go to the registers from that of block FPROG on. SPILL then holds its thread until the
port accepts them, FILL parks it until the replies have come; with FPROG beyond the last block neither sends anything. The base of a FILL that
has filled registers before its thread came here is that of its issue. -/
def Obligations.SpillFillCompletes : Prop :=
  ∀ (s : State) (ulm : Bool) (a b : GReg) (va vb : BitVec 6) (off : Off16) (cntM1 : BitVec 7),
    let n := cntM1.toNat + 1
    let base := fun (r : GReg) => s.rdG r + off.signExtend 64
    let from' := fun (r : GReg) => s.me.fillBase.getD (base r)
    let send := fun (l : List (Nat × Word × Tr)) (data : Nat → List Byte) => Host.Outcome.next
      ((s.launch .store Mode.plain (blockPieces l fun k va p => cutStore va p (data k))).hold s.cur (.accept s.nextId))
    let fetch := fun (l : List (Nat × Word × Tr)) (what : OpWhat) (size : Nat) => Host.Outcome.next
      ((s.launch what Mode.plain (blockPieces l fun _ va p => cutLoad va p size)).park s.cur (.reply s.nextId))
    (s.me.fprog.toNat < n →
      (Ready s (.spillG ulm a off b cntM1) → (∀ x ∈ runBlocks s ulm (base a) 8 n .spill, ∃ p g, x.2.2 = .ok p g) →
        exec (.spillG ulm a off b cntM1) s = send (runBlocks s ulm (base a) 8 n .spill) fun k =>
          leBytes 8 (FMap.get 0 s.rd.gfile (s.me.gbase * 8 + b.toNat + k)).toNat) ∧
      (Ready s (.spillV ulm a off vb cntM1) → (∀ x ∈ runBlocks s ulm (base a) 512 n .spill, ∃ p g, x.2.2 = .ok p g) →
        exec (.spillV ulm a off vb cntM1) s = send (runBlocks s ulm (base a) 512 n .spill) fun k => vecBytes (s.rdVr (vb.toNat + k))) ∧
      (Ready s (.fillG ulm a b off cntM1) →
        (∀ x ∈ runBlocks s ulm (from' b) 8 n .fill, ∃ p g, x.2.2 = .ok p g ∧ s.way p g = .here) →
        exec (.fillG ulm a b off cntM1) s =
          fetch (runBlocks s ulm (from' b) 8 n .fill) (.fillG (a.toNat + s.me.fprog.toNat)) 8) ∧
      (Ready s (.fillV ulm va b off cntM1) →
        (∀ x ∈ runBlocks s ulm (from' b) 512 n .fill, ∃ p g, x.2.2 = .ok p g ∧ p.isRemote = false) →
        exec (.fillV ulm va b off cntM1) s =
          fetch (runBlocks s ulm (from' b) 512 n .fill) (.fillV (va.toNat + s.me.fprog.toNat)) 512)) ∧
    (n ≤ s.me.fprog.toNat →
      (Ready s (.spillG ulm a off b cntM1) → exec (.spillG ulm a off b cntM1) s = .next s) ∧
      (Ready s (.spillV ulm a off vb cntM1) → exec (.spillV ulm a off vb cntM1) s = .next s) ∧
      (Ready s (.fillG ulm a b off cntM1) → exec (.fillG ulm a b off cntM1) s = .next s) ∧
      (Ready s (.fillV ulm va b off cntM1) → exec (.fillV ulm va b off cntM1) s = .next s))

/-- R24, R108, R109: a full/empty operation on an aligned word of ULM, with every earlier access of the core to ULM performed and every
relaxed access of the thread answered, completes where
it finds the state it needs: LDFE reads the word and empties it, LDFF reads it, STFE writes an empty word and fills it, and STFF
writes any word and leaves it full; nobody else waits for the word. -/
def Obligations.FullEmptyCompletes : Prop :=
  ∀ (s : State) (a b : GReg) (off : Off16) (ad : Word), ad.toNat ≤ 0x27FF8 → ad.toNat % 8 = 0 →
    s.portClear s.ck .ulm s.issuePlace = true → s.relaxedBefore s.cur s.issuePlace = 0 → (∀ w ∈ (s.core s.ck).feWait, w.off ≠ ad.toNat) →
    (s.thr s.cur).withheld = none → (s.thr s.cur).holding = none → (s.core s.ck).ulm.badIn ad.toNat 8 = none →
    (Ready s (.ldfe a b off) → ad = s.rdG b + off.signExtend 64 → FMap.get false (s.core s.ck).full (ad.toNat / 8) = true →
      ∃ t : State, exec (.ldfe a b off) s = .next t ∧ FMap.find? (t.core s.ck).full (ad.toNat / 8) = none ∧
        FMap.get 0 (t.core s.ck).gfile (gEntry s s.cur a) = BitVec.ofNat 64 ((s.core s.ck).ulm.nat ad.toNat 8)) ∧
    (Ready s (.ldff a b off) → ad = s.rdG b + off.signExtend 64 → FMap.get false (s.core s.ck).full (ad.toNat / 8) = true →
      ∃ t : State, exec (.ldff a b off) s = .next t ∧ (t.core s.ck).full = (s.core s.ck).full ∧
        FMap.get 0 (t.core s.ck).gfile (gEntry s s.cur a) = BitVec.ofNat 64 ((s.core s.ck).ulm.nat ad.toNat 8)) ∧
    (Ready s (.stfe a off b) → ad = s.rdG a + off.signExtend 64 → FMap.get false (s.core s.ck).full (ad.toNat / 8) = false →
      ∃ t : State, exec (.stfe a off b) s = .next t ∧ FMap.get false (t.core s.ck).full (ad.toNat / 8) = true ∧
        (t.core s.ck).ulm = (s.core s.ck).ulm.write ad.toNat (leBytes 8 (s.rdG b).toNat)) ∧
    (Ready s (.stff a off b) → ad = s.rdG a + off.signExtend 64 →
      ∃ t : State, exec (.stff a off b) s = .next t ∧ FMap.get false (t.core s.ck).full (ad.toNat / 8) = true ∧
        (t.core s.ck).ulm = (s.core s.ck).ulm.write ad.toNat (leBytes 8 (s.rdG b).toNat))

/-! ## Atomics, conjunctions and fences -/

/-- R121, R143, R145: AMO, CAS and AMOF whose access passes its checks send the operation and park the thread until the response. -/
def Sys2Proof.Claim.AtomicsComplete : Prop :=
  ∀ (s : State) (op : AOp) (fop : FOp) (w64 : Bool) (m : Mcw) (a b c : GReg) (off : Off16) (p : Place) (g : Nat),
    let va := s.rdG b + off.signExtend 64
    let n := if w64 then 8 else 4
    let send := fun (o : AtomicOp) => Host.Outcome.next ((s.launch (.atomic (some a.toNat)) (Mode.ofMcw m)
      [{ va := va, place := p, kind := .atomic o }]).park s.cur (.reply s.nextId))
    (Ready s (.amo op w64 m a b off c) → s.checkAccess m.sp va n n .atomic = .ok p g →
      exec (.amo op w64 m a b off c) s = send (.amo op w64 (s.rdG c))) ∧
    (Ready s (.cas w64 m a b off c) → s.checkAccess m.sp va n n .atomic = .ok p g →
      exec (.cas w64 m a b off c) s = send (.cas w64 (s.rdG a) (s.rdG c))) ∧
    (Ready s (.amof fop m a b off c) → s.checkAccess m.sp va 4 4 .atomic = .ok p g →
      exec (.amof fop m a b off c) s = send (.amof fop ((s.rdG c).setWidth 32)))

/-- R105, R107: JOIN, LEAVE, ARRIVE and WAITGEN on a 64-byte aligned record that passes its checks send their operation; all but WAITGEN
are releases at the scope of the record, and WAITGEN on a record whose scope is the system is an acquire at that scope. -/
def Sys2Proof.Claim.ConjunctionsSend : Prop :=
  ∀ (s : State) (m : Mcw) (a b c : GReg) (off : Off16) (p : Place) (g : Nat),
    let send := fun (x : GReg) (d : Option Nat) (rel : Bool) (o : AtomicOp) => Host.Outcome.next ((s.launch (.atomic d)
      { rel := if rel then some (s.recordScope p) else none, acqSys := !rel && decide (s.recordScope p = .sys) }
      [{ va := s.rdG x + off.signExtend 64, place := p, kind := .atomic o }]).park s.cur (.reply s.nextId))
    (Ready s (.join m a b off) → s.checkAccess m.sp (s.rdG b + off.signExtend 64) 64 64 .atomic = .ok p g →
      exec (.join m a b off) s = send b (some a.toNat) true .join) ∧
    (Ready s (.leave m a off) → s.checkAccess m.sp (s.rdG a + off.signExtend 64) 64 64 .atomic = .ok p g →
      exec (.leave m a off) s = send a none true .leave) ∧
    (Ready s (.arrive m a b off) → s.checkAccess m.sp (s.rdG b + off.signExtend 64) 64 64 .atomic = .ok p g →
      exec (.arrive m a b off) s = send b (some a.toNat) true (.arrive none)) ∧
    (Ready s (.arriveBytes m a b off c) → s.checkAccess m.sp (s.rdG b + off.signExtend 64) 64 64 .atomic = .ok p g →
      exec (.arriveBytes m a b off c) s = send b (some a.toNat) true (.arrive (some ((s.rdG c).setWidth 32)))) ∧
    (Ready s (.waitgen m a off b) → s.checkAccess m.sp (s.rdG a + off.signExtend 64) 64 64 .atomic = .ok p g →
      exec (.waitgen m a off b) s = send a none false (.waitgen ((s.rdG b).setWidth 32)))

/-- Claim.AtomicsComplete and Claim.ConjunctionsSend hold. -/
def Obligations.AtomicFormsComplete : Prop := Claim.AtomicsComplete ∧ Claim.ConjunctionsSend


/-- R146: FENCE completes once every relaxed access of its thread is answered and its stores are acknowledged at the scope; at .sys it
then waits for the ingress horizon. -/
def Obligations.FenceCompletes : Prop :=
  ∀ (s : State) (sc : Scope), Ready s (.fence sc) → s.relaxedOps s.cur = 0 → s.storesAcked s.cur s.issuePlace sc = true →
    exec (.fence sc) s = .next (if sc = .sys then s.park s.cur (.horizon none) else s)

/-- R106: JOIN, LEAVE, ARRIVE, the copy arrival and WAITGEN on a record of GEN, MEMBERS, PENDING and BYTES, with the advance that gives
a new generation and PENDING := MEMBERS; where the rule says fail, nothing is written. -/
def Sys2Proof.Claim.ConjunctionRule : Prop :=
  ∀ (c : Conj), c.gen < 2 ^ 32 → c.members < 2 ^ 16 → c.pending < 2 ^ 16 → c.bytes < 2 ^ 31 →
    (c.members = 0xFFFF → conjStep c .join = none) ∧
    (c.members ≠ 0xFFFF → c.pending = c.members → conjStep c .join =
      some ({ c with members := c.members + 1, pending := c.pending + 1 }, false, .value (BitVec.ofNat 64 c.gen))) ∧
    (c.members ≠ 0xFFFF → c.pending ≠ c.members → conjStep c .join =
      some ({ c with members := c.members + 1 }, false, .value (BitVec.ofNat 64 ((c.gen + 1) % 2 ^ 32)))) ∧
    (c.members = 0 ∨ c.pending = 0 → conjStep c .leave = none) ∧
    (c.members ≠ 0 → c.pending = 1 → c.bytes = 0 → conjStep c .leave =
      some ({ gen := (c.gen + 1) % 2 ^ 32, members := c.members - 1, pending := c.members - 1, bytes := 0 }, true, .ok)) ∧
    (c.members ≠ 0 → 1 < c.pending ∨ (c.pending = 1 ∧ c.bytes ≠ 0) → conjStep c .leave =
      some ({ c with members := c.members - 1, pending := c.pending - 1 }, false, .ok)) ∧
    (∀ b, c.pending = 0 → conjStep c (.arrive b) = none) ∧
    (∀ b : Word32, 2 ^ 31 - 1 < c.bytes + b.toNat → conjStep c (.arrive (some b)) = none) ∧
    (c.pending = 1 → c.bytes = 0 → conjStep c (.arrive none) =
      some ({ gen := (c.gen + 1) % 2 ^ 32, members := c.members, pending := c.members, bytes := 0 }, true, .value (BitVec.ofNat 64 c.gen))) ∧
    (1 < c.pending ∨ (c.pending = 1 ∧ c.bytes ≠ 0) → conjStep c (.arrive none) =
      some ({ c with pending := c.pending - 1 }, false, .value (BitVec.ofNat 64 c.gen))) ∧
    (∀ b : Word32, c.bytes + b.toNat ≤ 2 ^ 31 - 1 → 1 < c.pending → conjStep c (.arrive (some b)) =
      some ({ c with pending := c.pending - 1, bytes := c.bytes + b.toNat }, false, .value (BitVec.ofNat 64 c.gen))) ∧
    (c.pending = 0 → 0 < c.bytes → conjStep c (.copyArrive c.bytes) =
      some ({ gen := (c.gen + 1) % 2 ^ 32, members := c.members, pending := c.members, bytes := 0 }, true, .ok)) ∧
    (∀ t : Word32, t.toNat ≤ c.gen → c.gen < t.toNat + 2 ^ 31 → c.passes t = true) ∧
    (∀ t : Word32, c.gen < t.toNat → t.toNat ≤ c.gen + 2 ^ 31 - 1 → c.passes t = false)

/-- R144: what an AMO on a word of width w leaves there and returns, on the old word x and the operand y of that width. -/
def Sys2Proof.Claim.AmoRule : Prop :=
  ∀ (w64 : Bool) (x y : Nat), x < 2 ^ (if w64 then 64 else 32) → y < 2 ^ (if w64 then 64 else 32) →
    let w := if w64 then 64 else 32
    (amoValue .add w64 x y = ((x + y) % 2 ^ w, BitVec.ofNat 64 x)) ∧ (amoValue .swap w64 x y = (y, BitVec.ofNat 64 x)) ∧
    (amoValue .and w64 x y = (x &&& y, BitVec.ofNat 64 x)) ∧ (amoValue .or w64 x y = (x ||| y, BitVec.ofNat 64 x)) ∧
    (amoValue .xor w64 x y = (x ^^^ y, BitVec.ofNat 64 x)) ∧
    (amoValue .minU w64 x y = (min x y, BitVec.ofNat 64 x)) ∧ (amoValue .maxU w64 x y = (max x y, BitVec.ofNat 64 x)) ∧
    (sx (amoValue .minS w64 x y).1 w = min (sx x w) (sx y w)) ∧ (sx (amoValue .maxS w64 x y).1 w = max (sx x w) (sx y w)) ∧
    ((amoValue .minS w64 x y).2 = BitVec.ofInt 64 (sx x w)) ∧ ((amoValue .maxS w64 x y).2 = BitVec.ofInt 64 (sx x w))

/-- Claim.AmoRule and Claim.ConjunctionRule hold. -/
def Obligations.AtomicRules : Prop := Claim.AmoRule ∧ Claim.ConjunctionRule

/-! ## Vectors, formats and masks -/

namespace Sys2Proof.Claim

/-- Operation i, whose checks pass and whose shadow unit has no defect, writes r in the lanes of its mask to vector destination a, which
stays pending for lat cycles (R62, R183 to R186). -/
def LandsV (s : State) (i : Instr) (k : VMask) (a : VOp) (r : VWord) (lat : Nat) : Prop :=
  Ready s i → s.rd.defects.vector = [] → exec i s = .next (Consumed i (s.wrV a (blend (s.mask k) r (s.oldV a)) lat))

end Sys2Proof.Claim

/-- R182, R184, R189, R190: VADD, VSUB, VMUL, VMIN, VMAX, VABS, VNEG, VFMA and VFMS write the value of the rule in every element whose
lane is active, pending for 8 cycles. -/
def Sys2Proof.Claim.VectorArithmeticCompletes : Prop :=
  ∀ (s : State) (e : VElt) (k : VMask) (a b c : VOp),
    LandsV s (.vadd e k a b c) k a (map2 (eltBits e) (addE e) (s.rdV b) (s.rdV c)) 8 ∧
    LandsV s (.vsub e k a b c) k a (map2 (eltBits e) (subE e) (s.rdV b) (s.rdV c)) 8 ∧
    LandsV s (.vmul e k a b c) k a (map2 (eltBits e) (mulE e) (s.rdV b) (s.rdV c)) 8 ∧
    LandsV s (.vmin e k a b c) k a (map2 (eltBits e) (minE e) (s.rdV b) (s.rdV c)) 8 ∧
    LandsV s (.vmax e k a b c) k a (map2 (eltBits e) (maxE e) (s.rdV b) (s.rdV c)) 8 ∧
    LandsV s (.vabs e k a b) k a (map1 (eltBits e) (elt1 e Num.abs fun x => if x < 0 then -x else x) (s.rdV b)) 8 ∧
    LandsV s (.vneg e k a b) k a (map1 (eltBits e) (elt1 e Num.neg fun x => -x) (s.rdV b)) 8 ∧
    LandsV s (.vfma e k a b c) k a (map3 (eltBits e) (fmaE e) (s.rdV b) (s.rdV c) (s.rdV a)) 8 ∧
    LandsV s (.vfms e k a b c) k a (map3 (eltBits e) (fmsE e) (s.rdV b) (s.rdV c) (s.rdV a)) 8

/-- R184, R191: VDIV, VSQRT, VRCP, VRSQ, VEXP2, VLOG2, VSIN and VCOS write the FP32 value of the rule in every active lane, pending for
32 cycles after VDIV and VSQRT and for 24 after the others. -/
def Sys2Proof.Claim.SpecialFunctionsComplete : Prop :=
  ∀ (s : State) (md : RMode) (k : VMask) (a b c : VOp),
    LandsV s (.vdiv md k a b c) k a
      (map2 32 (fun x y => Num.code Num.f32 (Num.div Num.f32 md (Num.decode Num.f32 x) (Num.decode Num.f32 y))) (s.rdV b) (s.rdV c)) 32 ∧
    LandsV s (.vsqrt md k a b) k a (map1 32 (fp1 (Num.sqrt Num.f32 md)) (s.rdV b)) 32 ∧
    LandsV s (.vrcp md k a b) k a (map1 32 (fp1 (Num.div Num.f32 md (.fin false 1 0))) (s.rdV b)) 24 ∧
    LandsV s (.vrsq md k a b) k a (map1 32 (fp1 (Num.rsqrt Num.f32 md)) (s.rdV b)) 24 ∧
    LandsV s (.vexp2 md k a b) k a (map1 32 (fp1 (Num.exp2 Num.f32 md)) (s.rdV b)) 24 ∧
    LandsV s (.vlog2 md k a b) k a (map1 32 (fp1 (Num.log2 Num.f32 md)) (s.rdV b)) 24 ∧
    LandsV s (.vsin md k a b) k a (map1 32 (fp1 (Num.trig Num.f32 md false)) (s.rdV b)) 24 ∧
    LandsV s (.vcos md k a b) k a (map1 32 (fp1 (Num.trig Num.f32 md true)) (s.rdV b)) 24

/-- Claim.VectorArithmeticCompletes and Claim.SpecialFunctionsComplete hold. -/
def Obligations.VectorFloatsComplete : Prop := Claim.VectorArithmeticCompletes ∧ Claim.SpecialFunctionsComplete


/-- R192, R196: the logical operations, shifts, bit counts, moves and permutations of vectors write the value of the rule in every lane that
the mask does not leave out (R183), pending for 8 cycles (R184); VINS writes its one lane and VEXT a scalar register. -/
def Obligations.VectorBitsAndMovesComplete : Prop :=
  ∀ (s : State) (w : IWid) (u : Bool) (k : VMask) (a b c : VOp) (g h : GReg),
    LandsV s (.vand k a b c) k a (s.rdV b &&& s.rdV c) 8 ∧ LandsV s (.vor k a b c) k a (s.rdV b ||| s.rdV c) 8 ∧
    LandsV s (.vxor k a b c) k a (s.rdV b ^^^ s.rdV c) 8 ∧
    LandsV s (.vshl w k a b c) k a
      (map2 (iwBits w) (fun x n => x * 2 ^ (n % iwBits w) % 2 ^ iwBits w) (s.rdV b) (s.rdV c)) 8 ∧
    LandsV s (.vshr w k a b c) k a (map2 (iwBits w) (fun x n => x / 2 ^ (n % iwBits w)) (s.rdV b) (s.rdV c)) 8 ∧
    LandsV s (.vsra w k a b c) k a (map2 (iwBits w) (fun x n => sraE (iwBits w) x (n % iwBits w)) (s.rdV b) (s.rdV c)) 8 ∧
    LandsV s (.vclz w u k a b) k a (map1 (iwBits w) (clzE (iwBits w)) (s.rdV b)) 8 ∧
    LandsV s (.vffs w u k a b) k a (map1 (iwBits w) (ffsE (iwBits w)) (s.rdV b)) 8 ∧
    LandsV s (.vpopc w u k a b) k a (map1 (iwBits w) (popE (iwBits w)) (s.rdV b)) 8 ∧
    LandsV s (.vmov k a b) k a (s.rdV b) 8 ∧
    LandsV s (.vbcast k a g) k a (ofLanes fun _ => (s.rdG g).toNat % 2 ^ 32) 8 ∧
    (Ready s (.vins k a g h) → exec (.vins k a g h) s = .next (Consumed (.vins k a g h) (s.wrV a
      (blend (s.mask k &&& BitVec.ofNat 128 (2 ^ ((s.rdG h).toNat % 128))) (ofLanes fun _ => (s.rdG g).toNat % 2 ^ 32) (s.oldV a)) 8))) ∧
    (Ready s (.vext g b h) → exec (.vext g b h) s =
      .next (Consumed (.vext g b h) (s.wrG g ((lane (s.rdV b) ((s.rdG h).toNat % 128)).setWidth 64)))) ∧
    LandsV s (.vperm k a b c) k a
      (ofLanes fun i => if 2 ^ 31 ≤ elem 32 (s.rdV c) i then 0 else elem 32 (s.rdV b) (elem 32 (s.rdV c) i % 128)) 8 ∧
    LandsV s (.vrot k a b g) k a (ofLanes fun i => elem 32 (s.rdV b) ((i + (s.rdG g).toNat % 128) % 128)) 8 ∧
    LandsV s (.viota k a) k a (ofLanes fun i => i) 8

/-- R193 to R195, R197: compares write a mask, VSEL chooses lane by lane, the mask instructions combine, count and search masks, and
VRED and VSCAN write the whole destination, which stays pending for 16 cycles (R184). -/
def Sys2Proof.Claim.MasksAndReductionsComplete : Prop :=
  ∀ (s : State) (cd : VCond) (t : VCmpTy) (op : RedOp) (e : VElt) (k : VMask) (m n p : MReg) (a b c : VOp) (g : GReg),
    (Ready s (.vcmp cd t m a b) → exec (.vcmp cd t m a b) s = .next (Consumed (.vcmp cd t m a b)
      (s.wrM m (ofBits fun i => vcmpLane cd t (elem 32 (s.rdV a) i) (elem 32 (s.rdV b) i)) 8))) ∧
    (Ready s (.vsel m a b c) → exec (.vsel m a b c) s =
      .next (Consumed (.vsel m a b c) (s.wrV a (blend (s.rdM m) (s.rdV b) (s.rdV c)) 8))) ∧
    (Ready s (.mand m n p) → exec (.mand m n p) s = .next (s.wrM m (s.rdM n &&& s.rdM p) 8)) ∧
    (Ready s (.mor m n p) → exec (.mor m n p) s = .next (s.wrM m (s.rdM n ||| s.rdM p) 8)) ∧
    (Ready s (.mxor m n p) → exec (.mxor m n p) s = .next (s.wrM m (s.rdM n ^^^ s.rdM p) 8)) ∧
    (Ready s (.mnot m n) → exec (.mnot m n) s = .next (s.wrM m (~~~(s.rdM n)) 8)) ∧
    (Ready s (.mpop g n) → exec (.mpop g n) s =
      .next (s.wrG g (BitVec.ofNat 64 ((List.range 128).filter fun i => (s.rdM n).getLsbD i).length))) ∧
    (Ready s (.mfirst g n) → (∀ i, i < 128 → (∀ j, j < i → (s.rdM n).getLsbD j = false) → (s.rdM n).getLsbD i = true →
      exec (.mfirst g n) s = .next (s.wrG g (BitVec.ofNat 64 i))) ∧
      (s.rdM n = 0 → exec (.mfirst g n) s = .next (s.wrG g 128))) ∧
    (Ready s (.vred op e k a b) → s.rd.defects.vector = [] → exec (.vred op e k a b) s =
      .next (Consumed (.vred op e k a b) (s.wrV a (vredV op e (s.mask k) (s.rdV b)) 16))) ∧
    (Ready s (.vscan op e k a b) → s.rd.defects.vector = [] → exec (.vscan op e k a b) s =
      .next (Consumed (.vscan op e k a b) (s.wrV a (vscanV op e (s.mask k) (s.rdV b)) 16)))

/-- R178 to R181, R175: VCVT, VPACK, VUNPK, VDEC and VENC write the conversion of the rule, and DTLD reads its table of 256 words from
ULM and parks its thread until the table is replaced, which takes 256 cycles. -/
def Sys2Proof.Claim.ConversionsComplete : Prop :=
  ∀ (s : State) (op : CvtOp) (w : PkW) (u sat : Bool) (f : Ab) (k : VMask) (a b c : VOp) (g : GReg) (off : Off16),
    LandsV s (.vcvt op k a b) k a (map1 32 (cvtLane op) (s.rdV b)) 8 ∧
    (Ready s (.vpack w k a b c) → exec (.vpack w k a b c) s = .next (Consumed (.vpack w k a b c) (s.wrV a
      (narrow (pkBits w) k (s.mask k) (elems 32 (s.rdV b) ++ elems 32 (s.rdV c)) (s.oldV a)) 8))) ∧
    LandsV s (.vunpk w u k a b) k a (ofLanes fun i => wrap (valW (!u) (pkBits w) (elem (pkBits w) (s.rdV b) i)) 32) 8 ∧
    ((s.fmtReg f).toNat < 14 → LandsV s (.vdec f k a b) k a (ofLanes fun i => Num.code Num.f32
      (decodeFmt s.rd.tabs.a s.rd.tabs.b (s.fmtReg f).toNat (elem (fmtWidth (s.fmtReg f).toNat) (s.rdV b) i))) 8) ∧
    (Ready s (.venc f sat k a b) → (s.fmtReg f).toNat < 14 → exec (.venc f sat k a b) s = .next (Consumed (.venc f sat k a b) (s.wrV a
      (narrow (fmtWidth (s.fmtReg f).toNat) k (s.mask k) ((elems 32 (s.rdV b)).map fun x =>
        encodeFmt s.rd.tabs.a s.rd.tabs.b (s.fmtReg f).toNat sat (Num.decode Num.f32 x)) (s.oldV a)) 8))) ∧
    (Ready s (.dtld f g off) → let ad := (s.rdG g + off.signExtend 64).toNat
      ad % 64 = 0 → ad + 1024 ≤ 0x28000 → s.ulmWaits = false → (s.ulmBlock ad 1024).2 = none →
      ∃ (t : State) (l : TabLoad), exec (.dtld f g off) s = .next t ∧ (t.thr s.cur).st = .parked ∧
        (t.core s.ck).tabs.loading = putTabLoad l (s.core s.ck).tabs.loading ∧ l.thread = s.cur % 64 ∧ (l.b = true ↔ f = .b) ∧
        l.issued = s.issuePlace ∧ l.due = s.cycOf s.ck + 256 ∧
        ∀ j, j < 256 → FMap.get 0 l.entries j = BitVec.ofNat 19 (field (s.ulmBlock ad 1024).1 (4 * j) 4 / 2 ^ 13))

/-- Claim.MasksAndReductionsComplete and Claim.ConversionsComplete hold. -/
def Obligations.MasksAndConversionsComplete : Prop := Claim.MasksAndReductionsComplete ∧ Claim.ConversionsComplete


/-- R163, R182, R183: element by element, what a vector operation applies to its sources; a lane that the mask leaves out keeps what the
destination held. -/
def Sys2Proof.Claim.VectorElements : Prop :=
  ∀ (w : IWid) (f : Nat → Nat) (g : Nat → Nat → Nat) (h : Nat → Nat → Nat → Nat) (x y z : VWord) (m : Mask128) (i : Nat),
    (i < 4096 / iwBits w → elem (iwBits w) (map1 (iwBits w) f x) i = f (elem (iwBits w) x i) % 2 ^ iwBits w ∧
      elem (iwBits w) (map2 (iwBits w) g x y) i = g (elem (iwBits w) x i) (elem (iwBits w) y i) % 2 ^ iwBits w ∧
      elem (iwBits w) (map3 (iwBits w) h x y z) i =
        h (elem (iwBits w) x i) (elem (iwBits w) y i) (elem (iwBits w) z i) % 2 ^ iwBits w) ∧
    (i < 128 → elem 32 (ofLanes f) i = f i % 2 ^ 32 ∧ lane (blend m x y) i = if m.getLsbD i then lane x i else lane y i)

/-- R68, R190: an integer vector element with saturation is the exact result clamped to the range of its type; without, a result that lies
in the range is exact. -/
def Sys2Proof.Claim.VectorIntegersExact : Prop :=
  ∀ (w : IWid) (u : Bool) (x y : Nat),
    let v := fun n => valW (!u) (iwBits w) n
    let low := loW (!u) (iwBits w)
    let high := hiW (!u) (iwBits w)
    (v (addE (.int w u true) x y) = min (max (v x + v y) low) high) ∧
    (v (subE (.int w u true) x y) = min (max (v x - v y) low) high) ∧
    (v (mulE (.int w u true) x y) = min (max (v x * v y) low) high) ∧
    (low ≤ v x + v y → v x + v y ≤ high → v (addE (.int w u false) x y) = v x + v y) ∧
    (low ≤ v x - v y → v x - v y ≤ high → v (subE (.int w u false) x y) = v x - v y) ∧
    (v (minE (.int w u false) x y) = min (v x) (v y)) ∧ (v (maxE (.int w u false) x y) = max (v x) (v y))

/-- Claim.VectorElements and Claim.VectorIntegersExact hold. -/
def Obligations.VectorLanes : Prop := Claim.VectorElements ∧ Claim.VectorIntegersExact


/-- R164 to R168: every code of a floating-point format that is no NaN is the code of the value it stands for. -/
def Obligations.FloatCodesRoundTrip : Prop :=
  ∀ f ∈ [Num.f32, Num.f16, Num.bf16, Num.e4m3, Num.e5m2, Num.e2m1, Num.e3m2, Num.e2m3, Num.e8m10], ∀ c, c < 2 ^ f.width →
    Num.isNan (Num.decode f c) = false → Num.code f (Num.decode f c) = c
/-! ## Matrix unit and tiles -/

namespace Sys2Proof.Claim

/-- The operands of an MMA or MMAS of the executing thread: its format and scale registers, handle register b, interval register d, and
the AB addresses of A and of the metadata where the form has them (R208, R209). -/
def mmaOperands (s : State) (b d : GReg) (n : Nat) (addr metaAt : Option GReg) : MmaArgs :=
  { fmta := s.me.fmta, fmtb := s.me.fmtb, scla := s.me.scla, sclb := s.me.sclb, handle := s.rdG b, interval := s.rdG d, n := n
    addr := addr.map s.rdG, metaAt := metaAt.map s.rdG }

/-- The matrix queue of the executing core has room for one entry more, and no operation issued earlier waits to enter it (R199). -/
def QueueRoom (s : State) : Prop := (s.core s.ck).mx.queue.length < 16 ∧ s.ahead s.ck s.issuePlace .matrix = false

/-- The queue entry of an MMA or MMAS of the executing thread: where the other half of its bundle writes to ULM, with the vector scales that
it has read before that (R27). -/
def mmaEntry (s : State) (a : GReg) (mode : Bool) (op : MxOp) : MxEntry :=
  { s.mxEntry a.toNat op with scl := if s.scalesNow mode then some s.readScales else none }

/-- State t, in which the executing thread of state s has just entered an operation that takes vectors from stream register q, when the stream
has delivered what it holds: the thread is parked for the others, and it faults where the stream does (R210). -/
def Delivered (s t : State) (q : Nat) : State :=
  match t.mxGive s.ck q 4 with
  | (u, .all _ _) => u
  | (u, .faults k f) => u.takeFault k f
  | (u, .waits) => u.park s.cur (.unit s.entryPlace)

end Sys2Proof.Claim

/-- R199, R209: MMA and MMAS from AB, on operands that pass the checks of the rule and with room in the queue, enter an operation in the
core's matrix queue and leave the receipt register pending. -/
def Sys2Proof.Claim.MmaFromBufferCompletes : Prop :=
  ∀ (s : State) (a b c d e : GReg) (mode : Bool), QueueRoom s → (s.scalesNow mode = true → s.ulmWaits = false) →
    let enter := fun (n : Nat) (x : Option GReg) => Host.Outcome.next ((s.mxPush s.ck (mmaEntry s a mode
      ((mmaOperands s b d n (some c) x).op mode (.ab (s.rdG c).toNat)))).pend s.cur (.g a.toNat) none)
    (Ready s (.mmaAb a b c d) → mmaCheck (mmaOperands s b d 32 (some c) none) none = .ok mode → exec (.mmaAb a b c d) s = enter 32 none) ∧
    (Ready s (.mmasK16Ab a b c d e) → mmaCheck (mmaOperands s b d 16 (some c) (some e)) none = .ok mode →
      exec (.mmasK16Ab a b c d e) s = enter 16 (some e)) ∧
    (Ready s (.mmasK8Ab a b c d e) → mmaCheck (mmaOperands s b d 8 (some c) (some e)) none = .ok mode →
      exec (.mmasK8Ab a b c d e) s = enter 8 (some e))

/-- R209, R210: MMA and MMAS whose A operand comes from a stream register bound to the thread, with enough vectors left, enter their
operation too; the vectors that the stream has already fetched are delivered at once, and the thread is parked for those to come. -/
def Sys2Proof.Claim.MmaFromStreamCompletes : Prop :=
  ∀ (s : State) (a b d e : GReg) (q : BitVec 2) (st : Machine.Stream) (mode : Bool), QueueRoom s → (s.scalesNow mode = true → s.ulmWaits = false) →
    s.stream q.toNat = some st →
    let left := st.desc.len.map (· - st.pos)
    let enter := fun (n : Nat) (x : Option GReg) =>
      let m := mmaOperands s b d n none x
      let t := (s.mxPush s.ck (mmaEntry s a mode (m.op mode (.stream q.toNat m.vectors [])))).pend s.cur (.g a.toNat) none
      Host.Outcome.next (if m.vectors = 0 then t else Delivered s t q.toNat)
    (Ready s (.mmaStream a b q d) → mmaCheck (mmaOperands s b d 32 none none) left = .ok mode →
      exec (.mmaStream a b q d) s = enter 32 none) ∧
    (Ready s (.mmasK16Stream a b q d e) → mmaCheck (mmaOperands s b d 16 none (some e)) left = .ok mode →
      exec (.mmasK16Stream a b q d e) s = enter 16 (some e)) ∧
    (Ready s (.mmasK8Stream a b q d e) → mmaCheck (mmaOperands s b d 8 none (some e)) left = .ok mode →
      exec (.mmasK8Stream a b q d e) s = enter 8 (some e))

/-- Claim.MmaFromBufferCompletes and Claim.MmaFromStreamCompletes hold. -/
def Obligations.MmaCompletes : Prop := Claim.MmaFromBufferCompletes ∧ Claim.MmaFromStreamCompletes


/-- R213 to R218: BLD, BROT, SWAPT, LDT and MCMD on operands that pass their checks: the first two enter the matrix queue, SWAPT waits
for its partner (on the diagonal it does nothing), LDT loads the eight registers with the transposed block, and MCMD sends its block. -/
def Obligations.MatrixMovesComplete : Prop :=
  ∀ (s : State) (a b c : GReg) (v : BitVec 6),
    (∀ ad n, Ready s (.bld a) → QueueRoom s → bldCheck (s.rdG a) s.me.fmtb = .ok (ad, n) →
      exec (.bld a) s = .next (s.mxPush s.ck (s.mxEntry 0 (.bld ad n s.me.fmtb)))) ∧
    (Ready s .brot → QueueRoom s → exec .brot s = .next (s.mxPush s.ck (s.mxEntry 0 (.brot false)))) ∧
    (Ready s (.swapt a b) → (s.rdG a).toNat % 64 = 0 → (s.rdG b).toNat % 64 = 0 → 0 < (s.rdG b).toNat → (s.rdG b).toNat ≤ 4096 →
      (s.rdG a).toNat + (s.rdG b).toNat ≤ 0x30000 →
      (s.ck % 4 = s.ck / 4 % 4 → exec (.swapt a b) s = .next s) ∧
      (s.ck % 4 ≠ s.ck / 4 % 4 → ∃ t : State, exec (.swapt a b) s = .next t ∧ (t.thr s.cur).st = .parked ∧
        (t.core s.ck).mx.swaps = (s.core s.ck).mx.swaps ++
          [{ id := s.entryPlace, thread := s.cur % 64, addr := (s.rdG a).toNat, len := (s.rdG b).toNat }])) ∧
    (Ready s (.ldt v b) → (s.rdG b).toNat % 128 = 0 → (s.rdG b).toNat + 4096 ≤ 0x30000 →
      s.waits (!s.portClear s.ck .ab s.issuePlace) = false → s.rd.ab.badIn (s.rdG b).toNat 4096 = none →
      exec (.ldt v b) s = .next ((List.range 8).foldl (fun s' r => s'.wrVr (v.toNat + r) (ofLanes fun l =>
        s.rd.ab.nat ((s.rdG b).toNat + 128 * (l % 32) + 4 * (4 * r + l / 32)) 4) 16) s)) ∧
    (Ready s (.mcmd a b c) → (s.rdG b).toNat % 2 ^ 44 = 0 → (s.rdG c).toNat % 64 = 0 → (s.rdG c).toNat + 64 ≤ 0x28000 →
      handlePkg (s.rdG b) = s.pkg → s.ulmWaits = false → (s.ulmBlock (s.rdG c).toNat 64).2 = none →
      let d := (s.ulmBlock (s.rdG c).toNat 64).1
      let w := fun (i : Nat) => BitVec.ofNat 64 (field d i 8)
      let m : MCommand :=
        { kind := field d 0 1, fmtA := BitVec.ofNat 4 (field d 1 1), fmtB := BitVec.ofNat 4 (field d 2 1)
          scla := BitVec.ofNat 32 (field d 4 4), sclb := BitVec.ofNat 32 (field d 8 4), handle := w 16, interval := w 24, aaddr := w 32
          bload := w 40, capt := (s.core s.ck).capt, tenant := s.myTenant
          target := { pkg := s.pkg, die := handleCore (s.rdG b) / 512, core := handleCore (s.rdG b) % 512, thread := 0 }
          src := s.loc s.cur, reg := a.toNat }
      mcmdOk d m = true → exec (.mcmd a b c) s = .next ((s.pend s.cur (.g a.toNat) none).post s.pkg (.mcmd m)))

/-- R205 to R207, R212 to R214, R219, R235: the head of a matrix queue that has all it waits for is performed: an MMA or a TCONT sends its
contribution, a BLD loads the active latch, a BROT takes the incoming one; and the latch of a BROT at the head of its queue, whose movement
has ended, stands in the empty incoming latch of the next core in the ring. An MMA occupies the unit for one cycle for every two rows of A, and what it sends is sent 16 cycles after that. -/
def Sys2Proof.Claim.MatrixQueueRuns : Prop :=
  ∀ (s : State) (e : MxEntry) (r : List MxEntry),
    ((s.core s.subj).mx.queue = e :: r → s.mxReady s.subj = true →
      (∀ src n md f i x y h l k w, e.op = .mma src n md f i x y h l k w → exec .matrixQueueEntry s =
        .next ((s.performMma s.subj e src n md f i x y h l k w).mxPop s.subj) ∧
        ((s.performMma s.subj e src n md f i x y h l k w).core s.subj).mx.free = s.cycOf s.subj + (w * n / 32 + 1) / 2 ∧
        (s.mxBad s.subj e src n md f i x y l w = none → ∃ m, ((s.performMma s.subj e src n md f i x y h l k w).core s.subj).mx.drain =
          (s.core s.subj).mx.drain ++ [(s.cycOf s.subj + (w * n / 32 + 1) / 2 + 16, m)])) ∧
      (∀ ad n f, e.op = .bld ad n f → ∃ t : State, exec .matrixQueueEntry s = .next t ∧ (t.core s.subj).mx.queue = r ∧
        (t.core s.subj).mx.active = s.bldLatch s.subj e ad n f ∧ (t.core s.subj).mx.inc = .empty) ∧
      (∀ x, e.op = .brot x → ∃ t : State, exec .matrixQueueEntry s = .next t ∧ (t.core s.subj).mx.queue = r ∧
        (t.core s.subj).mx.active = (s.core s.subj).mx.incoming ∧ (t.core s.subj).mx.inc = .empty) ∧
      (∀ h k w vals, e.op = .tcont h k w vals → ∃ c : Contribution, c.handle = h ∧ c.klo = k ∧ c.kn = w ∧ c.vals = vals ∧ c.src = e.rcpt ∧
        c.reg = e.reg ∧ c.tenant = e.tenant ∧ c.anyMode = true ∧ exec .matrixQueueEntry s = .next ((s.contribute c).mxPop s.subj))) ∧
    ((s.core (s.subj / 16 * 16 + ringBefore (s.subj % 16))).mx.queue = e :: r → e.op = .brot false → (s.core s.subj).mx.inc = .empty →
      (∃ m, (s.core (s.subj / 16 * 16 + ringBefore (s.subj % 16))).mx.moved = some m ∧ m ≤ s.cycOf (s.subj / 16 * 16 + ringBefore (s.subj % 16))) →
      ∃ t : State, exec .latchArrival s = .next t ∧ (t.core s.subj).mx.inc = .received ∧
        (t.core s.subj).mx.incoming = (s.core (s.subj / 16 * 16 + ringBefore (s.subj % 16))).mx.active)

/-- R215, R176, R263: two matching SWAPTs of partner cores exchange their bytes of AB and both threads go on; a loaded decode table
replaces its predecessor 256 cycles after it was read, once no operation issued before its DTLD is to decode any more and no earlier DTLD of
the same table is to read it, and a loaded table pair its predecessor
64 cycles after it was read. -/
def Sys2Proof.Claim.ExchangesAndTablesComplete : Prop :=
  ∀ (s : State), s.memOk →
    (∀ x y xs ys, (s.core s.subj).mx.swaps = x :: xs → (s.core (transposed s.subj)).mx.swaps = y :: ys → s.subj ≠ transposed s.subj →
      x.hold = false → y.hold = false → s.portClear s.subj .ab x.id = true → s.portClear (transposed s.subj) .ab y.id = true →
      x.len = y.len → x.len ≤ 4096 →
      ∃ u t : State, t = (u.doneWaiting (s.subj * 64 + x.thread) (.unit x.id)).doneWaiting (transposed s.subj * 64 + y.thread) (.unit y.id) ∧
        exec .swaptPairComplete s = .next t ∧
        (t.core s.subj).ab.read x.addr x.len = (s.core (transposed s.subj)).ab.read y.addr y.len ∧
        (t.core (transposed s.subj)).ab.read y.addr y.len = (s.core s.subj).ab.read x.addr x.len) ∧
    (∀ l r, (s.core s.subj).tabs.loading = l :: r → (∀ e ∈ (s.core s.subj).mx.queue, mxDecodes e.op = true → l.issued ≤ e.id) →
      l.due ≤ s.cycOf s.subj → s.dtldAhead s.subj l = false → ∃ t : State, exec .decodeTableReplace s = .next t ∧ (t.core s.subj).tabs.loading = r ∧
        (l.b = false → (t.core s.subj).tabs.a = l.entries ∧ (t.core s.subj).tabs.b = (s.core s.subj).tabs.b) ∧
        (l.b = true → (t.core s.subj).tabs.b = l.entries ∧ (t.core s.subj).tabs.a = (s.core s.subj).tabs.a)) ∧
    (∀ l r, (s.core s.subj).means.loading = l :: r → l.due ≤ s.cycOf s.subj → ∃ t : State, exec .meanPairReplace s = .next t ∧
      (t.core s.subj).meanPair l.n = some l.pair ∧ (t.core s.subj).means.loading = r ∧
      ∀ n, n ≠ l.n → (t.core s.subj).meanPair n = (s.core s.subj).meanPair n)

/-- R218, R357 (DEDUCED, log entry 102): the oldest command in transit to a core is refused with code 5, and logged, where the core is held by no tenant or the
capability is not its own, and with code 10 where its tenant is pre-empted, the core being still its own or saved with it; else it enters the
matrix queue, a BLD before it where KIND is 1. -/
def Sys2Proof.Claim.CommandsArrive : Prop :=
  ∀ (s : State) (i : NetItem) (m : MCommand), i ∈ s.net → i.id = s.subj → i.msg = .mcmd m → (∀ j ∈ s.net, j.id = s.subj → j = i) →
    m.target.pkg = s.pkg → let ck := locCore m.target
    let c := s.core ck
    let rest : State := { s with net := s.net.filter fun j => j.id != s.subj }
    (s.mcmdsTo ck).head?.map (·.1) = some s.subj → s.mcmdAdmits ck m = true →
    ((c.assigned = false ∧ (∀ x ∈ s.saved, FMap.find? x.cores ck = none)) ∨ (c.assigned = true ∧ c.capt ≠ m.capt) → exec .mcmdArrival s =
      .next ((rest.vlogAt ck m.handle 0x04 m.tenant (locWord m.src)).receipt m.src m.reg (bareReceipt 5))) ∧
    (∀ x k, c.assigned = false → s.saved = [x] → FMap.find? x.cores ck = some k → k.capt = m.capt → (s.tenant x.tenant).preempted = true →
      exec .mcmdArrival s = .next (rest.receipt m.src m.reg (bareReceipt 10))) ∧
    (c.assigned = true → c.capt = m.capt →
      ((s.tenant c.tenant).preempted = true → exec .mcmdArrival s = .next (rest.receipt m.src m.reg (bareReceipt 10))) ∧
      ((s.tenant c.tenant).preempted = false → ∃ (t : State) (l : List MxEntry) (e : MxEntry), exec .mcmdArrival s = .next t ∧
        (t.core ck).mx.queue = c.mx.queue ++ l ++ [e] ∧ t.net = rest.net ∧
        e.op = (mcmdArgs m).op ((mxMode m.fmtA m.fmtB).getD false) (.ab m.aaddr.toNat) ∧ e.thr = none ∧ e.rcpt = m.src ∧ e.reg = m.reg ∧
        e.tenant = m.tenant ∧ (m.kind ≠ 1 → l = []) ∧
        (∀ a n, m.kind = 1 → bldCheck m.bload m.fmtB = .ok (a, n) → l.map (·.op) = [.bld a n m.fmtB])))

/-- Claim.MatrixQueueRuns, Claim.ExchangesAndTablesComplete and Claim.CommandsArrive hold. -/
def Obligations.MatrixUnitRuns : Prop := Claim.MatrixQueueRuns ∧ Claim.ExchangesAndTablesComplete ∧ Claim.CommandsArrive
/-- R232 to R243: the tile instructions, each on a handle that passes its checks, and those that only the owner executes with none of the
core's before them still to take effect: TALLOC opens the lowest FREE or ABANDONED slot, with K and mode as given, and returns its handle;
TCONT enters its contribution in the matrix queue; TSTAT reads the summary word; TREAD writes the 1,024 converted elements of a COMPLETE tile
to AB; TWAIT goes on when the tile is COMPLETE; TABAN and TFREE end the tile and move its generation on; TPEEK loads eight registers, whose
elements it reads at its issue (R242 leaves the moment open: DESIGN CHOICE, log entry 116), with such of the additions as may have landed
(DESIGN CHOICE, log entry 18). -/
def Obligations.TileInstructionsComplete : Prop :=
  ∀ (s : State) (i34 sat wrp : Bool) (fmt : BitVec 4) (a b d : GReg) (v : BitVec 6) (off : Off16),
    let owned := fun (h : Word) => handleOk h = true ∧ handlePkg h = s.pkg ∧ handleCore h = s.ck
    let fresh := fun (h : Word) => (s.slotOf h).gen = handleGen h ∧ ((s.slotOf h).st = .open ∨ (s.slotOf h).st = .complete)
    let first := s.ahead s.ck s.issuePlace .tiles = false
    (∀ n, Ready s (.talloc i34 a b) → s.began = none → first → 0 < (s.rdG b).toNat → (s.rdG b).toNat < 2 ^ 32 → n < 32 →
      (∀ j, j < n → ((s.core s.ck).slot j).st = .open ∨ ((s.core s.ck).slot j).st = .complete) →
      ((s.core s.ck).slot n).st = .free ∨ ((s.core s.ck).slot n).st = .abandoned → ((s.core s.ck).slot n).landing = [] →
      exec (.talloc i34 a b) s = .next ((s.updSlot s.ck n fun t =>
        { TileSlot.reset with k := (s.rdG b).toNat, gen := t.gen, int34 := i34, st := .open, tenant := s.myTenant }).wrG a
        (s.handleOf n ((s.core s.ck).slot n).gen))) ∧
    (Ready s (.tcont a b v d) → handleOk (s.rdG b) = true → QueueRoom s → exec (.tcont a b v d) s =
      .next ((s.mxPush s.ck (s.mxEntry a.toNat (.tcont (s.rdG b) ((s.rdG d).toNat % 2 ^ 32) ((s.rdG d).toNat / 2 ^ 32)
        ((List.range 1024).map fun e => lane (s.rdVr (v.toNat + e / 128)) (e % 128))))).pend s.cur (.g a.toNat) none)) ∧
    (Ready s (.tstat a b) → first → owned (s.rdG b) → exec (.tstat a b) s = .next (s.wrG a ((s.slotOf (s.rdG b)).summary (s.rdG b)))) ∧
    (Ready s (.tread fmt sat wrp a off b) → first → owned (s.rdG b) → fresh (s.rdG b) → (s.slotOf (s.rdG b)).st = .complete →
      (s.slotOf (s.rdG b)).covered = true → (s.slotOf (s.rdG b)).poison = false → ((s.slotOf (s.rdG b)).int34 = true ↔ fmt = 15#4) →
      (s.rdG a + off.signExtend 64).toNat % 64 = 0 → (s.rdG a + off.signExtend 64).toNat + 128 * treadWidth fmt ≤ 0x30000 →
      s.waits (!s.portClear s.ck .ab s.issuePlace) = false →
      exec (.tread fmt sat wrp a off b) s = .next (s.writeMem (.buf s.ck .ab (s.rdG a + off.signExtend 64).toNat)
        (leBytes (128 * treadWidth fmt) (joinNat (treadWidth fmt) ((List.range 1024).map fun e => treadElem s.rd.tabs.a s.rd.tabs.b fmt
          sat wrp (s.slotOf (s.rdG b)).int34 s.me.tscl ((s.slotOf (s.rdG b)).elemAt e)))))) ∧
    (Ready s (.twait a) → first → owned (s.rdG a) → fresh (s.rdG a) → (s.slotOf (s.rdG a)).st = .complete → exec (.twait a) s = .next s) ∧
    (Ready s (.taban a) → first → owned (s.rdG a) → fresh (s.rdG a) → exec (.taban a) s =
      .next (s.updSlot s.ck (handleSlot (s.rdG a)) fun t => { t with st := .abandoned, gen := t.gen + 1 })) ∧
    (Ready s (.tfree a) → first → owned (s.rdG a) → fresh (s.rdG a) → (s.slotOf (s.rdG a)).st = .complete → exec (.tfree a) s =
      .next (s.updSlot s.ck (handleSlot (s.rdG a)) fun t => { t with st := .free, gen := t.gen + 1 })) ∧
    (Ready s (.tpeek v b) → first → owned (s.rdG b) → fresh (s.rdG b) → (s.slotOf (s.rdG b)).poison = false →
      exec (.tpeek v b) s = .next ((List.range 8).foldl (fun s' r => s'.wrVr (v.toNat + r)
        (ofLanes fun l => (s.elemSeen (s.slotOf (s.rdG b)) (128 * r + l)).1.toNat) 40) { s with freeCount := s.freeCount + 1 }))

/-- R225, R226, R228, R244: the owner's answer to a contribution that stands in transit with none of its unit before it. Of a slot that was
saved with its pre-empted tenant the code is 10 (DEDUCED, log entry 102). Of a slot of another generation the code is 3; of the right one, FREE or ABANDONED or another tenant's, 6; a poisoned slot answers 9; an interval that is
empty, goes beyond K or is of another mode, 7; one that overlaps an accepted interval, 1; one that would make a seventh fragment, 2;
any other is accepted with code 0, merged into the record and queued for addition. The receipt is filled from the record. -/
def Sys2Proof.Claim.ContributionExamined : Prop :=
  ∀ (s : State) (i : NetItem) (c : Contribution), s.net.find? (fun j => j.id == s.subj) = some i → i.msg = .contribution c →
    (∀ j ∈ s.net, j.id = s.subj → j = i) → handlePkg c.handle = s.pkg → s.contributionBehind s.subj c = false →
    let t := (s.core (handleCore c.handle)).slot (handleSlot c.handle)
    let rest : State := { s with net := s.net.filter fun j => j.id != s.subj }
    (∀ x k, (s.core (handleCore c.handle)).assigned = false → s.saved = [x] → FMap.find? x.cores (handleCore c.handle) = some k →
      (k.slot (handleSlot c.handle)).tenant = x.tenant → (s.tenant x.tenant).preempted = true →
      exec .contributionExamine s = .next (rest.receipt c.src c.reg 10)) ∧
    ((∀ x ∈ s.saved, FMap.find? x.cores (handleCore c.handle) = none) → (s.tenant t.tenant).preempted = false →
    (handleGen c.handle ≠ t.gen → exec .contributionExamine s = .next (rest.receipt c.src c.reg 3)) ∧
    (handleGen c.handle = t.gen → (t.st = .free ∨ t.st = .abandoned) → exec .contributionExamine s = .next (rest.receipt c.src c.reg 6)) ∧
    (handleGen c.handle = t.gen → (t.st = .open ∨ t.st = .complete) → c.tenant = t.tenant →
      (∃ code, exec .contributionExamine s = .next ((rest.updSlot (handleCore c.handle) (handleSlot c.handle) fun _ => t.take c code).receipt
          c.src c.reg (fullReceipt (t.take c code) code)) ∧
        (t.poison = true → code = 9) ∧
        (t.poison = false → (c.kn = 0 ∨ t.k < c.klo + c.kn ∨ (c.anyMode = false ∧ c.intMode ≠ t.int34)) → code = 7) ∧
        (t.poison = false → c.kn ≠ 0 → c.klo + c.kn ≤ t.k → (c.anyMode = true ∨ c.intMode = t.int34) →
          ((∃ f ∈ t.frags, f.1 < c.klo + c.kn ∧ c.klo < f.2) → code = 1) ∧
          ((∀ f ∈ t.frags, c.klo + c.kn ≤ f.1 ∨ f.2 ≤ c.klo) →
            (t.frags.length = 6 → (∀ f ∈ t.frags, f.2 ≠ c.klo ∧ f.1 ≠ c.klo + c.kn) → code = 2) ∧
            (t.frags.length ≠ 6 ∨ (∃ f ∈ t.frags, f.2 = c.klo ∨ f.1 = c.klo + c.kn) → code = 0))))) ∧
    (handleGen c.handle = t.gen → (t.st = .open ∨ t.st = .complete) → c.tenant ≠ t.tenant → exec .contributionExamine s = .next
      ((rest.vlogAt (handleCore c.handle) c.handle 0x05 c.tenant (locWord c.unit)).receipt c.src c.reg 6))) ∧
    ((t.take c 0).accepted = min (t.accepted + 1) 0xFFFF ∧ (t.take c 0).landing = t.landing ++ [c.vals] ∧
      (t.take c 0).frags = mergeFrag c.klo (c.klo + c.kn) t.frags) ∧
    (∀ code, code ≠ 0 → (t.take c code).frags = t.frags ∧ (t.take c code).landing = t.landing ∧
      (t.take c code).refused = min (t.refused + 1) 0xFFFF)

/-- R223, R226: merging an interval that is not empty and overlaps none of the fragments keeps the fragments in order, disjoint and not
abutting, and covers exactly what they and the interval cover. -/
def Sys2Proof.Claim.FragmentsStayOrdered : Prop :=
  ∀ (lo hi : Nat) (l : List (Nat × Nat)), lo < hi → (∀ f ∈ l, f.1 < f.2 ∧ (hi ≤ f.1 ∨ f.2 ≤ lo)) → l.Pairwise (fun f g => f.2 < g.1) →
    (mergeFrag lo hi l).Pairwise (fun f g => f.2 < g.1) ∧ (∀ f ∈ mergeFrag lo hi l, f.1 < f.2) ∧
    ∀ x, (∃ f ∈ mergeFrag lo hi l, f.1 ≤ x ∧ x < f.2) ↔ (lo ≤ x ∧ x < hi) ∨ ∃ f ∈ l, f.1 ≤ x ∧ x < f.2

/-- Claim.ContributionExamined and Claim.FragmentsStayOrdered hold. -/
def Obligations.TilesAccumulate : Prop := Claim.ContributionExamined ∧ Claim.FragmentsStayOrdered


/-- R226, R228, R230: the additions of the oldest accepted contribution of a slot land; with the last of a complete coverage the tile is
COMPLETE; and a receipt that arrives for a register that is pending for it is written there. -/
def Obligations.AdditionsAndReceipts : Prop :=
  ∀ (s : State),
    (∀ vs r, ((s.core (s.subj / 32)).slot (s.subj % 32)).landing = vs :: r →
      let t := (s.core (s.subj / 32)).slot (s.subj % 32)
      exec .tileAdditionsLand s = .next (s.updSlot (s.subj / 32) (s.subj % 32) TileSlot.land) ∧ t.land.landing = r ∧
      (∀ e, e < 1024 → t.land.elemAt e = ((tileAdd t.int34 (t.elemAt e).1 (t.elemAt e).2 ((vs[e]?).getD 0)).1,
        (tileAdd t.int34 (t.elemAt e).1 (t.elemAt e).2 ((vs[e]?).getD 0)).2.1)) ∧
      (t.land.st = .complete ↔ t.st = .complete ∨ (t.st = .open ∧ r = [] ∧ t.frags = [(0, t.k)]))) ∧
    (∀ i l n w, s.netHere s.subj = some i → i.msg = .receipt l n w →
      (∃ m ∈ (s.thr (locKey l)).pend, m.reg = .g n ∧ m.ready = none) →
      exec .receiptArrival s = .next (((s.netDrop i.id).putReg (locKey l) (.g n) (w.setWidth 4096)).settle (locKey l)))

/-- The value that a lane of the mean unit computes; none where it is in domain error. -/
def Sys2Proof.Claim.laneValue {α : Type} (r : Run α) : Option α := (runLane r).1

/-- R253 to R263: QSHAPE with a valid shape sets QSP; QCLR empties the lanes of its mask; QTLD reads a well-formed block and parks its thread
until the pair is replaced, which takes 64 cycles. -/
def Sys2Proof.Claim.MeanRegistersSet : Prop :=
  ∀ (s : State) (imm : BitVec 16) (n : BitVec 2) (k : VMask) (a : BitVec 6) (g : GReg) (off : Off16),
    (Ready s (.qshape imm) → qshapeOk imm = true → exec (.qshape imm) s = .next (s.updThr s.cur fun h => { h with qsp := imm })) ∧
    (Ready s (.qclr k a) → exec (.qclr k a) s = .next (s.wrTrip a
      ((List.range 128).map fun i => if (s.mask k).getLsbD i then Trip.empty else s.trip a.toNat i) 8)) ∧
    (Ready s (.qtld n g off) → let ad := (s.rdG g + off.signExtend 64).toNat
      ad % 64 = 0 → ad + 2240 ≤ 0x28000 → s.ulmWaits = false → (s.ulmBlock ad 2240).2 = none →
      ∀ p, parsePair (s.ulmBlock ad 2240).1 = some p →
        ∃ t : State, exec (.qtld n g off) s = .next t ∧ (t.thr s.cur).st = .parked ∧ (t.core s.ck).means.loading =
          (s.core s.ck).means.loading ++ [{ id := s.issuePlace, thread := s.cur % 64, n := n.toNat, pair := p, due := s.cycOf s.ck + 64 }])

/-- R254, R256 to R260: QACC, QMERGE, QRED and QFIN under a valid shape and with no shadow defect write what the rule gives for each lane of
the mask, where no lane is in domain error or the form gathers them. A form that gathers writes to m7 the lanes that m7 held and those in error;
to a lane in error QACC writes NaN in T and s and counts it, as far as n goes, and QFIN writes NaN. QRED occupies the unit for 8 cycles. Where
QFIN takes its defaults from a stream, they are one vector of it (DESIGN CHOICE, log entry 118). -/
def Sys2Proof.Claim.MeanOperationsComplete : Prop :=
  ∀ (s : State) (sh : Shape) (q : Bool) (k : VMask) (a b : BitVec 6) (c : VOp), s.shape = some sh → s.rd.defects.mean = [] →
    let m := s.mask k
    let fold := fun i => Claim.laneValue (foldLane sh (s.trip a.toNat i) (elem 32 (s.rdV c) i))
    let merge := fun i => Claim.laneValue (mergeLane sh (s.trip a.toNat i) (s.trip b.toNat i))
    let fin := fun i => Claim.laneValue (finLane sh (s.trip a.toNat i) (elem 32 (s.rdV c) i))
    let inError := fun (x : Trip) => ({ t := 0x7FC00000, n := if x.n = 2 ^ 31 - 1 then x.n else x.n + 1, s := 0x7FC00000 } : Trip)
    let gather := fun (t : State) (err : Nat → Bool) (lat : Nat) =>
      if q then t.wrM 7 (t.rdM 7 ||| ofBits fun i => m.getLsbD i && err i) lat else t
    (Ready s (.qacc q k a c) → (q = true ∨ ∀ i, i < 128 → m.getLsbD i = true → (fold i).isSome) →
      exec (.qacc q k a c) s = .next (Consumed (.qacc q k a c) (gather (s.wrTrip a ((List.range 128).map fun i =>
        if m.getLsbD i then (fold i).getD (inError (s.trip a.toNat i)) else s.trip a.toNat i) 24) (fun i => (fold i).isNone) 24))) ∧
    (Ready s (.qmerge k a b) → (∀ i, i < 128 → m.getLsbD i = true → (merge i).isSome) →
      exec (.qmerge k a b) s = .next (s.wrTrip a ((List.range 128).map fun i =>
        if m.getLsbD i then (merge i).getD Trip.empty else s.trip a.toNat i) 24)) ∧
    (Ready s (.qred k a) → ∀ x checks,
      qredTree sh 7 ((List.range 128).map fun i => if m.getLsbD i then s.trip a.toNat i else Trip.empty) [] = .ok ([x], checks) →
      exec (.qred k a) s = .next ((s.updCore s.ck fun c => { c with means := { c.means with free := s.cycOf s.ck + 8 } }).wrTrip a
        ((List.range 128).map fun i => if i = 0 then x else Trip.empty) 176)) ∧
    (Ready s (.qfin q k a c) → (q = true ∨ ∀ i, i < 128 → m.getLsbD i = true → (fin i).isSome) →
      exec (.qfin q k a c) s = .next (Consumed (.qfin q k a c) (gather (s.wrVr a.toNat (ofElems 32 ((List.range 128).map fun i =>
        if m.getLsbD i then (fin i).getD 0x7FC00000 else elem 32 (s.rdVr a.toNat) i)) 32) (fun i => (fin i).isNone) 32)))

/-- Claim.MeanRegistersSet and Claim.MeanOperationsComplete hold. -/
def Obligations.MeansComplete : Prop := Claim.MeanRegistersSet ∧ Claim.MeanOperationsComplete
/-! ## Streams and copies -/

/-- R132, R133, R137: SBIND of an unbound stream register on a well-formed descriptor in ULM binds it to the thread at position 0; SFREE
unbinds it, and SSTAT reads its tail mask or its position and length. -/
def Sys2Proof.Claim.StreamsComplete : Prop :=
  ∀ (s : State) (q : QReg) (a b : GReg) (m : MReg),
    (∀ d, Ready s (.sbind q b) → FMap.find? s.rd.q q.toNat = none → s.waits s.storesUnaccepted = false → (s.rdG b).toNat % 64 = 0 →
      (s.rdG b).toNat + 64 ≤ 0x28000 → s.ulmWaits = false → (s.ulmBlock (s.rdG b).toNat 64).2 = none →
      parseStream (s.ulmBlock (s.rdG b).toNat 64).1 (decide (q.toNat < 4)) = some d →
      exec (.sbind q b) s = .next (({ s with nextId := s.nextId + 1 } : State).updCore s.ck fun c =>
        { c with q := FMap.set c.q q.toNat { thread := s.cur % 64, desc := d, pos := 0, tail := 0, fetched := [], lent := [], bound := s.nextId } })) ∧
    (∀ st, s.stream q.toNat = some st →
      (Ready s (.sfree q) → (q.toNat < 4 ∨ s.writesDone q.toNat st = true) →
        exec (.sfree q) s = .next (s.updCore s.ck fun c => { c with q := FMap.erase c.q q.toNat })) ∧
      (Ready s (.sstatMask m q) → exec (.sstatMask m q) s = .next (s.putM s.cur m.toNat st.tail)) ∧
      (Ready s (.sstatPosition a q) → exec (.sstatPosition a q) s = .next (s.wrG a
        (BitVec.ofNat 64 ((st.desc.len).getD 0xFFFFFFFF % 2 ^ 32 * 2 ^ 32 + st.pos % 2 ^ 32)))))

/-- R119, R136, R139: a stream register that may fetch fetches its next vector, which goes to the matrix unit where an operation waits for it,
and a vector outside the tenant's windows is logged;
a full slot of a channel's source end is stored in the ring of its sink core and becomes visible to the sink. -/
def Sys2Proof.Claim.StreamEvents : Prop :=
  ∀ (s : State) (st : Machine.Stream), FMap.find? (s.core (s.subj / 8)).q (s.subj % 8) = some st →
    (s.mayFetch (s.subj / 8) st = true →
      let v := s.streamVector (s.subj / 8) st (st.pos + st.ahead)
      let t := match v.1.fault with
        | some r => s.logOutside r.faddr (s.core (s.subj / 8)).tenant (s.loc (s.subj / 8 * 64 + st.thread)) v.2
        | none => s
      exec .streamVectorFetch s = .next ((t.updCore (s.subj / 8) fun c =>
        { c with q := FMap.set c.q (s.subj % 8) { st with fetched := st.fetched ++ [v.1] } }).mxFeed (s.subj / 8) (s.subj % 8))) ∧
    (∀ k kq size allow ring fl d r pub un i a b z al rg vis rd part, s.memOk →
      st.desc = .chanOut k kq size allow ring fl (d :: r) pub un → FMap.find? (s.core k).q kq = some i →
      i.desc = .chanIn a b z al rg vis rd part → ∃ t : State, exec .channelSlotPublish s = .next t ∧
        (t.core k).ulm.read (ring + pub % allow * size) d.length = d ∧
        (FMap.find? (t.core k).q kq).map (·.desc) = some (.chanIn a b z al rg (vis + 1) rd part) ∧
        (FMap.find? (t.core (s.subj / 8)).q (s.subj % 8)).map (·.desc) = some (.chanOut k kq size allow ring fl r (pub + 1) un))

/-- Claim.StreamsComplete and Claim.StreamEvents hold. -/
def Obligations.StreamInstructionsComplete : Prop := Claim.StreamsComplete ∧ Claim.StreamEvents


/-- R284, R287 to R292: CPSET writes its shadow register; CPGO on shadows that pass the check, with room, enters the operation in its
queue and returns its identifier; CPQF enters one fence in each queue of its mask; CPSTAT returns the status word; CPWAIT goes on when
the operation is outstanding no more; either that finds a copy from or to another package DONE waits for the ingress horizon; CPCAN cancels a
queued operation, has a running one issue no more and parks its thread until it has settled, and does nothing to any other. -/
def Sys2Proof.Claim.CopiesComplete : Prop :=
  ∀ (s : State) (f : CpField) (a b : GReg) (mask : BitVec 8),
    let xid := (s.rdG a).toNat % 2 ^ 16
    (Ready s (.cpset f a) → exec (.cpset f a) s =
      .next (s.updThr s.cur fun h => { h with cp := FMap.set h.cp (cpIndex f) (s.rdG a) })) ∧
    (Ready s (.cpgo a) → copyCheck s.me.shadows = none → s.launchWaits s.ck (copyQueue s.me.shadows) = false →
      ∃ t : State, exec (.cpgo a) s = .next (t.wrG a (BitVec.ofNat 64 (s.core s.ck).copy.counter)) ∧
        (t.core s.ck).copy.counter = ((s.core s.ck).copy.counter + 1) % 2 ^ 16 ∧
        (t.cpQueue s.ck (copyQueue s.me.shadows)).map (·.shadows) =
          (s.cpQueue s.ck (copyQueue s.me.shadows)).map (·.shadows) ++ [s.me.shadows] ∧
        t.cpStat s.ck (s.core s.ck).copy.counter =
          some { xid := (s.core s.ck).copy.counter, offset := 0, cause := 0, queue := copyQueue s.me.shadows, st := .queued, far := false }) ∧
    (Ready s (.cpqf mask) → mask ≠ 0 → (∀ q, q < 8 → (s.cpQueue s.ck q).length < 16) → ∃ t : State, exec (.cpqf mask) s = .next t ∧
      ∀ q, q < 8 → if mask.getLsbD q then (∃ o, t.cpQueue s.ck q = s.cpQueue s.ck q ++ [o] ∧ o.fence = some mask ∧ o.id = s.nextId)
        else t.cpQueue s.ck q = s.cpQueue s.ck q) ∧
    (Ready s (.cpstat a b) → ∀ e, s.cpStat s.ck ((s.rdG b).toNat % 2 ^ 16) = e → exec (.cpstat a b) s =
      .next (if acquiresFar e then (s.wrG a (cpStatWord e)).hold s.cur (.horizon none) else s.wrG a (cpStatWord e))) ∧
    (Ready s (.cpwait a) → ∀ e, s.cpStat s.ck xid = e → outstanding e = false → exec (.cpwait a) s =
      .next (if acquiresFar e then s.park s.cur (.horizon none) else s)) ∧
    (Ready s (.cpcan a) → ∀ e, s.cpStat s.ck xid = some e → e.st = .running → exec (.cpcan a) s =
      .next ((s.setQueue s.ck e.queue ((s.cpQueue s.ck e.queue).map fun o =>
        if o.fence.isNone && o.xid == xid then { o with cancel := true } else o)).park s.cur (.cancel xid))) ∧
    (Ready s (.cpcan a) → (∀ e, s.cpStat s.ck xid = some e → e.st ≠ .queued ∧ e.st ≠ .running) → exec (.cpcan a) s = .next s) ∧
    (Ready s (.cpcan a) → ∀ e, s.cpStat s.ck xid = some e → e.st = .queued → exec (.cpcan a) s =
      .next ((s.setQueue s.ck e.queue ((s.cpQueue s.ck e.queue).filter fun o => !(o.fence.isNone && o.xid == xid))).setStat s.ck
        { e with st := .cancelled, offset := 0 }))

/-- R286, R292 to R294: the operation at the head of a copy queue moves its next block; a fence that heads every queue it names leaves
them; an operation whose bytes are all moved and acknowledged is DONE and performs its action: none, a conjunction arrival or a
decrement; a cancelled one is CANCELLED at the offset it has reached. -/
def Sys2Proof.Claim.CopyEngineRuns : Prop :=
  ∀ (s : State) (op : CopyOp) (r : List CopyOp), s.cpQueue (s.subj / 8) (s.subj % 8) = op :: r →
    let ck := s.subj / 8
    let q := s.subj % 8
    (op.fence = none → s.copyMayMove ck op = true → exec .copyOperationStart s = .next (s.copyMove ck q op)) ∧
    (∀ m, op.fence = some m → s.fencePasses ck op m = true → exec .copyOperationStart s =
      .next ((maskQueues m).foldl (fun s q => s.popHead ck q) s)) ∧
    (s.copyEnds ck op = true → op.cancel = true → op.settled = false → exec .copyCompletion s =
      .next (((s.dropAnswers op).setStat ck { xid := op.xid, offset := op.offset, cause := 0, queue := q, st := .cancelled, far := op.far }).popHead ck q)) ∧
    (s.copyEnds ck op = true → op.cancel = false → op.settled = false →
      let t := s.setStat ck { xid := op.xid, offset := op.offset, cause := 0, queue := q, st := .done, far := op.far }
      (copyKind op.shadows = 0 → exec .copyCompletion s = .next ((t.popHead ck q).copyNodeDone ck op t.nextId)) ∧
      (copyKind op.shadows = 2 → exec .copyCompletion s = .next (((t.copyArrival ck op).popHead ck q).copyNodeDone ck op t.nextId)) ∧
      (copyKind op.shadows = 3 → exec .copyCompletion s = .next (((t.decrement ck op.tenant (shd op.shadows 10)
        (t.loc (ck * 64 + op.thread.getD 0))).popHead ck q).copyNodeDone ck op t.nextId)) ∧
      (∀ n, copyKind op.shadows = 1 → op.thread = some n → (s.thr (ck * 64 + n)).uiPend.length < 16 → exec .copyCompletion s =
        .next (((t.updThr (ck * 64 + n) fun h => { h with uiPend := h.uiPend ++ [(BitVec.ofNat 32 (shd op.shadows 10), BitVec.ofNat 16 op.xid)] }).popHead ck q).copyNodeDone ck op t.nextId)))

/-- R286, R297: where the bytes of the next block all pass their checks and lie in this package, the whole block is read as the copy order says,
the operation's offset goes up by its length, and its status is RUNNING. What was read and kept of earlier blocks, and what is read now, is
written, later bytes of the copy order over earlier ones, but for the bytes of 8-byte words that get more bytes later in the copy order: they
are kept. In this package the bytes are written to their places. -/
def Sys2Proof.Claim.CopyBlockMoves : Prop :=
  ∀ (s : State) (ck q : Nat) (op : CopyOp), s.cpQueue ck q ≠ [] →
    (let u : State := { s with freeCount := s.freeCount + 1 }
     let bs := u.copyBlock ck op
     op.stop = none → op.await = [] → bs ≠ [] →
     (∀ x ∈ bs, u.byteFault x = none ∧ (trPlace x.srcTr).isRemote = false ∧ (trPlace x.dstTr).isRemote = false ∧
       (u.readAny (trPlace x.srcTr) 1).length = 1) →
     let new := ((List.range bs.length).zip bs).map fun (x : Nat × CopyPair) =>
       ({ ord := op.offset + x.1, dst := x.2.dst, place := trPlace x.2.dstTr, byte := ((u.readAny (trPlace x.2.srcTr) 1).head?).getD 0 } : CopyByte)
     let later := fun (b : CopyByte) => wordComes op.shadows (op.offset + bs.length) (b.dst.toNat / 8 * 8)
     let op' := { op with kept := (keepBytes op.kept new).filter later, offset := op.offset + bs.length, started := true }
     let t := s.copyMove ck q op
     t = (u.setRunning ck q op').copyPut ck q op' ((keepBytes op.kept new).filter fun b => !later b) ∧
     (t.cpQueue ck q).head?.map (·.offset) = some (op.offset + bs.length) ∧
     (t.core ck).copy.table = FMap.set (s.core ck).copy.table (op.xid % 256)
       (some { xid := op.xid, offset := op.offset + bs.length, cause := 0, queue := q, st := .running, far := op.far })) ∧
    (∀ l, (∀ w ∈ copyStores l, w.2.2.1.isRemote = false) →
      s.copyPut ck q op l = ((copyStores l).foldl (fun u w => u.writeMasked w.2.2.1 w.2.2.2) s).setHead ck q op)

/-- Claim.CopyEngineRuns and Claim.CopyBlockMoves hold. -/
def Obligations.CopiesMoveBytes : Prop := Claim.CopyEngineRuns ∧ Claim.CopyBlockMoves


/-- R295, R296: a thread that may take an interrupt goes to the handler of its oldest one with the PC and identifier saved; UIRET within a
handler returns to the saved PC. -/
def Sys2Proof.Claim.UserInterruptsComplete : Prop :=
  ∀ (s : State) (hpc : Word32) (xid : BitVec 16) (r : List (Word32 × BitVec 16)),
    ((s.thr s.subj).uiPend = (hpc, xid) :: r → uintReady (s.thr s.subj) = true → exec .userInterruptTake s =
      .next ((s.updThr s.subj fun h => { h with uipc := (s.thr s.subj).pc, uixid := xid, uiIn := true, uiHpc := hpc, uiPend := r }).goTo
        s.subj (hpc.setWidth 64))) ∧
    (Ready s .uiret → s.me.uiIn = true → ∃ t : State, exec .uiret s = .next t ∧ (t.thr s.cur).uiIn = false ∧
      (t.thr s.cur).npc = (s.thr s.cur).uipc.setWidth 64 ∧ (∀ k, k ≠ s.cur → t.thr k = s.thr k))

/-- Claim.CopiesComplete and Claim.UserInterruptsComplete hold. -/
def Obligations.CopyInstructionsComplete : Prop := Claim.CopiesComplete ∧ Claim.UserInterruptsComplete


/-! ## Grids and collectives -/

/-- R273 to R280: GDECL of a well-formed descriptor registers and publishes the grid; GLD of current cells reads them; GST stores interior
cells; GSTEP publishes the next step; GSTAT returns LAST and the least tag; GFREE withdraws the grid. -/
def Sys2Proof.Claim.GridsComplete : Prop :=
  ∀ (s : State) (f : GFmt) (a b d : GReg) (v : VOp),
    (∀ g, Ready s (.gdecl a) → State.descCheck (s.rdG a) = none → s.gridsAhead = false → s.waits (!s.buffersClear) = false →
      (s.ulmBlock (s.rdG a).toNat 128).2 = none → parseGrid (s.ulmBlock (s.rdG a).toNat 128).1 = some g →
      (∀ h ∈ (s.core s.ck).grid.regs, h.addr ≠ (s.rdG a).toNat ∧ (h.tenant = s.myTenant → h.desc.gid ≠ g.gid)) →
      (s.dieGrids (s.ck / 512)).length < 64 →
      ((s.dieGrids (s.ck / 512)).map fun h => frameBytes h.desc).foldl (· + ·) (frameBytes g) ≤ 0x400000 →
      let r : GridReg := { addr := (s.rdG a).toNat, desc := g, tenant := s.myTenant, last := g.last0, tags := [], staged := [] }
      exec (.gdecl a) s = .next ((s.updCore s.ck fun c => { c with grid := { c.grid with regs := c.grid.regs ++ [r] } }).publish s.ck r g.last0)) ∧
    (∀ r g, State.descCheck (s.rdG r) = none → s.gridsAhead = false → s.gridAt s.ck (s.rdG r).toNat = some g →
      (Ready s (.gld f v r b d) → State.runCheck g (s.rdG r) f (s.rdG b) = none →
        let x := State.coords (s.rdG b)
        let tau := g.desc.depth * ((s.rdG d).toNat % 2 ^ 32 / g.desc.depth)
        (∀ i ∈ intRange x.1 x.2.2.2, State.cellState g (s.rdG r) tau i x.2.1 x.2.2.1 = .ok true) →
        s.waits (!s.portClear s.ck .ab s.issuePlace) = false →
        s.rd.ab.badIn (g.desc.addr x.1 x.2.1 x.2.2.1) (g.desc.e * x.2.2.2) = none →
        exec (.gld f v r b d) s = .next (Consumed (.gld f v r b d) (s.wrV v (BitVec.ofNat 4096
          (s.rd.ab.nat (g.desc.addr x.1 x.2.1 x.2.2.1) (g.desc.e * x.2.2.2))) 0))) ∧
      (Ready s (.gst f r b v) → State.runCheck g (s.rdG r) f (s.rdG b) = none →
        let x := State.coords (s.rdG b)
        (∀ i ∈ intRange x.1 x.2.2.2, g.desc.isGhost i x.2.1 x.2.2.1 = false) →
        exec (.gst f r b v) s = .next (Consumed (.gst f r b v) ((s.launch .store Mode.plain
          [{ va := BitVec.ofNat 64 (g.desc.addr x.1 x.2.1 x.2.2.1), place := .buf s.ck .ab (g.desc.addr x.1 x.2.1 x.2.2.1)
             kind := .store (slice (leBytes 512 (s.rdV v).toNat) 0 (g.desc.e * x.2.2.2)) }]).hold s.cur (.accept s.nextId)))) ∧
      (Ready s (.gstep r b) → (s.rdG b).toNat % 2 ^ 32 = g.last + g.desc.depth → s.waits (!s.acceptedClear) = false →
        exec (.gstep r b) s = .next (s.publish s.ck g (g.last + g.desc.depth))) ∧
      (Ready s (.gstat a r) → exec (.gstat a r) s = .next (s.wrG a (gstatWord g))) ∧
      (Ready s (.gfree r) → (∀ n, n < 64 → ∀ w ∈ (s.thr (s.ck * 64 + n)).wait, ∀ c, w ≠ .grid g.addr c) → exec (.gfree r) s =
        .next (s.updCore s.ck fun c => { c with grid := { c.grid with regs := c.grid.regs.filter fun h => h.addr != g.addr } })))

/-- R270, R272: a strip that arrives for a registered grid of its tenant and identifier, of its format and size and no older than the grid's
first step, with none before it, is installed where its step is published, and staged where it is not and no other is; a load that has
waited HALOTO cycles faults with STALEHALO. -/
def Sys2Proof.Claim.StripsArrive : Prop :=
  ∀ (s : State) (i : NetItem) (p : Strip) (g : GridReg),
    (s.net.find? (fun j => j.id == s.subj) = some i → (∀ j ∈ s.net, j.id = s.subj → j = i) → i.msg = .strip p → p.dst.pkg = s.pkg →
      (∀ j ∈ s.net.takeWhile (fun j => j.id != s.subj), ∀ q, j.msg = .strip q → q.src ≠ p.src) →
      (∀ q ∈ s.heldStrips, q.src ≠ p.src) → s.stripGrid p = some g → g.desc.exchanged p.dir = true →
      p.cells.length = (g.desc.region p.dir).length → p.fmt = g.desc.fmt → g.desc.last0 ≤ p.tag → FMap.get none g.staged p.dir = none →
      let rest : State := { s with net := s.net.filter fun j => j.id != s.subj }
      exec .stripArrival s = .next ((if p.tag ≤ g.last then rest.installStrip (locCore p.dst) g p
        else rest.setGrid (locCore p.dst) { g with staged := FMap.set g.staged p.dir (some p) }).heal i.pkt)) ∧
    (∀ d c, (s.thr s.subj).wait = [.grid d c] → (s.core (s.subj / 64)).grid.haloto ≠ 0 →
      c + (s.core (s.subj / 64)).grid.haloto ≤ s.cycOf (s.subj / 64) →
      exec .haloTimeout s = .next (s.takeFault s.subj (staleHaloF (BitVec.ofNat 64 d))))

/-- Claim.GridsComplete and Claim.StripsArrive hold. -/
def Obligations.GridsAndStripsComplete : Prop := Claim.GridsComplete ∧ Claim.StripsArrive


/-- R320, R325 to R332: in thread 63, MOV n0 appends a word, MOV from n1 takes one; CBEGIN opens the next instance; CPEER names a rank;
CSEND hands a send to the engine; CRECV stores a message that has arrived; CCOPY copies; CWAIT and CEND go on when the sends that they
name are delivered, and CEND closes the instance. -/
def Sys2Proof.Claim.CollectivesComplete : Prop :=
  ∀ (s : State) (a b c : GReg) (off : Off16),
    (Ready s (.movToN0 b) → (rawOpen (s.core s.ck).comm.out 0 ≠ 0 ∨ ((s.rdG b).toNat / 64 % 2 ^ 38 = 0 ∧ (s.rdG b).toNat % 64 ≠ 0)) →
      (s.core s.ck).comm.out.length < 64 → exec (.movToN0 b) s =
        .next (s.updComm s.ck fun u => { u with out := u.out ++ [s.rdG b] })) ∧
    (∀ w r, Ready s (.movFromN1 a) → (s.core s.ck).comm.inb = (w, none) :: r → exec (.movFromN1 a) s =
      .next ((s.updComm s.ck fun u => { u with inb := r }).wrG a w)) ∧
    (∀ r, Ready s (.cbegin a) → (s.core s.ck).comm.current = none → s.waits (!s.portClear s.ck .ulm s.issuePlace) = false →
      s.commAt s.ck ((s.rdG a).toNat % 2 ^ 18) = some r → exec (.cbegin a) s =
        .next (((s.writeMem (.buf s.ck .ulm ((s.rdG a).toNat % 2 ^ 18 + 16)) (leBytes 4 ((r.inst + 1) % 2 ^ 20))).setComm s.ck
          { r with inst := (r.inst + 1) % 2 ^ 20 }).updComm s.ck fun u => { u with current := some ((s.rdG a).toNat % 2 ^ 18) })) ∧
    (∀ r, Ready s (.cbegin a) → (s.core s.ck).comm.current = none → s.waits (!s.portClear s.ck .ulm s.issuePlace) = false →
      s.commAt s.ck ((s.rdG a).toNat % 2 ^ 18) = none → (s.rdG a).toNat % 64 = 0 → (s.rdG a).toNat % 2 ^ 18 ≤ 0x27F80 →
      (s.core s.ck).ulm.badIn ((s.rdG a).toNat % 2 ^ 18) 128 = none →
      parseComm ((s.rdG a).toNat % 2 ^ 18) ((s.core s.ck).ulm.read ((s.rdG a).toNat % 2 ^ 18) 128) = some r →
      (s.core s.ck).comm.regs.length < 8 → (∀ x ∈ (s.core s.ck).comm.regs, x.comm ≠ r.comm) →
      let r := { r with id := s.nextId }
      exec (.cbegin a) s =
        .next ((((({ s with nextId := s.nextId + 1 } : State).updComm s.ck fun u => { u with regs := u.regs ++ [r] }).writeMem (.buf s.ck .ulm ((s.rdG a).toNat % 2 ^ 18 + 16))
          (leBytes 4 ((r.inst + 1) % 2 ^ 20))).setComm s.ck { r with inst := (r.inst + 1) % 2 ^ 20 }).updComm s.ck fun u =>
          { u with current := some ((s.rdG a).toNat % 2 ^ 18) })) ∧
    (∀ r, Ready s (.cpeer a b c) → s.commAt s.ck ((s.rdG b).toNat % 2 ^ 18) = some r → exec (.cpeer a b c) s =
      .next (s.wrG a (BitVec.ofNat 64 (((r.rank : Int) + sx (s.rdG c).toNat 64) % r.size).toNat))) ∧
    (∀ r, Ready s (.cend a) → s.commAt s.ck ((s.rdG a).toNat % 2 ^ 18) = some r → (s.rdG a).toNat < 2 ^ 63 →
      (s.core s.ck).comm.current = some ((s.rdG a).toNat % 2 ^ 18) → (∀ o ∈ r.outstanding, o.inst ≠ r.inst) → exec (.cend a) s =
        .next ((s.freeSlots s.ck r fun x => x.inst == r.inst).updComm s.ck fun u => { u with current := none })) ∧
    (∀ r, s.openComm s.ck = some r →
      (∀ l dst, Ready s (.csend a b c) → r.dst.contains ((s.rdG a).toNat % 2 ^ 16) = true →
        s.extent r.space (s.rdG b) r.msz false = .ok l → s.waits (!s.portClear s.ck .ulm s.issuePlace) = false →
        (s.core s.ck).ulm.badIn (r.table + 4 * ((s.rdG a).toNat % 2 ^ 16)) 4 = none → s.rankLoc r ((s.rdG a).toNat % 2 ^ 16) = some dst →
        s.waits (!s.maySend s.cur s.issuePlace r ((s.rdG a).toNat % 2 ^ 16)) = false →
        ∃ t : State, exec (.csend a b c) s = .next t ∧ (t.core s.ck).comm.sends = (s.core s.ck).comm.sends ++ [
          { addr := r.addr, tenant := s.myTenant, payload := s.rdG b, dst := dst, rank := (s.rdG a).toNat % 2 ^ 16, inst := r.inst, step := (s.rdG c).toNat % 2 ^ 16
            reads := none }]) ∧
      (Ready s (.cwait a) → (∀ o ∈ r.outstanding, o.inst = r.inst → (s.rdG a).toNat % 2 ^ 16 < o.step) → exec (.cwait a) s = .next s) ∧
      (∀ l x, r.src.contains ((s.rdG b).toNat % 2 ^ 16) = true → s.extent r.space (s.rdG a + off.signExtend 64) r.msz true = .ok l →
        State.match' r ((s.rdG b).toNat % 2 ^ 16) ((s.rdG c).toNat % 2 ^ 16) = some x →
        (s.core s.ck).ulm.badIn (State.slotOff r x) r.msz = none →
        (Ready s (.crecv a off b c) → exec (.crecv a off b c) s =
          .next (s.receiveExtent r x l ((s.core s.ck).ulm.read (State.slotOff r x) r.msz) none none)) ∧
        (Ready s (.crecvSig a off b c) → (s.rdG c).toNat / 2 ^ 16 % 2 ^ 16 = 0 → exec (.crecvSig a off b c) s =
          .next (s.receiveExtent r x l ((s.core s.ck).ulm.read (State.slotOff r x) r.msz) (some ((s.rdG c).toNat / 2 ^ 32)) none))) ∧
      (∀ rd l d, Ready s (.ccopy a b c) → (s.rdG c).toNat % 64 = 0 → 0 < (s.rdG c).toNat → (s.rdG c).toNat ≤ 2 ^ 20 →
        s.extent r.space (s.rdG b) (s.rdG c).toNat false = .ok rd → s.extent r.space (s.rdG a) (s.rdG c).toNat true = .ok l →
        s.waits (!s.engineMayRead) = false → (∀ x ∈ rd, x.2.isRemote = false) →
        s.extentBytes (State.blockSize (s.rdG c).toNat rd) rd [] = (d, none) →
        exec (.ccopy a b c) s = .next (s.storeExtent (s.rdG c).toNat l d none [])))

/-- R329 to R331: CRRS whose source's message of the step before has arrived stores the combination of the local bytes and the message.
Once those bytes are acknowledged its slot is freed and the credit returned; then, as soon as it has a credit of its own and its stores are
acknowledged, the combined bytes go to the engine as a send to its peer. -/
def Sys2Proof.Claim.ReduceSendCompletes : Prop :=
  ∀ (s : State) (o : CrrsOp) (a b c : GReg) (off : Off16) (r : CommReg) (rd l : List (Word × Place)) (dst : Loc) (x : CSlot)
    (mine d : List Byte),
    let i := Instr.crrs o a off b c
    let ad := s.rdG a + off.signExtend 64
    let t : Nat := (s.rdG b).toNat % 2 ^ 16
    let u : Nat := ((2 * (r.rank : Int) - t) % r.size).toNat
    let step := (s.rdG c).toNat % 2 ^ 16
    (Ready s i → s.openComm s.ck = some r → (s.core s.ck).comm.receive = none → r.dst.contains t = true → r.src.contains u = true →
      s.extent r.space ad r.msz false = .ok rd → s.extent r.space ad r.msz true = .ok l →
      s.waits (!s.portClear s.ck .ulm s.issuePlace) = false → (s.core s.ck).ulm.badIn (r.table + 4 * t) 4 = none → s.rankLoc r t = some dst →
      (o = .qm → ad.toNat % 512 = 0 ∧ r.msz % 1536 = 0 ∧ s.shape.isSome = true) →
      State.match' r u ((step + 2 ^ 16 - 1) % 2 ^ 16) = some x →
      s.waits (!s.engineMayRead) = false → (s.core s.ck).ulm.badIn (State.slotOff r x) r.msz = none →
      (∀ y ∈ rd, y.2.isRemote = false) → s.extentBytes (State.blockSize r.msz rd) rd [] = (mine, none) →
      crCombine o s.shape s.rd mine ((s.core s.ck).ulm.read (State.slotOff r x) r.msz) = .ok d →
      exec i s = .next (s.receiveExtent r x l d none (some (dst, t, step, ad)))) ∧
    (∀ v k, (s.core (k / 64)).comm.receive = some v → s.commAt (k / 64) v.addr = some r →
      (v.slot = some x → s.receiveWork k = some ((s.freeSlots (k / 64) r fun y => y == x).updComm (k / 64) fun u =>
        { u with receive := some { v with slot := none } })) ∧
      (∀ rank step p, v.slot = none → v.send = some (dst, rank, step, p) → s.storesAcked k s.nextId .sys = true →
        FMap.get 0 r.credits rank ≠ 0 → ∃ t' : State, s.receiveWork k = some t' ∧ (t'.core (k / 64)).comm.receive = none ∧
          (t'.core (k / 64)).comm.sends = (s.core (k / 64)).comm.sends ++ [{ addr := r.addr, tenant := s.tenantOf k, payload := p, dst := dst, rank := rank, inst := r.inst, step := step, reads := none }]))

/-- Claim.CollectivesComplete and Claim.ReduceSendCompletes hold. -/
def Obligations.CollectiveInstructionsComplete : Prop := Claim.CollectivesComplete ∧ Claim.ReduceSendCompletes


/-- R320, R323, R329: the oldest send in hand leaves as a message; a message for a registered communicator with a free slot, from a named
source and of no earlier instance, takes the slot and is acknowledged; an acknowledgement takes its send off the list; a credit adds one,
up to 8 (that they carry the number of the sender's registration is DEDUCED, log entry 50); and a raw message is queued whole behind a
header. -/
def Sys2Proof.Claim.MessagesArrive : Prop :=
  ∀ (s : State),
    (∀ o r g, (s.core s.subj).comm.sends = o :: r → (s.core s.subj).comm.regs.find? (fun x => x.addr == o.addr) = some g → o.dst.pkg = s.pkg →
      o.reads = none → (∀ x ∈ s.payloadWords s.subj o g, x.2.isRemote = false) →
      ∃ (t : State) (m : CMsg), exec .messageSend s = .next t ∧ (t.core s.subj).comm.sends = r ∧ t.net = s.net ++ [{ id := s.nextId, msg := .cmsg m, ingress := none }] ∧
        m.dst = o.dst ∧ m.toRank = o.rank ∧ m.inst = o.inst ∧ m.step = o.step ∧ m.capt = (s.core s.subj).capt ∧
        m.reg = g.id ∧ m.data = (s.payloadWords s.subj o g).flatMap fun x => slice (s.readMem x.2 8) 0 8) ∧
    (∀ i, s.netHere s.subj = some i →
      (∀ m, i.msg = .cmsg m → ∀ t, (s.netDrop i.id).arriveMsg m = some t → exec .messageArrival s = .next (t.heal i.pkt)) ∧
      (∀ l reg peer inst step r, i.msg = .delivered l reg peer inst step → s.savedReg (locCore l) reg = false →
        (s.core (locCore l)).comm.regs.find? (fun r => r.id == reg) = some r → exec .deliveryAcknowledgement s =
          .next ((s.netDrop i.id).setComm (locCore l) { r with outstanding := r.outstanding.erase { dst := peer, inst := inst, step := step } })) ∧
      (∀ l reg peer r, i.msg = .credit l reg peer → s.savedReg (locCore l) reg = false → (s.core (locCore l)).comm.regs.find? (fun r => r.id == reg) = some r →
        r.dst.contains peer = true → exec .creditReturn s = .next ((s.netDrop i.id).setComm (locCore l)
          { r with credits := FMap.set r.credits peer (min 8 (FMap.get 0 r.credits peer + 1)) })) ∧
      (∀ m, i.msg = .raw m → (∀ j ∈ s.net.takeWhile (fun j => j.id != i.id), ∀ n, j.msg = .raw n → n.src ≠ m.src) →
        (s.core (locCore m.dst)).assigned = true → (s.core (locCore m.dst)).capt = m.capt →
        s.tenantAway (locCore m.dst) m.capt = false → (s.core (locCore m.dst)).comm.inb.length + m.words.length + 1 ≤ 128 →
        ∃ w, exec .rawMessageArrival s = .next ((s.netDrop i.id).updComm (locCore m.dst) fun u =>
            { u with inb := u.inb ++ (w :: m.words).map fun x => (x, none) }) ∧
          w.toNat % 64 = m.words.length % 64 ∧ w.toNat / 2 ^ 56 = m.src.pkg % 256))

/-- R323: a message whose token is that of its target's core, for a communicator registered there that names its source, of the instance that
is open or of a later one, is written into a free slot of its source, of several the lowest (DESIGN CHOICE, log entry 134), and acknowledged. -/
def Sys2Proof.Claim.MessageTakesSlot : Prop :=
  ∀ (s : State) (m : CMsg) (r : CommReg) (j : Nat), (s.core (locCore m.dst)).assigned = true → (s.core (locCore m.dst)).capt = m.capt →
    s.tenantAway (locCore m.dst) m.capt = false →
    (s.core (locCore m.dst)).comm.regs.find? (fun r => r.comm == m.comm) = some r → r.src.contains m.rank = true →
    0 ≤ sx (m.inst + 2 ^ 20 - r.inst) 20 → (sx (m.inst + 2 ^ 20 - r.inst) 20 = 0 → (s.core (locCore m.dst)).comm.current = some r.addr) →
    j < 8 → (∀ x ∈ r.slots, ¬(x.src = m.rank ∧ x.slot = j)) → (∀ k, k < j → ∃ x ∈ r.slots, x.src = m.rank ∧ x.slot = k) →
    let x : CSlot := { src := m.rank, slot := j, inst := m.inst, step := m.step, sender := m.src, reg := m.reg }
    ∃ t : State, s.arriveMsg m = some (t.post m.src.pkg (.delivered m.src m.reg m.toRank m.inst m.step)) ∧
      (s.memOk → m.bad = [] → (t.core (locCore m.dst)).ulm.read (State.slotOff r x) m.data.length = m.data) ∧
      (∃ r' ∈ (t.core (locCore m.dst)).comm.regs, r' = { r with slots := r.slots ++ [x] })

/-- Claim.MessagesArrive and Claim.MessageTakesSlot hold. -/
def Obligations.MessagesDelivered : Prop := Claim.MessagesArrive ∧ Claim.MessageTakesSlot
/-! ## Traps, system registers and supervisor forms -/

namespace Sys2Proof.Claim

/-- Selector sel, without SKIP and with SPACE and INDEX only where `item` allows them, names thread t of a core of the executing
supervisor's tenant: no guest slot, not away and, where `other` says so, not the executing thread itself (R343, R344). -/
def Selects (s : State) (sel : Word) (item other : Bool) (t : Nat) : Prop :=
  s.rd.sv = true ∧ sel.toNat < 2 ^ 36 ∧ (item = true ∨ sel.toNat < 2 ^ 18) ∧ t = sel.toNat % 2 ^ 18 ∧
  (s.core (t / 64)).assigned = true ∧ (s.core (t / 64)).tenant = s.myTenant ∧ (t % 64 < 56 ∨ t % 64 = 63) ∧ (other = true → t ≠ s.cur) ∧
  (s.thr t).st ≠ .away ∧ (s.thr t).wanted ≠ some s.cur

end Sys2Proof.Claim

/-- R335, R336, R338: a fault on a thread at home and in no gang, with no result still to come but from what its bundle has at the matrix
unit, halts it: STATE HALTED, FCAUSE, FADDR, FPC
and FPROG as the fault has them, nothing more awaited; and a message with the same goes to the tenant's supervisor. No other thread,
no register file and no byte of memory changes. While a result is still to come, the fault only waits for it. -/
def Sys2Proof.Claim.FaultEntry : Prop :=
  ∀ (s : State) (t : Nat) (f : FaultRec), (s.thr t).home = none → f.kill = false →
    (((s.dropMatrix t).thr t).openMarks = false → (s.thr t).grole = 0 →
      let s' := s.takeFault t f
      (s'.thr t).st = .halted ∧ (s'.thr t).fcause = BitVec.ofNat 8 f.cause ∧ (s'.thr t).fsub = BitVec.ofNat 8 f.sub ∧
      (s'.thr t).faddr = f.faddr ∧ (s'.thr t).fpc = (s.thr t).pc ∧ (s'.thr t).fprog = BitVec.ofNat 64 f.fprog ∧ (s'.thr t).wait = [] ∧
      (s'.thr t).killed = false ∧ (∀ u, u ≠ t → s'.thr u = s.thr u) ∧ (∀ k, (s'.core k).gfile = (s.core k).gfile ∧
        (s'.core k).vfile = (s.core k).vfile) ∧ (∀ p n, s'.readMem p n = s.readMem p n) ∧
      s'.net = s.net ++ [{ id := s.nextId, msg := .faultMsg s.pkg { cause := BitVec.ofNat 8 f.cause, sub := BitVec.ofNat 8 f.sub, tenant := (s.core (t / 64)).tenant, killed := false, notice := false, thread := BitVec.ofNat 8 (t % 64), src := s.loc t, faddr := f.faddr, fpc := (s.thr t).pc, fprog := BitVec.ofNat 64 f.fprog }, ingress := none }]) ∧
    (((s.dropMatrix t).thr t).openMarks = true → (∀ u, u ≠ t → (s.takeFault t f).thr u = s.thr u) ∧ ((s.takeFault t f).thr t).halting = some f ∧
      ((s.takeFault t f).thr t).st = (s.thr t).st ∧ (s.takeFault t f).net = s.net)

/-- R338, R339: a fault message that its ring can take is written into the next entry of the ring of its tenant's supervisor, WR goes up by
one modulo 128, and the doorbell holds WR and is full unless a thread that waits on it takes it at once; a message for a tenant that is not active goes
nowhere (DEDUCED, log entry 61). -/
def Obligations.FaultMessagesDelivered : Prop :=
  ∀ (s : State) (i : NetItem) (d k : Nat) (m : FaultMsg), s.netHere s.subj = some i → i.msg = .faultMsg d m →
    s.faultFor i = some k → s.faultDeliverable i = true →
    let c := s.core k
    ((s.tenant m.tenant).active = false → exec .faultMessageDelivery s = .next (s.netDrop i.id)) ∧
    ((s.tenant m.tenant).active = true → s.memOk = true → ∃ t : State, exec .faultMessageDelivery s = .next t ∧
      (t.core k).fringWr = (c.fringWr + 1) % 128 ∧ (t.core k).ulm.read (c.fringBase + 32 * (c.fringWr % 64)) 32 = faultBytes m ∧
      ((∀ w ∈ c.feWait, w.off ≠ c.fringBase + 2048) → t.net = s.net.filter (fun x => x.id != i.id) ∧
        (t.core k).ulm.read (c.fringBase + 2048) 8 = leBytes 8 ((c.fringWr + 1) % 128) ∧
        FMap.get false (t.core k).full ((c.fringBase + 2048) / 8) = true ∧
        ∀ a, (a < c.fringBase + 32 * (c.fringWr % 64) ∨ c.fringBase + 32 * (c.fringWr % 64) + 32 ≤ a) →
          (a < c.fringBase + 2048 ∨ c.fringBase + 2056 ≤ a) → (t.core k).ulm.byte a = c.ulm.byte a))

/-- R8, R335: an operation whose checks fail takes the fault that they name and has no other effect (an unassigned opcode faults as such, R60). -/
def Sys2Proof.Claim.FailedChecksOnlyFault : Prop :=
  ∀ (s : State) (i : Instr) (f : FaultRec), isOperation i = true → s.guard i = some f → (∀ o u, i ≠ .unassignedOpcode o u) →
    exec i s = .next (s.fault f)

/-- Claim.FaultEntry and Claim.FailedChecksOnlyFault hold. -/
def Obligations.FaultsEnter : Prop := Claim.FaultEntry ∧ Claim.FailedChecksOnlyFault


/-- R60, R84, R86, R337, R346 to R349: TRAP and a head with an unassigned opcode halt their thread; CSRR and CSRW read and write the registers
of the executing thread, and in the supervisor core those of the core and die; FRING and FRRD take values that the rule allows; a read
of VLOGS takes the oldest entry; a write to TSTATE clears GANGDIS where bit 23 is 0. -/
def Obligations.SystemRegistersComplete : Prop :=
  ∀ (s : State) (imm : BitVec 16) (a : GReg) (num : Word32) (opc : BitVec 9) (sub : BitVec 4),
    (Ready s (.trap imm) → exec (.trap imm) s = .next (s.fault (.of 0x11 (imm.toNat % 256) (imm.setWidth 64)))) ∧
    (exec (.unassignedOpcode opc sub) s = .next (s.fault (.of 0x01 (if opcAssigned opc.toNat then 0x05 else 0x04) 0))) ∧
    (Ready s (.csrr a num) → isThreadCsr num.toNat = true →
      exec (.csrr a num) s = .next (s.wrG a (threadCsr s.me (s.cur % 64) num.toNat))) ∧
    (Ready s (.csrr a num) → isThreadCsr num.toNat = false → num.toNat ≠ 0x040 → (supReads num.toNat = true → s.rd.sv = true) →
      exec (.csrr a num) s = .next (s.wrG a (s.coreCsr s.ck num.toNat))) ∧
    (Ready s (.csrr a num) → num.toNat = 0x040 → exec (.csrr a num) s = .next (s.fault (priv 0x0A 0x040))) ∧
    (∀ h, Ready s (.csrw num a) → isThreadCsr num.toNat = true → setThreadCsr s.my num.toNat (s.rdG a) false = some h →
      exec (.csrw num a) s = .next (s.setThr s.cur h)) ∧
    (∀ t, Ready s (.csrw num a) → isThreadCsr num.toNat = false → s.rd.sv = true → s.writeCoreCsr s.ck num.toNat (s.rdG a) = some t →
      exec (.csrw num a) s = .next t) ∧
    (Ready s (.csrw num a) → isThreadCsr num.toNat = false → s.rd.sv = false →
      exec (.csrw num a) s = .next (s.fault (priv 0x0A (BitVec.ofNat 64 num.toNat)))) ∧
    (Ready s (.csrwFring a) → s.rd.sv = true → (s.core s.ck).fringEn = false → (s.rdG a).toNat < 2 ^ 63 → (s.rdG a).toNat % 2 ^ 18 % 2048 = 0 →
      (s.rdG a).toNat / 2 ^ 25 % 2 ^ 38 = 0 → (s.rdG a).toNat % 2 ^ 18 + 2056 ≤ 0x28000 →
      exec (.csrwFring a) s = .next (s.updCore s.ck fun c => { c with fringBase := (s.rdG a).toNat % 2 ^ 18 })) ∧
    (Ready s (.csrwFring a) → s.rd.sv = true → (s.core s.ck).fringEn = false → 2 ^ 63 ≤ (s.rdG a).toNat → (s.rdG a).toNat % 2 ^ 18 % 2048 = 0 →
      (s.rdG a).toNat / 2 ^ 25 % 2 ^ 38 = 0 → (s.rdG a).toNat % 2 ^ 18 + 2056 ≤ 0x28000 → ∃ t : State, exec (.csrwFring a) s = .next t ∧
        (t.core s.ck).fringEn = true ∧ (t.core s.ck).fringBase = (s.rdG a).toNat % 2 ^ 18 ∧ (t.core s.ck).fringWr = 0 ∧ (t.core s.ck).frrd = 0) ∧
    (Ready s (.csrwFrrd a) → s.rd.sv = true → (s.rdG a).toNat < 128 → ((s.core s.ck).fringWr + 128 - (s.rdG a).toNat) % 128 ≤ 64 →
      exec (.csrwFrrd a) s = .next (s.updCore s.ck fun c => { c with frrd := (s.rdG a).toNat })) ∧
    (Ready s (.csrwTstate a) → exec (.csrwTstate a) s =
      .next (s.updThr s.cur fun h => { h with gangDis := h.gangDis && (s.rdG a).getLsbD 23 })) ∧
    (∀ e r, Ready s (.vlogsRead a) → s.rd.sv = true → (s.core s.ck).vlog = e :: r → exec (.vlogsRead a) s =
      .next ((s.wrG a (BitVec.ofNat 64 e.status)).updCore s.ck fun c => { c with vlog := c.vlog.drop 1 }))

/-- R343, R344, R350 to R355: RDWIN and WRWIN reach an item of a halted or suspended thread; SUSP and KILL of a thread at a bundle boundary
suspend it and end its task; RESUME of a halted or suspended thread that was not killed lets it go on, with SKIP at the bundle after
the faulting one; CFGT sets the windows of a thread that waits for work, where they meet those of no other thread, a guest slot having always 16 registers; SAVEC stores the record of a stopped thread, and LOADC loads one. -/
def Sys2Proof.Claim.SupervisorFormsComplete : Prop :=
  ∀ (s : State) (a b : GReg) (off : Off16) (t : Nat),
    (∀ s' w, Ready s (.rdwin a b) → Selects s (s.rdG b) true false t → s.isHeld t = true →
      s.readItem t ((s.rdG b).toNat / 2 ^ 18 % 4) ((s.rdG b).toNat / 2 ^ 20 % 2 ^ 16) = some (s', w) →
      exec (.rdwin a b) s = .next (s'.wrG a w)) ∧
    (∀ s', Ready s (.wrwin a b) → Selects s (s.rdG a) true false t → s.isHeld t = true →
      s.writeItem t ((s.rdG a).toNat / 2 ^ 18 % 4) ((s.rdG a).toNat / 2 ^ 20 % 2 ^ 16) (s.rdG b) (s.rdG a) = .ok s' →
      exec (.wrwin a b) s = .next s') ∧
    (Ready s (.susp a) → Selects s (s.rdG a) false true t →
      (((s.thr t).st = .run ∨ (s.thr t).st = .parked) → s.atBoundary t = true → (s.thr t).stopAsk ≠ some true →
        exec (.susp a) s = .next (s.suspend t)) ∧
      ((s.thr t).st ≠ .run → (s.thr t).st ≠ .parked → exec (.susp a) s = .next (s.updThr t fun h => { h with stopAsk := none }))) ∧
    (Ready s (.kill a) → Selects s (s.rdG a) false true t → (s.thr t).st ≠ .off → (s.thr t).st ≠ .empty →
      (((s.thr t).st = .run ∨ (s.thr t).st = .parked) → s.atBoundary t = true) → exec (.kill a) s = .next (s.endTask t)) ∧
    (Ready s (.resume a) → Selects s (s.rdG a) false false t → (s.thr t).killed = false → s.storesAcked s.cur s.issuePlace .pkg = true →
      (s.thr t).st = .suspended ∨ ((s.thr t).st = .halted ∧ (s.thr t).dispatch = false) →
      exec (.resume a) s = .next (s.resumeAt t ((s.thr t).pc.setWidth 64))) ∧
    (∀ x, Ready s (.resume a) → s.rdG a = x + BitVec.ofNat 64 (2 ^ 63) → Selects s x false false t → (s.thr t).killed = false →
      s.storesAcked s.cur s.issuePlace .pkg = true → (s.thr t).st = .halted → (s.thr t).noBundle = false →
      exec (.resume a) s = .next ((s.updThr t fun h => { h with fprog := 0 }).resumeAt t (s.skipPc t))) ∧
    (∀ gb wl vb vl, Ready s (.cfgt a b) → Selects s (s.rdG a) false false t → t % 64 < 56 → ((s.thr t).st = .off ∨ (s.thr t).st = .wfw) →
      (s.rdG b).toNat = gb + 2 ^ 8 * wl + 2 ^ 16 * vb + 2 ^ 22 * vl → gb < 256 → wl ≤ 16 → gb + wl ≤ 256 → vb < 64 → vl ≤ 16 → vb + vl ≤ 64 →
      (∀ n, n < 64 → n ≠ t % 64 → rangesMeet gb wl ((s.core (t / 64)).thread n).gbase (if 56 ≤ n ∧ n ≤ 62 then 2 else ((s.core (t / 64)).thread n).wl) = false ∧
        rangesMeet vb vl ((s.core (t / 64)).thread n).vbase ((s.core (t / 64)).thread n).vl = false) →
      exec (.cfgt a b) s = .next (s.updThr t fun h =>
        { h with gbase := gb, wl := wl, vbase := vb, vl := vl, st := if wl = 0 then .off else .wfw })) ∧
    (let ad := s.rdG a + off.signExtend 64
     Selects s (s.rdG b) false true t → ad.toNat % 512 = 0 →
      (Ready s (.savec a off b) → s.isHeld t = true → (s.thr t).grole = 0 → (∀ e ∈ (s.core (t / 64)).q, e.2.thread ≠ t % 64) →
        (∀ x ∈ s.recordBlocks ad (3 + (s.thr t).vl * 4) true, ∃ p g, x.2.2 = .ok p g) →
        exec (.savec a off b) s = .next ((({ s with freeCount := s.freeCount + 1 } : State).launch .store Mode.plain
          (blockPieces (s.recordBlocks ad (3 + (s.thr t).vl * 4) true) fun i va p => cutStore va p (slice (s.threadRecord t) (512 * i) 512))).hold
          s.cur (.accept s.nextId))) ∧
      (Ready s (.loadc a off b) → (s.thr t).st = .wfw → (∀ x ∈ s.recordBlocks ad (3 + (s.thr t).vl * 4) false, ∃ p g, x.2.2 = .ok p g) →
        exec (.loadc a off b) s = .next ((s.launch (.loadc t) Mode.plain
          (blockPieces (s.recordBlocks ad (3 + (s.thr t).vl * 4) false) fun _ va p => cutLoad va p 512)).park s.cur (.reply s.nextId))))

/-- What operation i does with a selector that R343 and R344 refuse: PRIV with NOTSUP, SELECTOR, TENANT, STATE (a guest slot) or SELF, in this
order (log entry 55), a violation of TENANT being logged on the target core. SKIP is for RESUME alone, SPACE and INDEX for RDWIN and
WRWIN alone; notSelf: the forms that may not name the issuing thread. -/
def Sys2Proof.Claim.SelectorFaults (s : State) (i : Instr) (sel : Word) (skip item notSelf : Bool) : Prop :=
  let t := sel.toNat % 2 ^ 18
  let clean := sel.toNat % 2 ^ 63 < 2 ^ 36 ∧ (skip = true ∨ sel.toNat < 2 ^ 63) ∧ (item = true ∨ sel.toNat / 2 ^ 18 % 2 ^ 18 = 0)
  (s.rd.sv = false → exec i s = .next (s.fault (priv 0x01 sel))) ∧
  (s.rd.sv = true → ¬clean → exec i s = .next (s.fault (priv 0x06 sel))) ∧
  (s.rd.sv = true → clean → ((s.core (t / 64)).assigned = false ∨ (s.core (t / 64)).tenant ≠ s.myTenant) →
    exec i s = .next ((s.vlogAt (t / 64) sel 0x0B s.myTenant (locWord (s.loc s.cur))).fault (priv 0x02 sel))) ∧
  (s.rd.sv = true → clean → (s.core (t / 64)).assigned = true → (s.core (t / 64)).tenant = s.myTenant →
    (56 ≤ t % 64 → t % 64 ≤ 62 → exec i s = .next (s.fault (priv 0x03 sel))) ∧
    ((t % 64 < 56 ∨ t % 64 = 63) → notSelf = true → t = s.cur → exec i s = .next (s.fault (priv 0x05 sel))))

/-- R343, R344, R350 to R355: every supervisor form refuses a selector as Claim.SelectorFaults says (log entry 55). A target that is not in a
state that the form accepts halts the issuing thread with STATE: for RDWIN and WRWIN one neither HALTED nor SUSPENDED, for KILL one OFF
or EMPTY, for LOADC one not WFW, for SAVEC one not held; a killed target halts RESUME with KILLED; CFGT of thread 63, or of a thread that
is neither OFF nor WFW, halts with WINDOW. -/
def Sys2Proof.Claim.SelectorViolations : Prop :=
  ∀ (s : State) (a b : GReg) (off : Off16) (t : Nat),
    (Ready s (.rdwin a b) → SelectorFaults s (.rdwin a b) (s.rdG b) false true false ∧
      (Selects s (s.rdG b) true false t → s.isHeld t = false → exec (.rdwin a b) s = .next (s.fault (priv 0x03 (s.rdG b))))) ∧
    (Ready s (.wrwin a b) → SelectorFaults s (.wrwin a b) (s.rdG a) false true false ∧
      (Selects s (s.rdG a) true false t → s.isHeld t = false → exec (.wrwin a b) s = .next (s.fault (priv 0x03 (s.rdG a))))) ∧
    (Ready s (.susp a) → SelectorFaults s (.susp a) (s.rdG a) false false true) ∧
    (Ready s (.kill a) → SelectorFaults s (.kill a) (s.rdG a) false false true ∧
      (Selects s (s.rdG a) false true t → ((s.thr t).st = .off ∨ (s.thr t).st = .empty) →
        exec (.kill a) s = .next (s.fault (priv 0x03 (s.rdG a))))) ∧
    (Ready s (.resume a) → SelectorFaults s (.resume a) (s.rdG a) true false false ∧
      (Selects s (s.rdG a) false false t → (s.thr t).killed = true → exec (.resume a) s = .next (s.fault (priv 0x04 (s.rdG a))))) ∧
    (Ready s (.cfgt a b) → SelectorFaults s (.cfgt a b) (s.rdG a) false false false ∧
      (Selects s (s.rdG a) false false t → (t % 64 = 63 ∨ ((s.thr t).st ≠ .off ∧ (s.thr t).st ≠ .wfw)) →
        exec (.cfgt a b) s = .next (s.fault (priv 0x07 (s.rdG a))))) ∧
    (Ready s (.savec a off b) → SelectorFaults s (.savec a off b) (s.rdG b) false false true ∧
      (Selects s (s.rdG b) false true t → s.isHeld t = false → exec (.savec a off b) s = .next (s.fault (priv 0x03 (s.rdG b))))) ∧
    (Ready s (.loadc a off b) → SelectorFaults s (.loadc a off b) (s.rdG b) false false true ∧
      (Selects s (s.rdG b) false true t → (s.thr t).st ≠ .wfw → exec (.loadc a off b) s = .next (s.fault (priv 0x03 (s.rdG b)))))

/-- Claim.SupervisorFormsComplete and Claim.SelectorViolations hold. -/
def Obligations.SupervisorForms : Prop := Claim.SupervisorFormsComplete ∧ Claim.SelectorViolations
/-! ## Events of the memory system, of threads and of tasks -/

/-- R147, R149, R317: an issued access that may leave leaves its core: to its bank in this package, or as a packet over the port that its
route names. A store at a bank whose turn has come is written and acknowledged, one repeated after a failed segment giving its words
fresh check bits; one to a system register writes the register. An
acknowledgement that arrives reaches the access it is for. -/
def Sys2Proof.Claim.StoresReachTheirBanks : Prop :=
  ∀ (s : State) (a : Access),
    (s.issued.find? (fun b => b.id == s.subj) = some a → s.acceptable a = true →
      (a.place.isRemote = false → exec .portAcceptance s =
        .next (({ s with issued := s.issued.filter (fun b => b.id != a.id), flight := s.flight ++ [a] } : State).accepted a)) ∧
      (∀ g n, a.place = .remote g → s.isPresent (State.pkgOf g) = true → s.route a g = some n →
        let t := ({ s with issued := s.issued.filter fun b => b.id != a.id } : State).enqueue n (State.pkgOf g) a.ord (accessMsg (s.srcOf a) a g)
        exec .portAcceptance s = .next (({ t with flight := t.flight ++ [{ a with via := some n }] } : State).accepted a))) ∧
    (s.flight.find? (fun b => b.id == s.subj) = some a → s.bankReady a = true →
      (∀ d, a.ans = none → a.kind = .store d → a.place.isRemote = false → (∀ c o, a.place ≠ .csr c o) →
        exec .bankAcknowledgement s = .next (((s.writeMem a.place d).heal a.pkt).storeDone a)) ∧
      (∀ d, a.ans = none → a.kind = .masked d → a.place.isRemote = false →
        exec .bankAcknowledgement s = .next (((s.writeMasked a.place d).heal a.pkt).storeDone a)) ∧
      (∀ d c o, a.ans = none → a.kind = .store d → a.place = .csr c o →
        exec .windowRegisterWrite s = .next ((s.windowCsr a c o (BitVec.ofNat 64 (leNat d))).storeDone a))) ∧
    (∀ i, s.netHere s.subj = some i →
      (∀ l id, i.msg = .routeAck l id → exec .routeAcknowledgement s =
        .next { s.netDrop i.id with flight := s.flight.map fun b => if b.id = id then { b with routeAck := true } else b }) ∧
      (∀ l id, i.msg = .bankAck l id → s.flight.find? (fun b => b.id == s.subj) = none → s.net.find? (fun j => j.id == s.subj) = some i →
        s.flight.find? (fun b => b.id == id) = some a → exec .bankAcknowledgement s = .next ((s.netDrop i.id).acked a)))

/-- R124, R340: a load at a bank whose turn has come is read there: its data goes to its operation, whose thread gets it with the last
piece, or back to the package that asked. -/
def Sys2Proof.Claim.LoadsReply : Prop :=
  ∀ (s : State) (a : Access) (n : Nat), s.flight.find? (fun b => b.id == s.subj) = some a → a.kind = .load n → a.place.isRemote = false →
    s.bankReady a = true →
    (∀ t, a.back = none → a.thr = some t → exec .loadReply s =
      .next ((s.readEffect a.place).loadPiece a (s.readPlace a.place n) (s.badAt a.va a.place n))) ∧
    (∀ l id, a.back = some (l, id) → s.badMem a.place n = none → exec .loadReply s =
      .next (({ s.readEffect a.place with flight := (s.readEffect a.place).flight.filter fun b => b.id != a.id } : State).post l.pkg
        (.copyData l id ((s.readPlace a.place n).take n) none))) ∧
    (∀ o t ty x, a.back = none → a.thr = some t → a.place.isRemote = false → (∀ c p, a.place ≠ .csr c p ∧ a.place ≠ .acc c p) →
      s.badMem a.place n = none → s.ops.find? (fun o => o.id == a.op) = some o → o.what = .ld ty x → o.left = 1 → o.badWord = none → o.acqSys = false →
      o.thr = t → o.got = [] → (s.thr t).withheld = none → (s.thr t).holding = none → (s.thr t).halting = none → ∃ t' : State, exec .loadReply s = .next t' ∧
        FMap.get 0 (t'.core (t / 64)).gfile ((s.thr t).gbase * 8 + x) = ext (leNat (s.readMem a.place n)) ty)

/-- Claim.StoresReachTheirBanks and Claim.LoadsReply hold. -/
def Obligations.AccessesReachTheirBanks : Prop := Claim.StoresReachTheirBanks ∧ Claim.LoadsReply


/-- R141 to R145, R107: an engine that has taken none in this cycle takes the operation whose turn it is and performs it; a wait that is held is presented again after 64
cycles; an operation on ULM is performed by its port; an answer reaches the thread that waits for it. -/
def Sys2Proof.Claim.AtomicsArePerformed : Prop :=
  ∀ (s : State) (a : Access) (op : AtomicOp),
    (∀ n, FMap.find? (s.die (s.subj / 32)).lastTake (s.subj % 32) ≠ some s.now → s.engineNext s.subj = some (n, a) → a.kind = .atomic op → exec .atomicEngineTake s =
      .next ((s.updDie (s.subj / 32) fun x => { x with lastQueue := FMap.set x.lastQueue (s.subj % 32) n, lastTake := FMap.set x.lastTake (s.subj % 32) s.now }).performAtomic a op
        (s.die (s.subj / 32)).cyc)) ∧
    (s.flight.find? (fun b => b.id == s.subj) = some a →
      (∀ c t, a.held = some c → a.kind = .atomic (.waitgen t) → c ≤ (s.die a.place.die).cyc → exec .waitgenRepresent s =
        .next (s.performAtomic a (.waitgen t) (s.die a.place.die).cyc)) ∧
      (∀ ans t, a.ans = some ans → a.thr = some t → exec .atomicResponse s = .next (s.respond a t ans)) ∧
      (∀ c sp o, a.ans = none → a.thr = none → a.held = none → a.place = .buf c sp o → a.kind = .atomic op → s.bankReady a = true →
        exec .atomicResponse s = .next (s.performAtomic a op (s.cycOf c))) ∧
      (∀ c sp o t b ans, a.ans = none → a.thr = some t → a.held = none → a.place = .buf c sp o → a.kind = .atomic op →
        s.bankReady a = true → (s.performAtomic a op (s.cycOf c)).flight.find? (fun x => x.id == a.id) = some b → b.ans = some ans →
        b.thr = some t → exec .atomicResponse s = .next ((s.performAtomic a op (s.cycOf c)).respond b t ans)))

/-- R143 to R145: an AMO at its bank, of a word that is good, writes the new word, and nothing else of memory, and answers with the old one. -/
def Sys2Proof.Claim.AmoAtItsBank : Prop :=
  ∀ (s : State) (a : Access) (op : AOp) (w64 : Bool) (b : Word) (now : Nat), a.back = none → a.thr ≠ none →
    let n := if w64 then 8 else 4
    s.badMem (a.place.plus 0) n = none →
    let r := amoValue op w64 (leNat (s.readMem (a.place.plus 0) n)) b.toNat
    s.performAtomic a (.amo op w64 b) now = { s.writeMem a.place (leBytes n r.1) with flight := (s.writeMem a.place (leBytes n r.1)).flight.map fun x => if x.id = a.id then { x with ans := some (.value r.2), held := none, horizon := none } else x }

/-- Claim.AtomicsArePerformed and Claim.AmoAtItsBank hold. -/
def Obligations.AtomicsReachTheirBanks : Prop := Claim.AtomicsArePerformed ∧ Claim.AmoAtItsBank


/-- R36, R37, R62, R64, R96, R100, R119: a line that has been read and is good is held and its first bundle may issue; results that are
readable lose their marks; a walk that is one of the die's 32 and ends lets its bundle be issued again; a task starts with its argument words in g0 to g7; a
forwarded bundle that has arrived is executed by its follower, as the one bundle that its core issues in the cycle (R61). -/
def Obligations.ThreadEventsComplete : Prop :=
  ∀ (s : State),
    let t := s.subj
    let h := s.thr t
    (∀ d, s.lineReady t = true → s.lineData t = some (d, none) → exec .lineFetchComplete s =
      .next ((({ s with replies := match h.fetch with | some id => FMap.erase s.replies id | none => s.replies } : State).updThr t fun h =>
        { h with fetch := none, line := some { base := h.pc.toNat / 64 * 64, bytes := BitVec.ofNat 512 (leNat d) } }).goTo t (h.pc.setWidth 64))) ∧
    (∀ m c, m ∈ h.pend → m.ready = some c → c ≤ s.cycOf (t / 64) → exec .resultReady s = .next (s.updThr t fun h =>
      { h with pend := h.pend.filter fun m => match m.ready with | some n => decide (s.cycOf (t / 64) < n) | none => true })) ∧
    (∀ n va k, h.wait = [.walk n va k] → s.walksBefore (t / 64 / 512) k < 32 → exec .pageWalkComplete s = .next ((match s.walk n (va.toNat % 2 ^ 57) with
      | some e => s.tlbInsert (t / 64) e
      | none => s).updThr t fun h => { h with wait := [.again] })) ∧
    (∀ i a f, s.startOf t = some i → s.dispatchReads i = .ok (a, f) → ∃ t' : State, exec .taskStart s = .next t' ∧
      (t'.thr t).node = BitVec.ofNat 32 i.index ∧
      (∀ g, g < 8 → FMap.get 0 (t'.core (t / 64)).gfile (h.gbase * 8 + g) = BitVec.ofNat 64 (field a (8 * g) 8))) ∧
    (∀ c l r, h.forwarded = (c, l) :: r → h.grole = 2 → h.st = .run → h.wait = [] → h.due = [] → c ≤ s.cycOf (t / 64) →
      (∀ n, h.lastIssue = some n → n + 8 ≤ s.cycOf (t / 64)) → refreshHolds (s.cycOf (t / 64)) l = false → exec .followerBundle s =
      .next ((s.updThr t fun h => { h with forwarded := r, due := l, lastIssue := some (s.cycOf (t / 64)) }).updCore (t / 64) fun k =>
        { k with issuedAt := some (s.cycOf (t / 64)) }))

/-- R91 to R95, R111, R112, R298, R374: the graph walker takes the oldest ready node that may be launched and handles it by its type, the launch
going into the event trace where there is one (R385); the
dispenser makes every placement it can; a stage of a pipeline is offered; a COPY node is launched on the engine of its core or refused;
and the occupancy is measured every 4,096 cycles. -/
def Sys2Proof.Claim.TasksAreDispatched : Prop :=
  ∀ (s : State),
    (∀ n, (s.die s.subj).walker.find? s.mayLaunch = some n →
      let w := s.updDie s.subj fun e => { e with walker := e.walker.erase n }
      let r := s.nodeRec n.tenant n.index
      exec .graphWalkerReceive s = .next (w.walkNode s.subj n) ∧
      (nodeType r = 2 → nodeSuccs r ≤ 8 → nodeTenant r = n.tenant → s.badMem (s.nodePlace n.tenant n.index) 64 = none →
        exec .graphWalkerReceive s = .next ((w.trace (.launch n.tenant n.index)).signalNode s.subj n.tenant n.index)) ∧
      (nodeType r = 0 → nodeSuccs r ≤ 8 → nodeTenant r = n.tenant → s.badMem (s.nodePlace n.tenant n.index) 64 = none →
        nodeAny r = false → s.clusterOf n.tenant s.subj (nodeCluster r) = true →
        exec .graphWalkerReceive s =
          .next ((w.trace (.launch n.tenant n.index)).dispense s.subj (nodeCluster r) (State.nodeItem n.tenant n.index r)))) ∧
    (∀ x, s.nextPlacement (s.subj / 32) (s.subj % 32) = some x → exec .dispenserPlacement s =
      .next (s.placeAll (s.subj / 32) (s.subj % 32) (FMap.get [] (s.die (s.subj / 32)).disp (s.subj % 32)).length)) ∧
    (∀ p, (s.die s.subj).pipes.find? (State.mayRelease s.subj) = some p → exec .pipeStageRelease s = .next (s.releaseStage s.subj p)) ∧
    (∀ n, (s.die s.subj).copyNodes.find? (s.copyNodeReady s.subj) = some n →
      let t := s.updDie s.subj fun e => { e with copyNodes := e.copyNodes.erase n }
      (∀ ck sh, copyNodeBlock s s.subj n = .ok (ck, sh) → exec .copyNodeLaunch s = .next (t.launchCopy ck none n.tenant sh (some n.index)).2) ∧
      (∀ sub, copyNodeBlock s s.subj n = .error (sub, none) → exec .copyNodeLaunch s =
        .next (t.notice n.tenant 0x14 sub (s.dieLoc s.subj) (nodePtr (s.nodeRec n.tenant n.index)) 0))) ∧
    ((s.die s.subj).occAt ≤ (s.die s.subj).cyc → ∃ t : State, exec .collectiveOccupancyUpdate s = .next t ∧
      (t.die s.subj).occAt = (s.die s.subj).occAt + 4096 ∧ (t.die s.subj).slot0 = 0 ∧
      (s.die s.subj).slot0 * 256 / 262144 ≤ (t.die s.subj).occ)

/-- R94: the thread that a dispenser chooses satisfies the item, and no satisfying thread of the cluster has smaller windows. -/
def Sys2Proof.Claim.DispenserChoice : Prop :=
  ∀ (s : State) (d cl : Nat) (i : DispItem) (t : Nat), s.chooseThread d cl i = some t →
    s.satisfies i t = true ∧ t ∈ State.clusterThreads d cl ∧
    ∀ u ∈ State.clusterThreads d cl, s.satisfies i u = true →
      (s.thr t).wl < (s.thr u).wl ∨ ((s.thr t).wl = (s.thr u).wl ∧ (s.thr t).vl ≤ (s.thr u).vl)

/-- Claim.TasksAreDispatched and Claim.DispenserChoice hold. -/
def Obligations.DispensersDispatch : Prop := Claim.TasksAreDispatched ∧ Claim.DispenserChoice


/-! ## The link and migration -/

/-- R147, R301 to R303, R314 to R318: a segment whose tag checks, with none before it missing, is released to the ingress and confirmed, one
whose tag fails is asked for again and nothing of it goes on; a cut-through port passes its stores for this package on with the tag still to
check, and writes the payload of a collective message into the free slot that the message will take; what it would forward to another
package waits for the tag (log entry 45); a segment asked for again is sent, unchanged, under the next counter value and nonce, and keeps its
place among the unconfirmed ones; a sender starts an exchange at its point and stops when no counter value is left; a new key brings a
port UP with its counter at 0; a spare takes over the entry of a DOWN port. A packet for this package is accepted in order, its room
given back to the sender, and, its tag checked, acknowledged; one for another is passed on, on its way, where there is room. -/
def Obligations.LinkEventsComplete : Prop :=
  ∀ (s : State) (n ctr spare : Nat) (seg : Segment),
    ((s.port n).st = .up → (s.port n).checking = [] → (s.port n).order = [] → seg.confirm = [] → seg.credit = [] → seg.part = none →
      ((s.port n).cut = false → seg.tagOk = true → ∃ t : State, exec (.segmentArrival n seg) s = .next t ∧
        t.ingress.map (fun i => (i.port, i.pkt, i.unchecked)) =
          s.ingress.map (fun i => (i.port, i.pkt, i.unchecked)) ++ seg.packets.map (fun k => (n, k, none)) ∧
        (t.port n).failures = 0 ∧ (t.port n).order = [] ∧ t.out = s.out ++ [.confirmed n seg.ctr]) ∧
      ((s.port n).cut = false → seg.tagOk = false → (s.port n).failures < 2 → ∃ t : State, exec (.segmentArrival n seg) s = .next t ∧
        t.ingress = s.ingress ∧ (t.port n).failures = (s.port n).failures + 1 ∧ (t.port n).order.map (·.1) = [seg.ctr] ∧
        t.out = s.out ++ [.retransmit n seg.ctr]) ∧
      ((s.port n).cut = true → ∃ t : State, exec (.segmentArrival n seg) s = .next t ∧ (t.port n).checking = [seg] ∧
        t.ingress.map (fun i => (i.port, i.pkt, i.unchecked)) = s.ingress.map (fun i => (i.port, i.pkt, i.unchecked)) ++
          (seg.packets.filter s.passedOn).map (fun k => (n, k, some seg.ctr)) ∧
        ∀ k m r j, seg.packets = [k] → k.dst = s.pkg → k.msg = .cmsg m → s.commFor m = some r →
          (State.freeSlotsOf r m.rank)[s.msgsAhead m []]? = some j →
          (t.core (locCore m.dst)).ulm = (s.core (locCore m.dst)).ulm.write (State.slotAt r m.rank j) (slice m.data 0 (2 ^ 20)))) ∧
    (∀ u, (s.port n).unconfirmed.find? (fun u => u.ctr == ctr) = some u → (s.port n).resends < 2 → (s.port n).st = .up →
      (s.port n).segctr < 2 ^ 48 - 1 → ∃ t : State,
      exec (.retransmitRequest n ctr) s = .next t ∧ (t.port n).segctr = (s.port n).segctr + 1 ∧ ∃ w, (t.port n).wire = (s.port n).wire ++ [w] ∧
        w.packets = u.packets ∧ w.part = u.part ∧ w.again = some ctr ∧ w.ctr = (s.port n).segctr ∧
        w.nonce = BitVec.ofNat 96 (s.pkg * 2 ^ 88 + n % 32 * 2 ^ 83 + (s.port n).segctr) ∧ w.key = (s.port n).key ∧ w.tagOk = true ∧
        (t.port n).unconfirmed = (s.port n).unconfirmed.flatMap fun v => if v.ctr = ctr then [w] else [v]) ∧
    ((s.port s.subj).st = .up → (s.port s.subj).rekey = false → 2 ^ 48 - 2 ^ 40 ≤ (s.port s.subj).segctr →
      exec .rekeyStart s = .next (s.updPort s.subj fun p => { p with rekey := true })) ∧
    ((s.port s.subj).st = .up → 2 ^ 48 - 1 ≤ (s.port s.subj).segctr → exec .portStop s =
      .next (((s.updPort s.subj fun p => { p with st := .stopped }).tracePorts s).reroute s.subj)) ∧
    ((s.port s.subj).st ≠ .spare → s.subj < 32 → exec .keyExchangeComplete s = .next ((s.updPort s.subj fun p =>
      { p with st := .up, segctr := 0, key := p.key + 1, rekey := false, first := true, resends := 0 }).tracePorts s)) ∧
    ((s.port n).st = .down → (s.port spare).st = .spare → ∃ t : State, exec (.portSpareReplacement n spare) s = .next t ∧
      (t.port n).st = .spare ∧ (t.port spare).st = .up ∧ (t.port spare).prow = (s.port n).prow ∧ (t.port spare).pcol = (s.port n).pcol ∧
      (t.port spare).segctr = 0) ∧
    (∀ i, s.ingress.find? (fun i => i.id == s.subj) = some i → s.ingressReady i = true →
      let taken := ({ s with ingress := s.ingress.filter fun j => j.id != i.id } : State).returnCredit i
      let here : State := { taken with ingressSeq := s.ingressSeq + 1 }
      (i.pkt.dst = s.pkg → (∀ src id g d o, i.pkt.msg ≠ .store src id g d o) → (∀ src id g d, i.pkt.msg ≠ .masked src id g d) →
        (∀ src id g o q p, i.pkt.msg ≠ .atomic src id g o q p) → (∀ src id g m, i.pkt.msg ≠ .copyRead src id g m) → exec .stewynIngressAccept s =
        .next { here with nextId := s.nextId + 1, net := s.net ++ [{ id := s.nextId, msg := i.pkt.msg, ingress := some (i.port / 4, s.ingressSeq + 1), pkt := some (i.pkt.src, i.pkt.seq) }] }) ∧
      (∀ src id g d o, i.pkt.dst = s.pkg → i.pkt.msg = .store src id g d o →
        let t := here.ingressAccess i (s.ingressSeq + 1) src id g (.store d) o false
        exec .stewynIngressAccept s = .next (if i.unchecked.isSome then t else t.post src.pkg (.routeAck src id))) ∧
      (∀ p way, i.pkt.dst ≠ s.pkg → s.isPresent i.pkt.dst = true → s.nextHop i.pkt = some (p, way) → s.hasRoom p i.pkt.msg = true →
        exec .stewynIngressAccept s = .next (taken.updPort p fun q =>
          { q with queue := q.queue ++ [{ i.pkt with hops := i.pkt.hops + 1, route := way }] })))

/-- The guest of a packet comes to memory of this package: tenant n takes guests for it, its tree gives entry e, the address lies at g, and the
checks of the core of slot k, or, with none EMPTY, of the cluster's first core, pass (R307, R308). -/
def Sys2Proof.Claim.GuestComesTo (s : State) (p : MigPacket) (g : Nat) (slot : Option Nat) : Prop :=
  ∃ n e pl g', s.guestTenant p.home p.tenant = some n ∧ s.sendsGuests n = false ∧ canonical p.va = true ∧
    s.walk n (p.va.toNat % 2 ^ 57) = some e ∧ g = e.phys + (p.va.toNat % 2 ^ 57 - e.base) ∧ State.pkgOf g = s.pkg ∧
    slot = s.emptySlot (homeCluster g).1 (homeCluster g).2 ∧
    s.checkEntry ((slot.map (· / 64)).getD ((homeCluster g).1 * 512 + (homeCluster g).2 * 16)) n p.va (State.packetUse p) e = .ok pl g' ∧
    pl.isRemote = false

/-- R306 to R313: a migrating thread that arrives for an accepted tenant, at memory of this package, takes the lowest EMPTY guest slot of
its home cluster, or waits in the die's queue, behind those that wait for that cluster (log entry 40), until one is EMPTY; one of no accepted
tenant is sent home refused; a refused one is back in its home slot and faults with MIGRATE; a thread that comes home goes on at the next
bundle, after the acquire of its return; a recall sends a guest home at its bundle boundary. -/
def Sys2Proof.Claim.MigrationCompletes : Prop :=
  ∀ (s : State) (i : NetItem) (p : MigPacket), s.netHere s.subj = some i → s.net.find? (fun j => j.id == s.subj) = some i →
    (∀ d, i.msg = .mig d p →
      let t : State := { s.netDrop i.id with guests := { s.guests with moved := s.guests.moved.filter fun e => e.1 != p.home } }
      (∀ g k, GuestComesTo t p g (some k) → t.queuedFor p = false → exec .migArrival s = .next (t.placeGuest k p)) ∧
      (∀ g slot, GuestComesTo t p g slot → (slot = none ∨ t.queuedFor p = true) → exec .migArrival s =
        .next (t.updDie (homeCluster g).1 fun e => { e with mig := e.mig ++ [p] })) ∧
      (t.guestTenant p.home p.tenant = none → exec .migArrival s = .next (t.goHome p .refused))) ∧
    (i.msg = .goHome p .refused → p.home.pkg = s.pkg → (s.thr (locKey p.home)).st = .away → exec .migReturn s =
      .next (((s.netDrop i.id).homeSlot (locKey p.home) p).takeFault (locKey p.home) { migrateF p.va with fprog := p.prog })) ∧
    (i.msg = .goHome p .home → (s.thr (locKey p.home)).st = .away → exec .guestReturnHome s =
      .next (((s.netDrop i.id).homeSlot (locKey p.home) p).goAfterHorizon (locKey p.home) (p.npc.setWidth 64))) ∧
    (i.msg = .goHome p .recall → (s.thr (locKey p.home)).st = .away → exec .guestReturnHome s =
      .next (((s.netDrop i.id).homeSlot (locKey p.home) p).goAfterHorizon (locKey p.home) (p.pc.setWidth 64))) ∧
    (∀ g home v t, i.msg = .recall g home v → s.guestOf home = some t → s.guestMayGo t = true →
      exec .recall s = .next ((s.netDrop i.id).expel t))

/-- R308, R311: a waiting guest takes a slot that has become EMPTY; HOME sends a guest home from its slot, which becomes EMPTY, and is a NOP
in a thread that is no guest. -/
def Sys2Proof.Claim.GuestsComeAndGo : Prop :=
  ∀ (s : State),
    (∀ p r g k, (s.die s.subj).mig = p :: r →
      let s' := s.updDie s.subj fun e => { e with mig := e.mig.erase p }
      GuestComesTo s' p g (some k) → (homeCluster g).1 = s.subj → exec .migQueuePlacement s = .next (s'.placeGuest k p)) ∧
    (Ready s .home → (s.thr s.cur).home = none → exec .home s = .next s) ∧
    (∀ h, Ready s .home → (s.thr s.cur).home = some h → s.mayDepart = true → exec .home s =
      .next ((s.setThr s.cur (Thread.reset (s.cur % 64))).goHome (s.migPacket 0 false 0 0 .plain false 0 0) .home))

/-- Claim.MigrationCompletes and Claim.GuestsComeAndGo hold. -/
def Obligations.ThreadsMigrate : Prop := Claim.MigrationCompletes ∧ Claim.GuestsComeAndGo
/-! ## The host link and scale-out -/

/-- R358, R360 to R365, R377: what the host's writes and reads do as they arrive while the package is powered. An aperture access of
at most 4 GiB of offsets, 512 bytes written or 4,096 read, whose parts all pass goes to the Meridian part by part; a write part that fails
sets XLAT (log entry 77), a read with one that fails takes its place as an aborted one; a write that runs out of the aperture changes nothing,
and a longer one is recorded as malformed (log entry 73); with 768 reads outstanding no more are taken; APBASE is written at once; every other
write to a register or entry of BAR0, a kick, a QCMD and a TLBINV join the function's order. -/
def Sys2Proof.Claim.HostAccessesComplete : Prop :=
  ∀ (s : State) (fn off n : Nat) (data : List Byte) (relaxed : Bool) (tail : Word32) (w : Word), s.powered = true →
    let a := s.apertureBase fn off
    let part := fun (o : Nat) (u : Use) => s.apertureAddr fn ((a + o) % 2 ^ 64) u
    let takes := fun (f : Nat) (op : HostOp) => ({ s with host := s.host ++ [{ fn := f, op := op }] } : State)
    (∀ g : Nat → Nat, off + data.length ≤ 2 ^ 32 → data.length ≤ 512 →
      (∀ p ∈ State.parts a data.length, part p.1 .engineWr = .ok (g p.1)) →
      exec (.apertureWrite fn off data relaxed) s = .next { s with host := s.host ++ (State.parts a data.length).map fun p =>
        { fn := fn, op := .write (g p.1) (slice data p.1 p.2) relaxed } }) ∧
    (∀ e, off + data.length ≤ 2 ^ 32 → data.length ≤ 512 → a % 0x10000 + data.length ≤ 0x10000 → data ≠ [] → part 0 .engineWr = .error e → exec (.apertureWrite fn off data relaxed) s =
      .next ((s.setMberr fn mbXLAT).logAperture fn (a % 2 ^ 64))) ∧
    (2 ^ 32 < off + data.length → exec (.apertureWrite fn off data relaxed) s = .next s) ∧
    (off + data.length ≤ 2 ^ 32 → 512 < data.length → exec (.apertureWrite fn off data relaxed) s =
      .next (s.recordError fn State.aerMalformed 0)) ∧
    (∀ g : Nat → Nat, off + n ≤ 2 ^ 32 → n ≤ 4096 → s.readsOut < 768 → (∀ p ∈ State.parts a n, part p.1 .engine = .ok (g p.1)) →
      exec (.apertureRead fn off n) s = .next (takes fn (.read off ((State.parts a n).map fun p => (g p.1, p.2))))) ∧
    (∀ p ∈ State.parts a n, ∀ e, off + n ≤ 2 ^ 32 → n ≤ 4096 → s.readsOut < 768 → part p.1 .engine = .error e →
      exec (.apertureRead fn off n) s = .next (takes fn .abort)) ∧
    (768 ≤ s.readsOut → exec (.apertureRead fn off n) s = .next s) ∧
    (n < 4096 → exec (.queueKick fn n tail) s = .next (takes fn (.kick n tail))) ∧
    (n < 1024 → exec (.scaleoutDoorbell fn n) s = .next (takes fn (.reg (0x9000 + 8 * n) (leBytes 8 0)))) ∧
    (exec (.mberrClear fn w) s = .next (takes fn (.reg 0x8008 (leBytes 8 w.toNat)))) ∧
    (fn ≠ 0 → exec (.tlbinvWrite fn) s = .next (takes fn .tlbinv)) ∧
    (n < 4 → off + data.length ≤ 32 → off < 32 →
      exec (.ethernetPortConfigWrite n off data) s = .next (takes 0 (.reg (0x41100 + 32 * n + off) data))) ∧
    (n < 4096 → off + data.length ≤ 32 → off < 32 →
      exec (.regionTableWrite n off data) s = .next (takes 0 (.reg (0x60000 + 32 * n + off) data))) ∧
    (data.length = 8 → exec (.bar0RegisterWrite fn 0x8000 data) s =
      .next (s.updFn fn fun f => { f with apbase := BitVec.ofNat 32 (leNat data / 2 ^ 32) })) ∧
    (off % 8 + data.length ≤ 8 → data ≠ [] → off < 0x1000 →
      exec (.bar0RegisterWrite 0 (0x40000 + off) data) s = .next (takes 0 (.reg (0x40000 + off) data))) ∧
    (data.length = 8 → exec (.bar0RegisterWrite 0 0x41000 data) s = .next (takes 0 (.reg 0x41000 data))) ∧
    (data.length = 8 → exec (.bar0RegisterWrite 0 0x41010 data) s = .next (takes 0 (.qcmd (BitVec.ofNat 64 (leNat data)))))

namespace Sys2Proof.Claim

/-- The bytes that an access stores. -/
def storedBytes (a : Access) : List Byte := match a.kind with | .store d => d | _ => []

end Sys2Proof.Claim

/-- R360 to R362, R367, R369, R371, R376, R381: the Meridian applies a write of function s.subj to a register or entry of BAR0, which takes its
place among the function's writes (R364): MBERR bits written 1 clear; a doorbell of a READY queue pair makes its tail be read at once, and any
other sets KICK; the bytes of the tenant descriptors, the region table and the configuration of an Ethernet port that no enabled queue pair uses
hold what is written; TCMD starts a command while none runs. -/
def Sys2Proof.Claim.RegistersApplied : Prop :=
  ∀ (s : State) (i : HostItem) (off o n : Nat) (d : List Byte), s.meridianReady s.subj = true → s.hostHead s.subj = some i → i.op = .reg off d →
    let s' : State := { s with host := s.host.erase i }
    let applied := fun (t : State) => exec .meridianSend s = .next (t.hostApplied s.subj i.op)
    (off = 0x8008 → d.length = 8 →
      applied (s'.updFn s.subj fun f => { f with mberr := f.mberr &&& ~~~((BitVec.ofNat 64 (leNat d)).setWidth 4) })) ∧
    (n < 1024 → off = 0x9000 + 8 * n → d.length = 8 →
      ((s.subj = 0 ∨ (s.qp n).tenant = s.subj - 1) → (s.qp n).st = .ready → applied (s'.updQp n fun q => { q with pollAt := s.now })) ∧
      (((s.subj ≠ 0 ∧ (s.qp n).tenant ≠ s.subj - 1) ∨ (s.qp n).st ≠ .ready) → applied (s'.setMberr s.subj mbKICK))) ∧
    (s.subj = 0 →
      (o < 0x1000 → off = 0x40000 + o → applied { s' with tdesc := s.tdesc.write o d }) ∧
      (off = 0x41000 → d.length = 8 →
        (s.fw.tcmdBusy = none → leNat d / 16 % 16 < 5 → applied { s' with fw := { s.fw with tcmdBusy := some (BitVec.ofNat 64 (leNat d)) } }) ∧
        (s.fw.tcmdBusy ≠ none → applied s')) ∧
      (n < 4 → o < 32 → off = 0x41100 + 32 * n + o → o + d.length ≤ 32 → s.portBusy n = false →
        applied { s' with ethBytes := s.ethBytes.write (32 * n + o) d }) ∧
      (n < 4 → o < 32 → off = 0x41100 + 32 * n + o → s.portBusy n = true → applied s') ∧
      (n < 4096 → o < 32 → off = 0x60000 + 32 * n + o → o + d.length ≤ 32 → applied { s' with regions := s.regions.write (32 * n + o) d }))

/-- R358, R361, R362, R364, R376, R377, R396: the oldest operation of a function that the Meridian may send: a write goes to the memory system
with all its bytes, in order, of this package or of another; a read is completed with the bytes that stand in memory, those of other packages
asked for first, or in the registers of BAR0, split at 64-byte boundaries; one that has failed is aborted with READ and recorded as an error
(log entries 73, 77); a kick of an IDLE queue within its ring makes it PENDING, sets its tenant's pending bit and wakes the manager, one of an
unconfigured or another tenant's queue only sets KICK; TLBINV and QCMD start. A vector that is signalled sends the message of its table entry,
or, masked, is pending (log entry 73). A translation invalidation, while the firmware complex runs, leaves no entry of the tenant in any
TLB. -/
def Sys2Proof.Claim.MeridianCompletes : Prop :=
  ∀ (s : State) (i : HostItem), 
    (s.meridianReady s.subj = true → s.hostHead s.subj = some i →
      let s' : State := { s with host := s.host.erase i }
      let aborted := fun (t : State) => ((t.setMberr s.subj mbREAD).recordError s.subj State.aerAbort State.aerAdvisory).addOut (.completion s.subj none)
      (∀ g d rlx far, i.op = .write g d rlx → (∀ b ∈ State.blocks64 g d.length, (s.resolve b.1).isRemote = far) →
        ∃ (t : State) (l : List Access), exec .meridianSend s = .next t ∧ t.host = s.host.erase i ∧
        (if far then t.issued = s.issued ++ l ∧ t.flight = s.flight else t.flight = s.flight ++ l ∧ t.issued = s.issued) ∧
        l.flatMap storedBytes = d ∧ (∀ x ∈ l, x.part = s.subj + 1 ∧ x.held = none ∧ x.relaxed = false) ∧ t.cores = s.cores ∧ t.dm = s.dm) ∧
      (∀ off ps, i.op = .read off ps → i.reads = none → (∀ p ∈ ps, (s.resolve p.1).isRemote = false) → exec .meridianSend s =
        .next (s'.complete s.subj off (ps.flatMap fun p => s.readAny (s.resolve p.1) p.2))) ∧
      (∀ off ps ids, i.op = .read off ps → i.reads = some ids →
        (∀ d, s.hostRead ids ps = some d → exec .meridianSend s = .next ((s'.dropReplies ids).complete s.subj off d)) ∧
        (s.hostRead ids ps = none → exec .meridianSend s = .next (aborted (s'.dropReplies ids)))) ∧
      (i.op = .abort → exec .meridianSend s = .next (aborted s')) ∧
      (∀ off n, i.op = .regs off n → exec .meridianSend s =
        .next (s'.complete s.subj off ((List.range n).map fun k => s'.bar0Byte s.subj (off + k)))) ∧
      (∀ q tail, i.op = .kick q tail → s.fw.fatal = false → (s.subj = 0 ∨ (s.queue q).tenant = s.subj - 1) →
        ((s.queue q).st = .disabled → exec .meridianSend s = .next ((s'.setMberr s.subj mbKICK).hostApplied s.subj i.op)) ∧
        ((s.queue q).st = .broken → exec .meridianSend s = .next ((s'.setMberr s.subj mbRING).hostApplied s.subj i.op)) ∧
        ((s.queue q).st = .idle → (tail.toNat + 2 ^ 32 - (s.queue q).head) % 2 ^ 32 ≤ 2 ^ (s.queue q).log2n → ∃ t : State,
          exec .meridianSend s = .next t ∧ (t.queue q).st = .pending ∧ (t.queue q).tail = tail.toNat ∧ (t.queue q).since = s.now ∧
          (t.tenant (s.queue q).tenant).pending = true ∧
          t.fw.wakeManager = true ∧ (∀ p, p ≠ q → t.queue p = s.queue p) ∧ t.cores = s.cores) ∧
        ((s.queue q).st ≠ .disabled → (s.queue q).st ≠ .broken → 2 ^ (s.queue q).log2n < (tail.toNat + 2 ^ 32 - (s.queue q).head) % 2 ^ 32 →
          ∃ t : State, exec .meridianSend s = .next t ∧ (t.queue q).st = .broken ∧ (t.fn s.subj).mberr.getLsbD 3 = true)) ∧
      (i.op = .tlbinv → exec .meridianSend s = .next ((s'.updFn s.subj fun f => { f with inval := f.inval + 1 }).hostApplied s.subj i.op)) ∧
      (∀ v, i.op = .qcmd v → s.fw.qcmdBusy = none → exec .meridianSend s =
        .next (({ s' with fw := { s.fw with qcmdBusy := some v, qcmdVal := v &&& 0xFFFF } } : State).hostApplied s.subj i.op)) ∧
      (∀ v, i.op = .qcmd v → s.fw.qcmdBusy ≠ none → exec .meridianSend s = .next (s'.hostApplied s.subj i.op))) ∧
    (∀ f v, v < 2048 →
      (State.msixMasked (s.fn f) v = false → s.signal f v = s.addOut (.msix f v (BitVec.ofNat 64 (State.msixNat (s.fn f) (16 * v) 8))
        (BitVec.ofNat 32 (State.msixNat (s.fn f) (16 * v + 8) 4)))) ∧
      (State.msixMasked (s.fn f) v = true → v ∈ ((s.signal f v).fn f).pending ∧ (s.signal f v).out = s.out)) ∧
    ((s.fn s.subj).inval ≠ 0 → s.subj ≠ 0 → s.fwAlive = true → ∃ t : State, exec .tlbInvalidationComplete s = .next t ∧
      (t.fn s.subj).inval = (s.fn s.subj).inval - 1 ∧
      (∀ k e, e ∈ (t.core k).utlb ↔ e ∈ (s.core k).utlb ∧ e.tenant ≠ s.subj - 1) ∧
      (∀ d cl e, e ∈ FMap.get [] (t.die d).tlb cl ↔ e ∈ FMap.get [] (s.die d).tlb cl ∧ e.tenant ≠ s.subj - 1) ∧
      (∀ p n, t.readMem p n = s.readMem p n))

/-- Claim.HostAccessesComplete, Claim.RegistersApplied and Claim.MeridianCompletes hold. The reporting of errors and masked vectors are log
entry 73, READ alone on a failed read is 77, and writes of part of a register 94. -/
def Obligations.HostLinkCompletes : Prop := Claim.HostAccessesComplete ∧ Claim.RegistersApplied ∧ Claim.MeridianCompletes


namespace Sys2Proof.Claim

/-- The scale-out engine finds d at an address of a tenant, all of it in this package (R368). -/
def EngineReads (s : State) (tenant : Nat) (va : Word) (d : List Byte) : Prop :=
  ∃ ps, s.ethParts tenant va d.length .engine = some ps ∧ (∀ p ∈ ps, (s.resolve p.1).isRemote = false) ∧
    s.ethBytes' { parts := ps, ids := [] } = some d

/-- The engine may write d at an address of a tenant, all of it in this package, and w is the state with it written. -/
def EngineWrites (s : State) (tenant : Nat) (va : Word) (d : List Byte) (w : State) : Prop :=
  ∃ ps, s.ethParts tenant va d.length .engineWr = some ps ∧ (∀ p ∈ ps, (s.resolve p.1).isRemote = false) ∧ w = (s.ethStores tenant d ps).1

end Sys2Proof.Claim

/-- R366 to R368, R370, R371: a queue pair that ENABLE asks for and whose entry passes its checks is READY with HEAD 0 and the sequence numbers
of its entry, and one whose entry fails reads back ENABLE 0; a queue pair that is to stop and has no entry in progress returns to RESET. A
poll that finds HEAD at the tail it knows reads the tail word, and the next one is a microsecond later; one that finds an entry takes it, or,
where a field is reserved or its data cannot be reached, completes it with an error and a COPY notice (log entry 95). The entry in progress
sends its packets with the headers of the port and the queue pair (log entry 124): a READ its one request, which takes as many sequence
numbers as its response has packets of 4,096 bytes, a WRITE its bytes, 4,096 to a packet. -/
def Sys2Proof.Claim.QueuePairsRun : Prop :=
  ∀ (s : State), let p := s.subj; let q := s.qp p
    (q.enabled = true → q.st = .reset → q.stopping = false →
      (s.qpOk q = true → ∃ t : State, exec .queuePairEnable s = .next t ∧ (t.qp p).st = .ready ∧ (t.qp p).bytes = q.bytes ∧ (t.qp p).head = 0 ∧
        (t.qp p).tail = 0 ∧ (t.qp p).pollAt = s.now + 1000 ∧ (t.qp p).spsn = field q.bytes 48 4 ∧ (t.qp p).rpsn = field q.bytes 52 4) ∧
      (s.qpOk q = false → ∃ t : State, exec .queuePairEnable s = .next t ∧ (t.qp p).enabled = false ∧ (t.qp p).st = .reset)) ∧
    (q.stopping = true → q.busy = none → q.rx = [] → q.txIo = none →
      exec .queuePairDisable s = .next (s.updQp p fun q => { q with st := .reset, stopping := false })) ∧
    (q.st = .ready → q.rx = [] → q.txIo = none →
      (q.busy = none → q.enabled = true →
        (∀ t, q.tail = q.head → q.pollAt ≤ s.now → t.length = 4 → EngineReads s q.tenant (BitVec.ofNat 64 q.tailAddr) t →
          exec .sendRingPoll s = .next (s.updQp p fun q => { q with pollAt := s.now + 1000, tail := leNat t })) ∧
        (let ad := BitVec.ofNat 64 (q.ring + 64 * (q.head % 2 ^ q.log2n))
         ∀ e, q.tail ≠ q.head → e.length = 64 → EngineReads s q.tenant ad e →
          let parts := s.ethParts q.tenant (BitVec.ofNat 64 (field e 8 8)) (field e 4 4) (if field e 0 1 = 2 then .engineWr else .engine)
          (State.ringEntryOk e = false ∨ parts = none → exec .sendRingPoll s = .next ((s.updQp p fun q =>
            { q with head := (q.head + 1) % 2 ^ 32, busy := none }).notice q.tenant 0x14 0 s.ioLoc ad 0)) ∧
          (State.ringEntryOk e = true → parts ≠ none →
            exec .sendRingPoll s = .next (s.updQp p fun q => { q with busy := some (ad, e), sent := 0, got := 0 })))) ∧
      (∀ ad e, q.busy = some (ad, e) → q.sent < field e 4 4 → q.sendAt ≤ s.now →
        let request := fun (d : List Byte) => Output.rdmaRequest p (s.roceHeader q)
          { psn := q.spsn, first := decide (q.sent = 0), ecn := false, op := field e 0 1, raddr := BitVec.ofNat 64 (field e 16 8)
            rkey := BitVec.ofNat 32 (field e 24 4), imm := BitVec.ofNat 32 (field e 28 4), len := field e 4 4, data := d }
        (field e 0 1 = 2 → ∃ t : State, exec .sendRingPoll s = .next t ∧ t.out = s.out ++ [request []] ∧ (t.qp p).sent = q.sent + field e 4 4 ∧
          (t.qp p).spsn = (q.spsn + max 1 ((field e 4 4 + 4095) / 4096)) % 2 ^ 24 ∧ (t.qp p).busy = q.busy) ∧
        (∀ d, field e 0 1 ≠ 2 → d.length = min 4096 (field e 4 4 - q.sent) →
          EngineReads s q.tenant (BitVec.ofNat 64 (field e 8 8 + q.sent)) d → ∃ t : State, exec .sendRingPoll s = .next t ∧
          t.out = s.out ++ [request d] ∧ (t.qp p).sent = q.sent + d.length ∧ (t.qp p).spsn = (q.spsn + 1) % 2 ^ 24 ∧ (t.qp p).busy = q.busy)))

/-- R366, R368, R370, R371: a READY queue pair that has nothing received to do answers the packet whose sequence number is the one it
expects: a READ that the region table permits with the bytes, 4,096 to a response packet; the last packet of a WRITE with an acknowledgement once its bytes are
written; a WRITE with immediate with the decrement of its node behind them; and anything else with a NAK, nothing written. One ahead of the expected
number is answered with a NAK of the expected one, a WRITE behind it is acknowledged again (log entry 124). The acknowledgement of a WRITE that is sent
completes the entry in progress, as the last response packet of a READ does once written; a NAK sets the queue pair to ERROR and tells the
supervisor, with the low eight bits of the queue pair's number (log entry 39). -/
def Sys2Proof.Claim.RdmaArrivals : Prop :=
  ∀ (s : State) (p : Nat) (r : RdmaReq) (k : RdmaAck), let q := s.qp p
    let ack := fun (n : Nat) (c : Bool) (d : List Byte) => Output.rdmaAck p (s.roceHeader q) { psn := n, ecn := c, data := d }
    let nak := fun (n : Nat) (x : NakKind) => Output.rdmaNak p (s.roceHeader q) n x
    (q.st = .ready → q.enabled = true →
      (r.psn % 2 ^ 24 = q.rpsn → q.rx = [] → q.rxIo = none →
        (3 ≤ r.op → exec (.rdmaRequestArrival p r) s = .next (s.addOut (nak r.psn .invalid))) ∧
        (r.op < 3 → r.first = true → s.regionAllows q.tenant r = false → exec (.rdmaRequestArrival p r) s = .next (s.addOut (nak r.psn .access))) ∧
        (∀ d, r.op = 2 → r.first = true → s.regionAllows q.tenant r = true → d.length = r.len → EngineReads s q.tenant r.raddr d →
          ∃ t : State, exec (.rdmaRequestArrival p r) s = .next t ∧ t.dm = s.dm ∧
            (t.qp p).rpsn = (q.rpsn + max 1 ((r.len + 4095) / 4096)) % 2 ^ 24 ∧
            t.out = s.out ++ (List.range (max 1 ((r.len + 4095) / 4096))).map fun i =>
              ack ((r.psn + i) % 2 ^ 24) r.ecn (slice d (4096 * i) (min 4096 (r.len - 4096 * i)))) ∧
        (∀ w, r.op < 2 → r.first = true → s.regionAllows q.tenant r = true → r.len ≤ 4096 → r.data.length = r.len →
          EngineWrites s q.tenant r.raddr r.data w → ∃ t : State, exec (.rdmaRequestArrival p r) s = .next t ∧ t.dm = w.dm ∧
            (t.qp p).rpsn = (q.rpsn + 1) % 2 ^ 24 ∧ (r.op = 0 → t.flight = s.flight ∧ t.out = s.out ++ [ack r.psn r.ecn []]) ∧
            (r.op = 1 → r.imm.toNat < (s.tenant q.tenant).nodeLen → (s.nodePlace q.tenant r.imm.toNat).isRemote = false →
              t.out = s.out ++ [ack r.psn r.ecn []] ∧ ∃ a : Access, t.flight = s.flight ++ [a] ∧ a.place = s.nodePlace q.tenant r.imm.toNat ∧
                a.kind = .atomic (.decrement r.imm.toNat)))) ∧
      (r.psn % 2 ^ 24 ≠ q.rpsn → State.psnAhead r.psn q.rpsn < 2 ^ 23 → exec (.rdmaRequestArrival p r) s = .next (s.addOut (nak q.rpsn .sequence))) ∧
      (r.psn % 2 ^ 24 ≠ q.rpsn → 2 ^ 23 ≤ State.psnAhead r.psn q.rpsn → q.rx = [] → r.op ≠ 2 →
        exec (.rdmaRequestArrival p r) s = .next (s.addOut (ack r.psn r.ecn [])))) ∧
    (q.st ≠ .ready → exec (.rdmaRequestArrival p r) s = .next s) ∧
    (∀ a e, q.busy = some (a, e) → k.ecn = false →
      (field e 0 1 ≠ 2 → field e 4 4 ≤ q.sent → State.psnAhead k.psn ((q.spsn + (2 ^ 24 - 1)) % 2 ^ 24) < 2 ^ 23 → exec (.rdmaAckArrival p k) s =
        .next ((s.updQp p fun q => { q with head := (q.head + 1) % 2 ^ 32, busy := none }).ringAction q.tenant e)) ∧
      (∀ w, field e 0 1 = 2 → q.sent ≠ 0 → k.data ≠ [] → q.rx = [] → q.rxIo = none →
        EngineWrites s q.tenant (BitVec.ofNat 64 (field e 8 8 + q.got)) k.data w →
        (q.got + k.data.length < field e 4 4 → ∃ t : State, exec (.rdmaAckArrival p k) s = .next t ∧ t.dm = w.dm ∧
          (t.qp p).got = q.got + k.data.length ∧ (t.qp p).busy = q.busy ∧ (t.qp p).head = q.head) ∧
        (field e 4 4 ≤ q.got + k.data.length → field e 1 1 = 0 → ∃ t : State, exec (.rdmaAckArrival p k) s = .next t ∧ t.dm = w.dm ∧
          (t.qp p).busy = none ∧ (t.qp p).head = (q.head + 1) % 2 ^ 32 ∧ t.out = s.out))) ∧
    (∀ a e, (s.qp s.subj).busy = some (a, e) → exec .rdmaNakArrival s = .next ((s.updQp s.subj fun q =>
      { q with st := .error, busy := none, rx := [], rxIo := none, txIo := none }).notice (s.qp s.subj).tenant 0x14 (s.subj % 256) s.ioLoc a 0))

/-- Claim.QueuePairsRun and Claim.RdmaArrivals hold. That a NAK's notice has the low eight bits of the number is log entry 39, what is an
error of an entry and what a NAK log entry 95, and the packets log entry 124. -/
def Obligations.ScaleOutCompletes : Prop := Claim.QueuePairsRun ∧ Claim.RdmaArrivals
/-! ## The firmware complex -/

/-- R373, R374: on a queue hart, WARM arms its watch on the condition of a well-formed block, translated for the tenant of its queue (log
entry 84), or, where the block is malformed, arms nothing and tells the supervisor; WBLK goes on with 1, 2 or 3 in rd where the armed condition holds, its queue has been kicked, or both,
and otherwise blocks; on hart 32 either is an illegal instruction, whose trap is that
of the base architecture (log entry 26). A re-read of the watched word of a WAIT node whose condition holds
decrements the node's successors and retires it. -/
def Sys2Proof.Claim.WatchesComplete : Prop :=
  ∀ (s : State) (r : BitVec 5), let k := s.fw.curHart; let h := s.hart k
    (32 ≤ k → exec (.warm r) s = .next (s.hartIllegal k (0xB + r.toNat * 2 ^ 15)) ∧
      exec (.wblk r) s = .next (s.hartIllegal k (0x100B + r.toNat * 2 ^ 7))) ∧
    (k < 32 →
      (let a := s.hartX k r.toNat
       let b := s.readMem (s.resolve a.toNat) 32
       ∀ t, s.hartTenant k = some t →
        (∀ w, a.toNat < 2 ^ 56 → b ≠ [] → s.parseWatch t b = some w →
          exec (.warm r) s = .next (s.updHart k fun h => { h with watch := some w, rereadAt := s.now, pc := h.pc + 4 })) ∧
        (2 ^ 56 ≤ a.toNat ∨ b = [] ∨ s.parseWatch t b = none → exec (.warm r) s =
          .next (((s.updHart k fun h => { h with watch := none }).notice t 0x06 0 s.ioLoc a 0).updHart k fun h => { h with pc := h.pc + 4 }))) ∧
      (let c := h.watch.any s.watchHolds
       let v : Word := (if c then 1 else 0) + (if h.kicked then 2 else 0)
       (v ≠ 0 → ∃ u : State, exec (.wblk r) s = .next u ∧ (u.hart k).pc = h.pc + 4 ∧ (u.hart k).blocked = none ∧
          (u.hart k).kicked = false ∧ (u.hart k).watch = (if c then none else h.watch) ∧
          ∀ i, u.hartX k i = if i = r.toNat ∧ i ≠ 0 then v else s.hartX k i) ∧
       (v = 0 → exec (.wblk r) s = .next (s.updHart k fun h => { h with blocked := some r, rereadAt := s.now })))) ∧
    (∀ rd, s.rereadDue s.subj = true → (s.hart s.subj).waitNode = none → (s.hart s.subj).blocked = some rd →
      let g := s.hart s.subj
      let c := g.watch.any s.watchHolds
      let v : Word := (if c then 1 else 0) + (if g.kicked then 2 else 0)
      ∃ u : State, exec .watchReread s = .next u ∧ (u.hart s.subj).rereadAt = s.now + 512 ∧
        (if v = 0 then (u.hart s.subj).blocked = some rd ∧ (u.hart s.subj).pc = g.pc
         else (u.hart s.subj).blocked = none ∧ (u.hart s.subj).pc = g.pc + 4 ∧ (rd ≠ 0 → u.hartX s.subj rd.toNat = v))) ∧
    (s.rereadDue s.subj = true → (s.hart s.subj).blocked = none → ∀ t i w, (s.hart s.subj).waitNode = some (t, i, w) →
      let s' := s.updHart s.subj fun h => { h with rereadAt := s.now + 512 }
      exec .watchReread s = .next (if s.watchHolds w then (((s'.updHart s.subj fun h => { h with waitNode := none }).decrementSuccessors
        (unitOf 8) t i s.ioLoc).nodeRetired t i) else s'))

/-- R374, R376, R378, R379: ENABLE of a DISABLED queue with a well-formed block makes it IDLE with TAIL, HEAD and TAKEN 0; DISABLE of an
IDLE or BROKEN queue makes it DISABLED; in any other state the command only answers 2, and on a malformed block 1. The hart takes the
next slot of its queue and sends a node whose count is 0 to its walker, unless a decrement has made it ready before (Queue.early, log entry
27); a node that retires is counted, at once or, where the hart has still to take its slot, as the hart takes it; HEAD passes the retired
prefix, and IVEC is signalled where it moves. The manager maps the queue that it chooses; a pending queue ages. -/
def Sys2Proof.Claim.QueuesComplete : Prop :=
  ∀ (s : State), 
    (∀ q v, s.qcmdNow = some (0, q) → s.fw.qcmdBusy = some v → v.toNat / 2 ^ 16 % 2 ^ 40 = 0 →
      ((s.queue q).st ≠ .disabled → exec .qcmdEnable s = .next (s.qcmdDone 2)) ∧
      ((s.queue q).st = .disabled → s.parseBlock (s.blockOf q) = none → exec .qcmdEnable s = .next (s.qcmdDone 1)) ∧
      (∀ x, (s.queue q).st = .disabled → s.parseBlock (s.blockOf q) = some x → ∃ t : State, exec .qcmdEnable s = .next t ∧
        t.queue q = { x with st := .idle } ∧ x.tail = 0 ∧ x.head = 0 ∧ x.taken = 0 ∧ (∀ p, p ≠ q → t.queue p = s.queue p) ∧
        t.fw.qcmdBusy = none ∧ t.fw.qcmdResult = 0 ∧ t.cores = s.cores)) ∧
    (∀ q v, s.qcmdNow = some (1, q) → s.fw.qcmdBusy = some v → v.toNat / 2 ^ 16 % 2 ^ 40 = 0 →
      ((s.queue q).st = .idle ∨ (s.queue q).st = .broken → exec .qcmdDisable s = .next ((s.setQState q .disabled).qcmdDone 0)) ∧
      ((s.queue q).st = .disabled ∨ (s.queue q).st = .pending ∨ (s.queue q).st = .mapped →
        exec .qcmdDisable s = .next (s.qcmdDone 2))) ∧
    (∀ q, s.fwAlive = true → s.subj < 32 → s.nextWait s.subj = none → s.hasSlot s.subj = some q →
      let x := s.queue q
      let i := x.first + x.taken % 2 ^ x.log2n
      let r := s.nodeRec x.tenant i
      let y : Queue := { x with taken := (x.taken + 1) % 2 ^ 32, early := x.early.erase i, gone := x.gone.erase i
                                retired := if x.gone.contains i then x.retired ++ [x.taken] else x.retired }
      ∃ t : State, exec .hartTakeSlot s = .next t ∧ t.queue q = Queue.advance (y.retired.length + 1) y ∧
        (t.die (nodeDie r)).walker = (s.die (nodeDie r)).walker ++
          (if field r 4 4 = 0 ∧ !x.early.contains i then [{ tenant := x.tenant, index := i, after := [] }] else [])) ∧
    (∀ n, s.fwAlive = true → s.subj < 32 → s.nextWait s.subj = some n → ∀ b w, s.unitBytes n.tenant (nodePtr (s.nodeRec n.tenant n.index)) 32 = some b →
      s.parseWatch n.tenant b = some w → ∃ t : State, exec .hartTakeSlot s = .next t ∧
        (t.hart s.subj).waitNode = some (n.tenant, n.index, w) ∧ t.fw.waits = s.fw.waits.erase n) ∧
    (∀ n, s.nextRetired = some n → s.fwAlive = true → exec .nodeRetire s = .next ((s.fw.queues.map (·.1)).foldl (fun s q => s.retireIn q n)
      { s with fw := { s.fw with retiring := s.fw.retiring.erase n } })) ∧
    (∀ n q i, (s.queue q).tenant = n.tenant → (s.queue q).st ≠ .disabled → (s.queue q).st ≠ .broken → (s.queue q).slotOf n.index = some i →
      let x := Queue.advance ((s.queue q).retired.length + 2) { s.queue q with retired := (s.queue q).retired ++ [i] }
      let u := s.retireIn q n
      u.queue q = x ∧ u.cores = s.cores ∧
      ((x.head = (s.queue q).head ∨ (s.queue q).ivec = 0) → u.out = s.out ∧ u.fns = s.fns) ∧
      (x.head ≠ (s.queue q).head → (s.queue q).ivec ≠ 0 → u.out = (s.signal (n.tenant + 1) (s.queue q).ivec).out ∧
        u.fns = (s.signal (n.tenant + 1) (s.queue q).ivec).fns)) ∧
    (∀ n q, (s.queue q).tenant = n.tenant → (s.queue q).st ≠ .disabled → (s.queue q).st ≠ .broken → (s.queue q).slotOf n.index = none →
      n.index ∈ (s.queue q).early → n.index ∉ (s.queue q).gone →
      s.retireIn q n = s.updQueue q fun x => { x with gone := x.gone ++ [n.index] }) ∧
    (∀ q k v, s.managerChoice = some (q, k, v) → s.fwAlive = true → ∃ t : State, exec .managerMap s = .next t ∧
      (t.queue q).st = .mapped ∧ (t.hart k).queue = some q ∧ (∀ u, v = some u → u ≠ q → (t.queue u).st = .idle)) ∧
    (s.fwAlive = true → s.agesNow s.subj = true → exec .queueAging s = .next (s.updQueue s.subj fun x => { x with age := x.age + 1 }))

/-- R382 to R384: an error in one copy of instruction memory is scrubbed; errors in both copies at one address halt the complex, set FATAL
and signal vector 0 of every function, which waits where it is masked (log entry 73); an error in the entry of a mapped queue is reloaded from its block and logged, and a block that
cannot be read makes the queue BROKEN. -/
def Sys2Proof.Claim.FirmwareErrorsHandled : Prop :=
  ∀ (s : State) (q : Nat),
    (∀ e, s.fw.imemBad.find? (fun e => !s.imemLost e.1) = some e → exec .imemUeRecovery s =
      .next { s with fw := { s.fw with imemBad := s.fw.imemBad.erase e } }) ∧
    (∀ e ∈ s.fw.imemBad, s.imemLost e.1 = true → s.fw.fatal = false → ∃ t : State, exec .firmwareHalt s = .next t ∧ t.fw.fatal = true ∧
      (∀ k, (t.hart k).running = false) ∧ (∀ f, f < 17 → if State.msixMasked (s.fn f) 0 then 0 ∈ (t.fn f).pending else ∃ a d, .msix f 0 a d ∈ t.out) ∧ .fatal ∈ t.out ∧ t.cores = s.cores ∧ t.dm = s.dm) ∧
    ((s.queue q).st = .mapped → s.fwAlive = true →
      (exec (.queueTableUe q false) s = .next ((s.breakQueue q).signal ((s.queue q).tenant + 1) 0)) ∧
      (let b := s.blockOf q
       exec (.queueTableUe q true) s = .next ((s.updQueue q fun x =>
        { x with first := field b 0 4, log2n := field b 4 1, prio := field b 5 1 % 8, tenant := field b 6 1 % 16, tail := field b 8 4
                 head := field b 12 4, taken := field b 16 4, ivec := field b 20 2 }).vlogTenant (s.queue q).tenant
        (BitVec.ofNat 64 (s.qcb q 0)) 0x03 (s.queue q).tenant 0)))

/-- Claim.WatchesComplete, Claim.QueuesComplete and Claim.FirmwareErrorsHandled hold. Queue.early is log entry 27, a masked vector 73, a hart's
trap 26, and the translation of a WARM 84. -/
def Obligations.FirmwareCompletes : Prop := Claim.WatchesComplete ∧ Claim.QueuesComplete ∧ Claim.FirmwareErrorsHandled


/-- R357, R380, R381: with its command running, ACTIVATE of an inactive tenant with a good descriptor makes it active and gives it its
clusters' cores with CAPT; with a bad one it answers 1 and changes nothing, and of an active tenant 2. A pre-emption begins by calling
the tenant's threads home, then stops issue, then saves and releases its cores; RESTORE puts the saved cores back; DESTROY leaves
nothing of the tenant; INVALIDATE leaves no entry of it in any TLB. -/
def Obligations.TenantCommandsComplete : Prop :=
  ∀ (s : State), let n := s.subj; let d := s.tdesc.read (256 * n) 256; let t := parseTenant d
    (s.tcmdNow = some (n, 0) →
      ((s.tenant n).active = true → exec .activate s = .next (s.tcmdDone 2)) ∧
      ((s.tenant n).active = false → s.tenantOk n d = false → exec .activate s = .next (s.tcmdDone 1)) ∧
      ((s.tenant n).active = false → s.tenantOk n d = true → ∃ u : State, exec .activate s = .next u ∧
        u.tenant n = { t with active := true } ∧ (∀ m, m ≠ n → u.tenant m = s.tenant m) ∧ u.fw.tcmdBusy = none ∧ u.fw.tcmdResult = 0 ∧
        (∀ k ∈ maskCores t.clusters, (u.core k).assigned = true ∧ (u.core k).tenant = n ∧ (u.core k).capt = t.capt ∧
          (u.core k).sv = decide (k = t.supDie * 512 + t.supCore)) ∧ (∀ p n, u.readMem p n = s.readMem p n))) ∧
    (s.tcmdNow = some (n, 1) → ((s.tenant n).active = false ∨ (s.tenant n).preempted = true) → exec .preempt s = .next (s.tcmdDone 2)) ∧
    ((s.tcmdNow ≠ some (n, 1) ∨ ((s.tenant n).active = true ∧ (s.tenant n).preempted = false)) →
      (s.preemptStep n = 1 → exec .preempt s =
        .next ((s.updTenant n fun t => { t with stopping := 1, byEvict := s.plat.evict == .draining }).callHome n)) ∧
      (s.preemptStep n = 2 → exec .preempt s = .next (s.callHome n)) ∧
      (s.preemptStep n = 3 → exec .preempt s = .next (s.updTenant n fun t => { t with stopping := 2 })) ∧
      (s.preemptStep n = 4 → ∃ u : State, exec .preempt s = .next u ∧ (u.tenant n).preempted = true ∧
        (∀ k ∈ s.coresOf n, (u.core k).assigned = false ∧ (u.core k).gfile = [] ∧ (u.core k).vfile = []) ∧
        (∃ v ∈ u.saved, v.tenant = n) ∧
        ∀ b, (∀ i a, s.savePlace n i = some a → b < a) → u.dm.byte b = s.dm.byte b)) ∧
    (s.tcmdNow = some (n, 2) → (s.tenant n).active = true → (s.tenant n).preempted = true →
      s.clustersTaken n (s.tenant n).clusters = false → s.mayRestore = true → exec .restore s = .next ((s.restoreTenant n).tcmdDone 0)) ∧
    (s.tcmdNow ≠ some (n, 2) → s.mayRestore = true → s.fwAlive = true → s.restoresHere n = true →
      exec .restore s = .next ((s.restoreTenant n).restoredHere n)) ∧
    (s.tcmdNow = some (n, 3) →
      ((s.tenant n).active = false → exec .destroy s = .next (s.tcmdDone 2)) ∧
      ((s.tenant n).active = true → ∃ u : State, exec .destroy s = .next u ∧ (u.tenant n).active = false ∧ u.fw.tcmdBusy = none ∧
        u.fw.tcmdResult = 0 ∧ (∀ v ∈ u.saved, v.tenant ≠ n) ∧
        (∀ k ∈ s.coresOf n, (u.core k).assigned = false ∧ (u.core k).gfile = [] ∧ (u.core k).vfile = []))) ∧
    (s.tcmdNow = some (n, 4) →
      ((s.tenant n).active = false → exec .invalidate s = .next (s.tcmdDone 2)) ∧
      ((s.tenant n).active = true → ∃ u : State, exec .invalidate s = .next u ∧ u.fw.tcmdBusy = none ∧ u.fw.tcmdResult = 0 ∧
        (∀ k e, e ∈ (u.core k).utlb ↔ e ∈ (s.core k).utlb ∧ e.tenant ≠ n) ∧
        (∀ d cl e, e ∈ FMap.get [] (u.die d).tlb cl ↔ e ∈ FMap.get [] (s.die d).tlb cl ∧ e.tenant ≠ n)))
/-! ## The security processor -/

/-- R19, R301, R372, R384, R385, R389 to R391, R393: main power applied, with an accepted image: power is ACTIVE, debug OFF, FSTAT.READY set, the
33 harts run, ports 0 to 14 lead to the other packages of the row and 15 to 29 to those of the column, UP where the package is present,
and 30 and 31 are spares (that order of the ports, and the harts' first pc, are the model's choice, log entries 34 and 26), and the queues'
control blocks are zero; with no image, or one that fails its check, READY stays as it was. A loss of power or SETPOWER OFF leaves OFF, with
debug OFF, no keys and nothing in any memory; a reset of the package keeps device memory (log entry 89). SETPOWER that names the current state changes nothing, one
during a change is BUSY, and during the handshake it is refused. A die that may idle gates its clocks, and one that is called ungates
them. An uncorrectable error in a tile slot sets its POISON (R245). -/
def Sys2Proof.Claim.PowerChanges : Prop :=
  ∀ (s : State), let p := s.plat
    ((p.power = .off ∨ s.fw.ready = false) → s.fw.fatal = false → ∃ t : State, exec .powerOn s = .next t ∧ t.plat.power = .active ∧
      t.plat.debug = .off ∧
      (∀ i, p.image = some i → imageOk p.minVersion i = true → s.pkg < 256 → t.fw.ready = true ∧ t.plat.running = some i ∧ t.fw.qcbBase % 4096 = 0 ∧
        (∀ o, o < 0x40000 → t.dm.byte (t.fw.qcbBase % 2 ^ 48 + o) = 0) ∧
        (∀ k, k < 33 → (t.hart k).running = true ∧ (t.hart k).pc = 0) ∧ (t.port 30).st = .spare ∧ (t.port 31).st = .spare ∧
        ∀ n, n < 15 →
          let c := if n < s.pkg % 16 then n else n + 1
          let r := if n < s.pkg / 16 then n else n + 1
          t.peer n = s.pkg / 16 * 16 + c ∧ t.peer (n + 15) = r * 16 + s.pkg % 16 ∧
          ∀ m, m = n ∨ m = n + 15 → (t.port m).st = (if t.present.contains (t.peer m) then .up else .down)) ∧
      ((∀ i, p.image = some i → imageOk p.minVersion i = false) → t.fw = s.fw ∧ t.ports = s.ports)) ∧
    (∃ t : State, exec .lossOfMainPower s = .next t ∧ t.plat.power = .off ∧ t.plat.debug = .off ∧ t.plat.linkKeys = false ∧
      t.plat.idKey = false ∧ t.dm = Mem.empty ∧ t.plat.minVersion = p.minVersion ∧ t.plat.image = p.image ∧ t.present = s.present ∧
      (∀ k, (t.core k).ulm = Mem.empty ∧ (t.core k).gfile = []) ∧ t.fw.ready = false) ∧
    (s.powered = true → ∃ t : State, exec .packageReset s = .next t ∧ t.dm = s.dm ∧ t.fw.ready = false ∧ t.fw.fatal = false ∧
      t.plat.power = .active ∧ t.plat.minVersion = p.minVersion ∧ ∀ k, (t.core k).gfile = [] ∧ (t.core k).assigned = false) ∧
    (s.powered = true → p.changing = true → exec .setpowerRetention s = .next (s.reply 1) ∧ exec .setpowerActive s = .next (s.reply 1) ∧
      exec .setpowerOff s = .next (s.reply 1)) ∧
    (s.powered = true → p.changing = false →
      (p.power = .retention → exec .setpowerRetention s = .next (s.reply 0)) ∧
      (p.power = .active → s.evictBusy = true → exec .setpowerRetention s = .next (s.reply 2) ∧ exec .setpowerOff s = .next (s.reply 2)) ∧
      (p.power = .active → s.evictBusy = false → (∃ n, n < 16 ∧ (s.tenant n).active = true ∧ (s.tenant n).preempted = false) →
        exec .setpowerRetention s = .next { s with plat := { p with changing := true } }) ∧
      (p.power = .active → s.evictBusy = false → (∀ n, n < 16 → (s.tenant n).active = false ∨ (s.tenant n).preempted = true) →
        ∃ t : State, exec .setpowerRetention s = .next t ∧ t.plat = { p with power := .retention } ∧ t.out.getLast? = some (.reply 0 []) ∧
          (∀ e ∈ t.ports, e.2.st = .spare ∨ e.2.st = .down) ∧ t.cores = s.cores ∧ t.dm = s.dm) ∧
      (p.power = .active → exec .setpowerActive s = .next (s.reply 0)) ∧
      (p.power = .retention → ∃ t : State, exec .setpowerActive s = .next t ∧ t.plat = { p with power := .active } ∧
        (∀ e ∈ s.ports, s.linked e.2 = true → ∃ e' ∈ t.ports, e'.1 = e.1 ∧ e'.2.st = .up) ∧ t.cores = s.cores ∧ t.dm = s.dm) ∧
      (s.evictBusy = false → ∃ t : State, exec .setpowerOff s = .next t ∧ t.plat.power = .off ∧ t.plat.linkKeys = false ∧
        t.plat.idKey = false ∧ t.dm = Mem.empty ∧ (∀ k, (t.core k).ulm = Mem.empty ∧ (t.core k).gfile = []))) ∧
    (s.mayIdle s.subj = true → exec .dieIdleEntry s =
      .next ((s.updDie s.subj fun d => { d with gated := true }).trace (.power (some s.subj) 1))) ∧
    ((s.die s.subj).gated = true → s.dieCalled s.subj = true → exec .dieWake s =
      .next ((s.updDie s.subj fun d => { d with gated := false }).trace (.power (some s.subj) 0))) ∧
    (∃ t : State, exec .slotUncorrectableError s = .next t ∧
      (let slot := FMap.get TileSlot.reset (s.core (s.subj / 32)).tiles.slots (s.subj % 32)
       FMap.get TileSlot.reset (t.core (s.subj / 32)).tiles.slots (s.subj % 32) = { slot with poison := true }) ∧
      ∀ k, k ≠ s.subj / 32 → t.core k = s.core k)

/-- R386 to R389, R392 to R394: on a powered package, GETSTATE, EVSTAT and the monitor read the states; PROVISION makes OPEN SECURE, and
is refused in any other; DEBUGCHAL issues a challenge; DEBUGAUTH gives CONTROL in OPEN, where the authorisation checks, which uses up
its challenge (log entry 87), and never between DRAINING and SAFE; ATTEST makes a tenant attested and reports the running image, the tenant's
descriptor and the challenge; the identity store answers in every power state, and the identity key signs while its copy is held; an image is
installed where its check passes; ACCEPTMIN raises the minimum (log entry 92). The reply codes are log entry 88. -/
def Sys2Proof.Claim.SecurityMessagesAnswered : Prop :=
  ∀ (s : State) (o n : Nat) (tg : DebugState) (mask : BitVec 16) (chal sig key : List Byte) (sigs : List (Nat × List Byte)) (im : FwImage),
    let p := s.plat
    (o < 512 → exec (.identityStoreRead o) s = .next (s.addOut (.reply 0 [identity o]))) ∧
    (s.powered = true →
      exec .idread s = .next (s.addOut (.reply 0 ((List.range 512).map identity))) ∧
      exec (.idchal chal) s = .next (if p.idKey then s.addOut (.reply 0 (Config.sm2Sign (Config.sm3 (chal ++ serial))))
        else s.addOut (.reply 2 [])) ∧
      exec .getstate s = .next (s.addOut (.reply 0 (s.stateBytes ++ s.evictBytes))) ∧
      exec .evstat s = .next (s.addOut (.reply 0 s.evictBytes)) ∧
      (∃ r, exec .pldmMonitor s = .next (({ s with freeCount := s.freeCount + 1 } : State).addOut (.reply 0 (r ++ s.stateBytes)))) ∧
      exec .provision s = .next (if p.security = .open then ({ s with plat := { p with security := .secure } } : State).addOut (.reply 0 [])
        else s.addOut (.reply 2 [])) ∧
      (let c := Config.challenge p.issued
       exec .debugchal s = .next (({ s with plat := { p with issued := p.issued + 1, challenges := p.challenges ++ [c] } } : State).addOut
        (.reply 0 c))) ∧
      (tg ≠ .control → exec (.debugauth tg mask chal sig sigs) s =
        .next (({ s with plat := { p with debug := tg } } : State).addOut (.reply 0 []))) ∧
      (s.evictUnderWay = true → exec (.debugauth .control mask chal sig sigs) s = .next (s.addOut (.reply 2 []))) ∧
      (s.evictUnderWay = false → p.security = .open → exec (.debugauth .control mask chal sig sigs) s =
        .next (({ s with plat := { p with debug := .control, debugMask := mask } } : State).addOut (.reply 0 []))) ∧
      (s.evictUnderWay = false → p.security ≠ .open → s.authorised mask chal sig sigs = false →
        exec (.debugauth .control mask chal sig sigs) s = .next (s.addOut (.reply 3 []))) ∧
      (s.evictUnderWay = false → p.security ≠ .open → s.authorised mask chal sig sigs = true → ∃ t : State,
        exec (.debugauth .control mask chal sig sigs) s = .next t ∧ t.plat.debug = .control ∧ t.plat.debugMask = mask ∧
        (p.security = .secure ∨ s.attested ≠ [] → t.plat.security = .secure) ∧ t.plat.challenges = p.challenges.erase chal ∧ ∀ m ∈ s.attested, (t.tenant m).active = false) ∧
      ((p.security = .open ∨ p.debug = .control ∨ (s.tenant n).active = false ∨ p.idKey = false) → exec (.attest n key chal) s = .next (s.addOut (.reply 2 []))) ∧
      (p.security ≠ .open → p.debug ≠ .control → (s.tenant n).active = true → p.idKey = true → ∃ t : State, exec (.attest n key chal) s = .next t ∧
        t.plat.security = .attested ∧ (t.tenant n).attestKey = some key ∧ t.cores = s.cores ∧
        (let d := Config.sm3 ((p.running.map (·.body)).getD []) ++ Config.sm3 (s.tdesc.read (256 * n) 256) ++ Config.sm3 chal
         t.out = s.out ++ [.reply 0 (d ++ Config.sm2Sign d)])) ∧
      exec (.pldmFirmwareUpdate im) s = .next (if imageOk p.minVersion im then
        ({ s with plat := { p with image := some im } } : State).addOut (.reply 0 []) else s.addOut (.reply 3 [])) ∧
      exec (.acceptmin n) s = .next (({ s with plat := { p with minVersion := max p.minVersion n } } : State).addOut (.reply 0 [])))

/-- R385, R387, R389: debug reads and writes a register or a buffer word, and halts the threads of a core, exactly where it may: in
CONTROL, with no attested tenant left, and in SECURE for the cores of the authorised tenants (log entry 87); elsewhere it is refused. In OBSERVE
and CONTROL it reads the counters, those of a core that an attested tenant holds as 0 (which counters there are is log entry 125). -/
def Sys2Proof.Claim.DebugCommands : Prop :=
  ∀ (s : State) (tg : DebugTarget) (w : Word) (k : Nat), s.powered = true →
    (isCounter tg = false → s.debugMay (debugCore tg) = false → (∀ x, exec (.debugAccess tg x) s = .next (s.reply 2))) ∧
    (isCounter tg = false → s.debugMay (debugCore tg) = true →
      (∀ t v, (s.ungate (debugCore tg)).debugDo tg none = some (t, v) → exec (.debugAccess tg none) s = .next (t.addOut (.debugData v))) ∧
      (∀ t v, (s.ungate (debugCore tg)).debugDo tg (some w) = some (t, v) → exec (.debugAccess tg (some w)) s = .next t)) ∧
    (s.plat.debug = .off → exec (.debugAccess (.cycles k) none) s = .next (s.reply 2)) ∧
    (s.plat.debug ≠ .off → k < 4096 → exec (.debugAccess (.cycles k) none) s = .next (s.addOut (.debugData
      (if (s.core k).assigned ∧ (s.tenant (s.core k).tenant).attestKey.isSome then 0 else BitVec.ofNat 64 (s.cycOf k))))) ∧
    (s.plat.debug ≠ .off → k < 32 → exec (.debugAccess (.segments k) none) s =
      .next (s.addOut (.debugData (BitVec.ofNat 64 (s.port k).segctr)))) ∧
    (s.debugMay s.subj = false → exec .debugHalt s = .next (s.reply 2)) ∧
    (s.debugMay s.subj = true → exec .debugHalt s = .next ((List.range 64).foldl (fun u i =>
      if (u.thr (s.subj * 64 + i)).st = .run ∨ (u.thr (s.subj * 64 + i)).st = .parked then
        (if u.atBoundary (s.subj * 64 + i) then u.suspend (s.subj * 64 + i) else u.askStop (s.subj * 64 + i) false)
      else u) (s.ungate s.subj)))

/-- Claim.PowerChanges, Claim.SecurityMessagesAnswered and Claim.DebugCommands hold. The harts' first pc and the order of the ports are log
entries 26 and 34, what authorisation takes 87, the reply codes 88, device memory over a reset 89, and ACCEPTMIN of a lower version 92. -/
def Obligations.PowerAndSecurityComplete : Prop := Claim.PowerChanges ∧ Claim.SecurityMessagesAnswered ∧ Claim.DebugCommands


/-- R395 to R397, R403: the eviction handshake. EVICT is accepted in power ACTIVE, state NORMAL, with debug not CONTROL, for another
package of the row or column, and refused otherwise; a neighbour that is asked accepts exactly in NORMAL and ACTIVE with room for the tenants, and
takes in one that crosses, pre-empted and still to be restored; with the last one restored it confirms; the neighbour's answer leads to
DRAINING or back to NORMAL; a drained package is MOVING, and its tenants cross; the confirmation makes ROUTESDRAINED and the tenants leave (log
entry 90); with quiet ports SAFE follows, with the latch released and the keys gone. A failure or 30 s make it FAILED, on the neighbour side only
after the confirmation, and the neighbour discards what has crossed. CLEAR returns from FAILED or SAFE to NORMAL (log entry 91). The presence map
forgets a package acknowledged absent and learns one brought up; its own bit stays set. The reply codes are log entry 88. -/
def Obligations.EvictionCompletes : Prop :=
  ∀ (s : State) (n m : Nat), let p := s.plat
    let setE := fun (e : Evict) => ({ s with plat := { p with evict := e } } : State)
    (s.powered = true → p.power = .active → p.evict = .normal → p.debug ≠ .control → n ≠ s.pkg → n < 256 →
      (n / 16 = s.pkg / 16 ∨ n % 16 = s.pkg % 16) → exec (.evict n) s = .next ((({ s with plat := { p with
        evict := .evictReq, evictTo := n, evictAt := s.now + 30000000000, neighbourSide := false } } : State).addOut
        (.evictRequest n s.needs)).reply 0)) ∧
    (s.powered = true → (p.power ≠ .active ∨ p.evict ≠ .normal ∨ p.debug = .control ∨ n = s.pkg ∨
      (n / 16 ≠ s.pkg / 16 ∧ n % 16 ≠ s.pkg % 16)) → exec (.evict n) s = .next (s.reply 2)) ∧
    (∀ ts, s.powered = true →
      (p.evict = .normal ∧ p.power = .active ∧ s.fwAlive = true ∧ p.incoming = none ∧ s.roomFor ts = true →
        exec (.evictionRequestReceived { pkg := n, msg := .ask ts }) s =
          .next (({ s with plat := { p with incoming := some n } } : State).addOut (.evictAnswer n true))) ∧
      (¬(p.evict = .normal ∧ p.power = .active ∧ s.fwAlive = true ∧ p.incoming = none ∧ s.roomFor ts = true) →
        exec (.evictionRequestReceived { pkg := n, msg := .ask ts }) s = .next (s.addOut (.evictAnswer n false)))) ∧
    (∀ x t, s.fwAlive = true → p.incoming = some n → ({ s with plat := { p with incoming := none } } : State).takeTenant n x = some t →
      exec (.evictionRequestReceived { pkg := n, msg := .move [x] }) s = .next t ∧
      ∃ k, k < 16 ∧ (s.tenant k).active = false ∧ (t.tenant k).active = true ∧ (t.tenant k).preempted = true ∧ (t.tenant k).movedFrom = some n) ∧
    ((s.tenant m).movedFrom = some n →
      ((∃ k ∈ s.crossedFrom n, (s.tenant k).preempted = true) → (s.restoredHere m).out = s.out) ∧
      ((∀ k ∈ s.crossedFrom n, (s.tenant k).preempted = false) → (s.restoredHere m).out = s.out ++ [.moveConfirmed n])) ∧
    (p.evict = .evictReq → exec .neighbourAccept s = .next (setE .draining) ∧ exec .neighbourRefuse s = .next ((setE .normal).reply 4)) ∧
    (p.evict = .draining → s.evictDrained = true → exec .drainingDone s =
      .next ((setE .moving).addOut (.moveTenants p.evictTo (s.activeTenants.map s.crossing)))) ∧
    (p.evict = .moving → ∃ t : State, exec .moveConfirmation s = .next t ∧ t.plat.evict = .routesDrained ∧
      (∀ m, m < 16 → (t.tenant m).active = false)) ∧
    (p.evict = .routesDrained → s.portsQuiet = true → ∃ t : State, exec .routesDrained s = .next t ∧ t.plat.evict = .safe ∧
      t.plat.latch = true ∧ t.plat.linkKeys = false ∧ t.plat.idKey = false ∧ (∀ k, (t.core k).ulm = Mem.empty ∧ (t.core k).gfile = [] ∧
        (t.core k).vfile = []) ∧ (∀ e ∈ t.ports, e.2.st = .spare ∨ e.2.st = .down)) ∧
    (s.evictBusy = true →
      (s.now < p.evictAt → exec .evictionTimeout s = .next s) ∧
      (p.evictAt ≤ s.now → exec .evictionTimeout s = exec .evictionLinkFailure s) ∧
      ∃ t : State, exec .evictionLinkFailure s = .next t ∧ t.plat = { p with evict := .failed, neighbourSide := decide (p.evict = .routesDrained) } ∧
        t.cores = s.cores) ∧
    (s.evictBusy = false → m < 16 → (s.tenant m).movedFrom = some n → ∃ t : State, exec .evictionLinkFailure s = .next t ∧
      (t.tenant m).active = false ∧ t.plat.incoming = none) ∧
    (s.powered = true → (p.evict = .failed ∨ p.evict = .safe) → exec .clearEv s =
      .next (({ s with plat := { p with evict := .normal, latch := false, neighbourSide := false } } : State).reply 0)) ∧
    (s.powered = true → p.evict ≠ .failed → p.evict ≠ .safe → exec .clearEv s = .next (s.reply 2)) ∧
    (exec (.packageAbsentAcknowledge s.pkg) s = .next s) ∧
    (n ≠ s.pkg → ∃ t : State, exec (.packageAbsentAcknowledge n) s = .next t ∧ t.present = s.present.filter (· != n) ∧
      (s.stranded = [] → (∀ e ∈ s.ports, ∀ k ∈ e.2.queue, k.dst ≠ n) → t.cores = s.cores ∧ t.net = s.net)) ∧
    (n < 256 → ∃ t : State, exec (.positionBroughtUp n) s = .next t ∧ t.cores = s.cores ∧ ∀ m, m ∈ t.present ↔ m = n ∨ m ∈ s.present)
/-! ## The machine: the step, reset, and what every step keeps -/

/-- R38, R44, R61, R100, R372: a step takes the oldest input that the link lets through; with none and nothing due it performs the chosen
event; with no event the core whose turn it is issues: a single head that decodes runs its instruction, on the state in which the thread has
begun to issue (its next PC, the cycle and the core's order noted) and a gang leader has forwarded it, unless it fails a check of its own,
and the bundle then retires or waits, or, where it may not be issued yet, the thread is parked and nothing else has happened; a pair runs
both its halves; a follower runs what has come; a hart runs the custom instruction at its pc, or a base one; else the clock goes on. The
order input, due work, event, issue, clock is the model's own (log entries 2, 3 and 9), as are the harts' rotation, base set and memory (log
entries 26, 97 and 112). -/
def Obligations.StepRunsDecoded : Prop :=
  ∀ (s : State), let u : State := { s with sched := s.sched.drop 1 }
    (∀ k i, s.nextInput = some (k, i) → isInput i = true → step s = exec i { s with inbox := s.inbox.erase (k, i), subj := k }) ∧
    (s.nextInput = none → ∀ o, s.dueWork = some o → step s = o) ∧
    (s.nextInput = none → s.dueWork = none →
      (∀ k i, s.nextEvent = some (k, i) → step s = exec i { u with subj := k, since := s.since.filter fun x => x.1 != (k, i) }) ∧
      (s.nextEvent = none →
        (∀ t l, u.nextTurn = some (.thread t) → (s.thr t).line = some l →
          let k := t / 64
          let b := u.beginIssue t l
          let alone := if (s.thr t).grole = 1 then b.updThr t fun h => { h with gangLeft := [t] } else b
          let f := fun (ops : List Instr) => if b.failsAlone ops then alone else b.forward t ops
          let issued := fun (v : State) =>
            if v.isUnissued t then u.updThr t fun h => { h with st := .parked, wait := [.issue] }
            else if t % 64 = 63 then v else v.updCore k fun c => { c with lastThread := u.lastAfter k (some (t % 64)) }
          (b.cur = t ∧ (b.thr t).npc = BitVec.ofNat 64 (l.nextPc (s.thr t).pc.toNat) ∧ (b.thr t).pc = (s.thr t).pc ∧
            (b.thr t).lastIssue = some (s.cycOf k) ∧ (b.core k).issuedAt = some (s.cycOf k)) ∧
          (∀ h w i, bundleHeads l (s.thr t).pc.toNat = [(h, w)] → decodeHead h w = .ok i →
            step s = match exec i (f [i]) with
              | .next v => .next (issued (v.finishBundle t [] (b.issueNow k [i])))
              | o => o) ∧
          (∀ x y, b.checkBundle (bundleHeads l (s.thr t).pc.toNat) = .ok [x, y] →
            step s = .next (issued (((f [x, y]).runPair x y).finishBundle t [] (b.issueNow k [x, y]))))) ∧
        (∀ t, u.nextTurn = some (.follower t) → step s = exec .followerBundle { u with subj := t }) ∧
        (∀ k, u.nextTurn = none → u.nextHart = some k →
          let v : State := { u with fw := { s.fw with curHart := k, issuedAt := s.now + 2 } }
          (∀ i, decodeHart (s.fw.imem.nat (s.hart k).pc.toNat 4) = some i → step s = exec i v) ∧
          (decodeHart (s.fw.imem.nat (s.hart k).pc.toNat 4) = none → step s = .next (v.hartBase k))) ∧
        (u.nextTurn = none → u.nextHart = none → step s = .next u.tick)))

/-- R27: of a pair that both halves go on with, neither of which awaits an answer that may be a fault, the half that only reads goes first,
and the other reads every register as it stood when the bundle issued, whatever the first has written. -/
def Sys2Proof.Claim.PairReadsAtIssue : Prop :=
  ∀ (s : State) (a b : Instr), s.snap = none → s.began = none →
    let sa := s.after' (half a b s)
    let sb := s.after' (half b a s)
    bundleUnissued sa = false → bundleUnissued sb = false →
    halfFaults s sa a = false → halfFaults s sb b = false → bundleWalks sa = false → bundleWalks sb = false →
    bundleAgain sa = false → bundleAgain sb = false → bundleDeparts sa = false → bundleDeparts sb = false →
    isLate sa a = false → isLate sb b = false →
    (halfRank a = 1 → s.readsAb sb = false) → (halfRank b = 1 → s.readsAb sa = false) →
    let first := if halfRank a ≤ halfRank b then sa else sb
    let second : State := { first with snap := some (s.core s.ck), began := some (s.issueNow s.ck [a, b]), second := true }
    first.cur = s.cur →
    s.runPair a b = second.after' (if halfRank a ≤ halfRank b then half b a second else half a b second) ∧
      second.rd = s.rd ∧ (∀ g, second.rdG g = s.rdG g) ∧ second.me = s.me

/-- R8, R38, R138, R199: a pair of which either half may not be issued is not issued; a fault of the first half leaves what that half alone
leaves, so nothing of the second; and one of the second half alone leaves nothing of the first. -/
def Sys2Proof.Claim.PairFaultsWhole : Prop :=
  ∀ (s : State) (a b : Instr),
    let sa := s.after' (half a b s)
    let sb := s.after' (half b a s)
    (bundleUnissued sa = true ∨ bundleUnissued sb = true → s.runPair a b = s.unissued) ∧
    (bundleUnissued sa = false → bundleUnissued sb = false →
      (halfFaults s sa a = true → s.runPair a b = sa) ∧
      (halfFaults s sa a = false → bundleWalks sa = false → halfFaults s sb b = true → s.runPair a b = sb))

/-- R40: the bundle after head i of a line stands at the head after it, or after both heads of a pair, where the line has such a head, and
at the first head of the following line otherwise. -/
def Sys2Proof.Claim.NextBundle : Prop :=
  ∀ (l : Line) (pc : Nat), let i := pc % 64 / 2
    let j := if headP (l.unit i) then i + 2 else i + 1
    (j ≤ l.hc → l.nextPc pc = l.base + 2 * j) ∧ (l.hc < j → l.nextPc pc = l.base + 64 + 2)

/-- R63: a bundle that reads a general register is not eligible in a cycle congruent to 63 mod 64 of its core, nor one that reads a vector
register in one congruent to 31; a thread so held before any other of its core could issue is the first candidate of the next cycle,
whether another issues behind it or none does (the model's reading of "keeps its place", log entry 35). -/
def Obligations.RefreshHoldsIssue : Prop :=
  (∀ (s : State) (t : Nat) (l : Line) (i : Instr), (s.thr t).line = some l → i ∈ bundleOps (bundleHeads l (s.thr t).pc.toNat) →
    (s.cycOf (t / 64) % 64 = 63 → (∃ k, RegRef.g k ∈ sources i) → s.eligible t = false) ∧
    (s.cycOf (t / 64) % 64 = 31 → (∃ k, RegRef.v k ∈ sources i) → s.eligible t = false)) ∧
  (∀ (s : State) (ck n : Nat) (o : Option Nat), s.placeKept ck = some n → ∀ t : State, (t.core ck).lastThread = s.lastAfter ck o →
    (t.rotation ck).head? = some n) ∧
  (∀ (s : State) (ck : Nat), (s.die (ck / 512)).gated = false → s.hasIssued ck = false →
    ((s.endCycle ck).core ck).lastThread = s.lastAfter ck none) ∧
  (∀ (s : State) (ck : Nat), s.plat.power = .active →
    (s.tick.core ck).lastThread = (((s.stillPending.cores.map (·.1)).foldl endCycle s.stillPending).core ck).lastThread)

/-- R61: a thread is not eligible within seven cycles of its last issue, nor with a register of its bundle pending; threads 0 to 62 take
turns, the first eligible one after the last to issue; thread 63 issues in slot 0 alone, and there before them. -/
def Sys2Proof.Claim.IssueInTurn : Prop :=
  ∀ (s : State) (ck : Nat),
    (∀ t n, (s.thr t).lastIssue = some n → s.cycOf (t / 64) < n + 8 → s.eligible t = false) ∧
    (∀ t l, (s.thr t).line = some l → s.opsPending t (bundleOps (bundleHeads l (s.thr t).pc.toNat)) = true → s.eligible t = false) ∧
    (∀ t, s.turn ck = some (.thread t) → t / 64 = ck ∧ s.eligible t = true ∧ (t % 64 = 63 → s.cycOf ck % 8 = 0)) ∧
    (s.hasIssued ck = false → s.cycOf ck % 8 = 0 → s.eligible (ck * 64 + 63) = true → s.turn ck = some (.thread (ck * 64 + 63))) ∧
    (∀ t, s.turn ck = some (.thread t) → t % 64 ≠ 63 → ∀ n, n < 63 → s.eligible (ck * 64 + n) = true → n ≠ t % 64 →
      let place := fun (k : Nat) => (k + 63 - ((s.core ck).lastThread + 1) % 63) % 63
      place (t % 64) < place n) ∧
    (∀ n, s.placeKept ck = none → s.lastAfter ck (some n) = n ∧ s.lastAfter ck none = (s.core ck).lastThread)

/-- Claim.IssueInTurn, Claim.PairReadsAtIssue, Claim.PairFaultsWhole and Claim.NextBundle hold. The order of the halves' effects is the
model's (log entry 96). -/
def Obligations.IssueOrder : Prop := Claim.IssueInTurn ∧ Claim.PairReadsAtIssue ∧ Claim.PairFaultsWhole ∧ Claim.NextBundle

/-- R85: the windows of the threads of every core at reset; those of thread 63 and of the guest slots are fixed: CFGT of one of them changes no
window, so that entries from 144 of the scalar file and 8 of the vector file upward remain for the others. (That it faults is in
Obligations.SupervisorForms.) -/
def Obligations.WindowsAtReset : Prop :=
  (∀ k n : Nat, n < 64 → let h := State.reset.thr (k * 64 + n)
    (56 ≤ n → (h.gbase + h.wl) * 8 ≤ 144 ∧ (h.vbase + h.vl) * 4 ≤ 8) ∧
    (n = 63 → h.gbase = 0 ∧ h.wl = 4 ∧ h.vbase = 0 ∧ h.vl = 2) ∧
    (56 ≤ n → n < 63 → h.gbase = 4 + 2 * (n - 56) ∧ h.wl = 2 ∧ h.vl = 0) ∧
    (n < 56 → h.wl = 0 ∧ h.vl = 0)) ∧
  (∀ (s : State) (a b : GReg), Ready s (.cfgt a b) → s.rd.sv = true → (s.rdG a).toNat < 2 ^ 18 → 55 < (s.rdG a).toNat % 64 →
    ∃ t : State, exec (.cfgt a b) s = .next t ∧
      ∀ n : Nat, (t.thr n).gbase = (s.thr n).gbase ∧ (t.thr n).wl = (s.thr n).wl ∧ (t.thr n).vbase = (s.thr n).vbase ∧
        (t.thr n).vl = (s.thr n).vl)

/-- R61, R89, R301, R361, R385, R389: at reset the cycle counters read 0, no clock is gated, the functions' MBERR and APBASE read 0, FATAL and
READY are 0, security is OPEN, debug OFF, power ACTIVE, no tenant is active, and thread 0 is the first candidate to issue. Of these the
model chose those the spec gives no reset value for (log entry 6: security and the platform's own state), and the empty memories (DESIGN
CHOICE, log entry 4), in canonical form. -/
def Obligations.ResetState : Prop :=
  (∀ d, (State.reset.die d).cyc = 0 ∧ (State.reset.die d).gated = false) ∧
  (∀ f, (State.reset.fn f).mberr = 0 ∧ (State.reset.fn f).apbase = 0) ∧
  State.reset.fw.fatal = false ∧ State.reset.fw.ready = false ∧ State.reset.plat.security = .open ∧ State.reset.plat.debug = .off ∧
  State.reset.plat.power = .active ∧ (∀ n, (State.reset.tenant n).active = false) ∧ (∀ k, (State.reset.core k).lastThread = 62) ∧
  (∀ a, State.reset.dm.byte a = 0) ∧ State.reset.memOk = true

/-- Every step keeps every memory in its canonical form, so that equal memories are equal data: device memory, the buffers of the cores,
those saved with a pre-empted tenant, the tables of the I/O die and the firmware's instruction memory. -/
def Obligations.StepKeepsMemories : Prop := ∀ s t : State, s.memOk = true → step s = .next t → t.memOk = true

/-- R386, R393, R403: no step unblows a fuse or moves the package: a package that is not OPEN never becomes OPEN again, the fused minimum of
the firmware's version never falls, and the package keeps its place and its own bit of the presence map. -/
def Obligations.FusesAndPlaceStay : Prop :=
  ∀ s t : State, step s = .next t →
    (s.plat.security ≠ .open → t.plat.security ≠ .open) ∧ s.plat.minVersion ≤ t.plat.minVersion ∧ t.pkg = s.pkg ∧
    (s.pkg ∈ s.present → t.pkg ∈ t.present)

/-- R31 to R35, R52 to R59: the decoder reads every well-formed operation, with every operand at every value, back from its encoding. -/
def Obligations.DecodeEncode : Prop :=
  ∀ (i : Instr) (e : Enc), i.wf = true → encode i = some e → decodeOp e.opc e.sub e.tl e.tail = .ok i ∧
    decodeHead (headOf e.head) e.tail = .ok i

namespace Sys2Proof.Claim

/-- The head and the tail, as the spec's worked encodings give them, are read as the instruction. -/
def ReadsAs (head tail : Nat) (i : Instr) : Prop := decodeHead (headOf head) tail = .ok i

end Sys2Proof.Claim

/-- The encodings that the chapters work out (under R36, R52, R80, R105, R131, R144, R171, R188, R212, R232, R262, R274, R287, R325, R346 and
R373): each is read as the instruction that it stands for. -/
def Obligations.DecodeExamples : Prop :=
  ReadsAs 0xA103 0x06102800 (.add .i64 false 3 4 5) ∧ ReadsAs 0xC120 0x040800000800 (.addi 2 2 512) ∧
  ReadsAs 0x4421 0x0004 (.movToLc 0 1) ∧ ReadsAs 0xCE60 0x0003FFFFFFF0 (.loop 0 0xFFFFFFFC) ∧
  ReadsAs 0xC5C0 0x080C00000000 (.arrive ⟨.dm, .plain, false, false⟩ 4 3 0) ∧
  ReadsAs 0xC603 0x120C000200C0 (.ld .i64 ⟨.dm, .acq .pkg, false, false⟩ 9 3 64) ∧
  ReadsAs 0xC6A0 0x04200000003C (.spillG false 2 0 8 15) ∧
  ReadsAs 0xC700 0x0A0C30004001 (.amo .add true ⟨.dm, .plain, false, false⟩ 5 3 8 6) ∧ ReadsAs 0x0732 0 (.fence .pkg) ∧
  ReadsAs 0x9036 0x0208180A (.vfma (.flt .f16 .rdn) (some 2) (.v 1) (.v 2) (.v 3)) ∧
  ReadsAs 0x900C 0x08143080 (.vadd (.int .b8 false true) none (.v 4) (.v 5) (.v 6)) ∧
  ReadsAs 0x9481 0x040C0090 (.vcvt (.i32_f32 .rtz true) none (.v 2) (.v 3)) ∧
  ReadsAs 0xD600 0x282200900000 (.mmaStream 20 8 0 9) ∧ ReadsAs 0xD613 0x2A206091A000 (.mmasK8Ab 21 8 12 9 13) ∧
  ReadsAs 0xD732 0x122000000400 (.tread 2 true false 9 0 8) ∧ ReadsAs 0x9830 0x00200040 (.qacc true none 0 (.v 8)) ∧
  ReadsAs 0xC810 0x000828400000 (.gld .f32 (.v 0) 2 5 4) ∧ ReadsAs 0x4787 0x1C00 (.cpset .str3 14) ∧
  ReadsAs 0xC8A1 0x180C38000000 (.crecvSig 12 0 3 7) ∧ ReadsAs 0x4A00 0x0005 (.trap 5) ∧
  ReadsAs 0xCA20 0x12000000011C (.csrwFrrd 9) ∧ decodeHart 0x0005000B = some (.warm 10) ∧ decodeHart 0x0000158B = some (.wblk 11)
end

