-- ==== Sys2Proof/Laws/State.lean ====
section
/-! SUPPORT. What each update of the state leaves as it was, one equation for a field and an update, all by definition. -/

namespace Sys2Proof.Machine.State

open Sys2Proof

variable (s : State)

@[simp] theorem setCore_pkg (k : Nat) (c : Core) : (s.setCore k c).pkg = s.pkg := rfl
@[simp] theorem setCore_now (k : Nat) (c : Core) : (s.setCore k c).now = s.now := rfl
@[simp] theorem setCore_sched (k : Nat) (c : Core) : (s.setCore k c).sched = s.sched := rfl
@[simp] theorem setCore_inbox (k : Nat) (c : Core) : (s.setCore k c).inbox = s.inbox := rfl
@[simp] theorem setCore_nextId (k : Nat) (c : Core) : (s.setCore k c).nextId = s.nextId := rfl
@[simp] theorem setCore_freeCount (k : Nat) (c : Core) : (s.setCore k c).freeCount = s.freeCount := rfl
@[simp] theorem setCore_cur (k : Nat) (c : Core) : (s.setCore k c).cur = s.cur := rfl
@[simp] theorem setCore_subj (k : Nat) (c : Core) : (s.setCore k c).subj = s.subj := rfl
@[simp] theorem setCore_snap (k : Nat) (c : Core) : (s.setCore k c).snap = s.snap := rfl
@[simp] theorem setCore_began (k : Nat) (c : Core) : (s.setCore k c).began = s.began := rfl
@[simp] theorem setCore_second (k : Nat) (c : Core) : (s.setCore k c).second = s.second := rfl
@[simp] theorem setCore_since (k : Nat) (c : Core) : (s.setCore k c).since = s.since := rfl
@[simp] theorem setCore_dm (k : Nat) (c : Core) : (s.setCore k c).dm = s.dm := rfl
@[simp] theorem setCore_dies (k : Nat) (c : Core) : (s.setCore k c).dies = s.dies := rfl
@[simp] theorem setCore_issued (k : Nat) (c : Core) : (s.setCore k c).issued = s.issued := rfl
@[simp] theorem setCore_flight (k : Nat) (c : Core) : (s.setCore k c).flight = s.flight := rfl
@[simp] theorem setCore_ops (k : Nat) (c : Core) : (s.setCore k c).ops = s.ops := rfl
@[simp] theorem setCore_net (k : Nat) (c : Core) : (s.setCore k c).net = s.net := rfl
@[simp] theorem setCore_stranded (k : Nat) (c : Core) : (s.setCore k c).stranded = s.stranded := rfl
@[simp] theorem setCore_spoilt (k : Nat) (c : Core) : (s.setCore k c).spoilt = s.spoilt := rfl
@[simp] theorem setCore_heldStrips (k : Nat) (c : Core) : (s.setCore k c).heldStrips = s.heldStrips := rfl
@[simp] theorem setCore_replies (k : Nat) (c : Core) : (s.setCore k c).replies = s.replies := rfl
@[simp] theorem setCore_ingress (k : Nat) (c : Core) : (s.setCore k c).ingress = s.ingress := rfl
@[simp] theorem setCore_ingressSeq (k : Nat) (c : Core) : (s.setCore k c).ingressSeq = s.ingressSeq := rfl
@[simp] theorem setCore_ports (k : Nat) (c : Core) : (s.setCore k c).ports = s.ports := rfl
@[simp] theorem setCore_present (k : Nat) (c : Core) : (s.setCore k c).present = s.present := rfl
@[simp] theorem setCore_guests (k : Nat) (c : Core) : (s.setCore k c).guests = s.guests := rfl
@[simp] theorem setCore_tenants (k : Nat) (c : Core) : (s.setCore k c).tenants = s.tenants := rfl
@[simp] theorem setCore_fns (k : Nat) (c : Core) : (s.setCore k c).fns = s.fns := rfl
@[simp] theorem setCore_host (k : Nat) (c : Core) : (s.setCore k c).host = s.host := rfl
@[simp] theorem setCore_bar0Reads (k : Nat) (c : Core) : (s.setCore k c).bar0Reads = s.bar0Reads := rfl
@[simp] theorem setCore_ethBytes (k : Nat) (c : Core) : (s.setCore k c).ethBytes = s.ethBytes := rfl
@[simp] theorem setCore_qps (k : Nat) (c : Core) : (s.setCore k c).qps = s.qps := rfl
@[simp] theorem setCore_regions (k : Nat) (c : Core) : (s.setCore k c).regions = s.regions := rfl
@[simp] theorem setCore_tdesc (k : Nat) (c : Core) : (s.setCore k c).tdesc = s.tdesc := rfl
@[simp] theorem setCore_fw (k : Nat) (c : Core) : (s.setCore k c).fw = s.fw := rfl
@[simp] theorem setCore_plat (k : Nat) (c : Core) : (s.setCore k c).plat = s.plat := rfl
@[simp] theorem setCore_saved (k : Nat) (c : Core) : (s.setCore k c).saved = s.saved := rfl
@[simp] theorem setCore_out (k : Nat) (c : Core) : (s.setCore k c).out = s.out := rfl

@[simp] theorem updCore_pkg (k : Nat) (f : Core → Core) : (s.updCore k f).pkg = s.pkg := rfl
@[simp] theorem updCore_now (k : Nat) (f : Core → Core) : (s.updCore k f).now = s.now := rfl
@[simp] theorem updCore_sched (k : Nat) (f : Core → Core) : (s.updCore k f).sched = s.sched := rfl
@[simp] theorem updCore_inbox (k : Nat) (f : Core → Core) : (s.updCore k f).inbox = s.inbox := rfl
@[simp] theorem updCore_nextId (k : Nat) (f : Core → Core) : (s.updCore k f).nextId = s.nextId := rfl
@[simp] theorem updCore_freeCount (k : Nat) (f : Core → Core) : (s.updCore k f).freeCount = s.freeCount := rfl
@[simp] theorem updCore_cur (k : Nat) (f : Core → Core) : (s.updCore k f).cur = s.cur := rfl
@[simp] theorem updCore_subj (k : Nat) (f : Core → Core) : (s.updCore k f).subj = s.subj := rfl
@[simp] theorem updCore_snap (k : Nat) (f : Core → Core) : (s.updCore k f).snap = s.snap := rfl
@[simp] theorem updCore_began (k : Nat) (f : Core → Core) : (s.updCore k f).began = s.began := rfl
@[simp] theorem updCore_second (k : Nat) (f : Core → Core) : (s.updCore k f).second = s.second := rfl
@[simp] theorem updCore_since (k : Nat) (f : Core → Core) : (s.updCore k f).since = s.since := rfl
@[simp] theorem updCore_dm (k : Nat) (f : Core → Core) : (s.updCore k f).dm = s.dm := rfl
@[simp] theorem updCore_dies (k : Nat) (f : Core → Core) : (s.updCore k f).dies = s.dies := rfl
@[simp] theorem updCore_issued (k : Nat) (f : Core → Core) : (s.updCore k f).issued = s.issued := rfl
@[simp] theorem updCore_flight (k : Nat) (f : Core → Core) : (s.updCore k f).flight = s.flight := rfl
@[simp] theorem updCore_ops (k : Nat) (f : Core → Core) : (s.updCore k f).ops = s.ops := rfl
@[simp] theorem updCore_net (k : Nat) (f : Core → Core) : (s.updCore k f).net = s.net := rfl
@[simp] theorem updCore_stranded (k : Nat) (f : Core → Core) : (s.updCore k f).stranded = s.stranded := rfl
@[simp] theorem updCore_spoilt (k : Nat) (f : Core → Core) : (s.updCore k f).spoilt = s.spoilt := rfl
@[simp] theorem updCore_heldStrips (k : Nat) (f : Core → Core) : (s.updCore k f).heldStrips = s.heldStrips := rfl
@[simp] theorem updCore_replies (k : Nat) (f : Core → Core) : (s.updCore k f).replies = s.replies := rfl
@[simp] theorem updCore_ingress (k : Nat) (f : Core → Core) : (s.updCore k f).ingress = s.ingress := rfl
@[simp] theorem updCore_ingressSeq (k : Nat) (f : Core → Core) : (s.updCore k f).ingressSeq = s.ingressSeq := rfl
@[simp] theorem updCore_ports (k : Nat) (f : Core → Core) : (s.updCore k f).ports = s.ports := rfl
@[simp] theorem updCore_present (k : Nat) (f : Core → Core) : (s.updCore k f).present = s.present := rfl
@[simp] theorem updCore_guests (k : Nat) (f : Core → Core) : (s.updCore k f).guests = s.guests := rfl
@[simp] theorem updCore_tenants (k : Nat) (f : Core → Core) : (s.updCore k f).tenants = s.tenants := rfl
@[simp] theorem updCore_fns (k : Nat) (f : Core → Core) : (s.updCore k f).fns = s.fns := rfl
@[simp] theorem updCore_host (k : Nat) (f : Core → Core) : (s.updCore k f).host = s.host := rfl
@[simp] theorem updCore_bar0Reads (k : Nat) (f : Core → Core) : (s.updCore k f).bar0Reads = s.bar0Reads := rfl
@[simp] theorem updCore_ethBytes (k : Nat) (f : Core → Core) : (s.updCore k f).ethBytes = s.ethBytes := rfl
@[simp] theorem updCore_qps (k : Nat) (f : Core → Core) : (s.updCore k f).qps = s.qps := rfl
@[simp] theorem updCore_regions (k : Nat) (f : Core → Core) : (s.updCore k f).regions = s.regions := rfl
@[simp] theorem updCore_tdesc (k : Nat) (f : Core → Core) : (s.updCore k f).tdesc = s.tdesc := rfl
@[simp] theorem updCore_fw (k : Nat) (f : Core → Core) : (s.updCore k f).fw = s.fw := rfl
@[simp] theorem updCore_plat (k : Nat) (f : Core → Core) : (s.updCore k f).plat = s.plat := rfl
@[simp] theorem updCore_saved (k : Nat) (f : Core → Core) : (s.updCore k f).saved = s.saved := rfl
@[simp] theorem updCore_out (k : Nat) (f : Core → Core) : (s.updCore k f).out = s.out := rfl

@[simp] theorem setThr_pkg (t : Nat) (h : Thread) : (s.setThr t h).pkg = s.pkg := rfl
@[simp] theorem setThr_now (t : Nat) (h : Thread) : (s.setThr t h).now = s.now := rfl
@[simp] theorem setThr_sched (t : Nat) (h : Thread) : (s.setThr t h).sched = s.sched := rfl
@[simp] theorem setThr_inbox (t : Nat) (h : Thread) : (s.setThr t h).inbox = s.inbox := rfl
@[simp] theorem setThr_nextId (t : Nat) (h : Thread) : (s.setThr t h).nextId = s.nextId := rfl
@[simp] theorem setThr_freeCount (t : Nat) (h : Thread) : (s.setThr t h).freeCount = s.freeCount := rfl
@[simp] theorem setThr_cur (t : Nat) (h : Thread) : (s.setThr t h).cur = s.cur := rfl
@[simp] theorem setThr_subj (t : Nat) (h : Thread) : (s.setThr t h).subj = s.subj := rfl
@[simp] theorem setThr_snap (t : Nat) (h : Thread) : (s.setThr t h).snap = s.snap := rfl
@[simp] theorem setThr_began (t : Nat) (h : Thread) : (s.setThr t h).began = s.began := rfl
@[simp] theorem setThr_second (t : Nat) (h : Thread) : (s.setThr t h).second = s.second := rfl
@[simp] theorem setThr_since (t : Nat) (h : Thread) : (s.setThr t h).since = s.since := rfl
@[simp] theorem setThr_dm (t : Nat) (h : Thread) : (s.setThr t h).dm = s.dm := rfl
@[simp] theorem setThr_dies (t : Nat) (h : Thread) : (s.setThr t h).dies = s.dies := rfl
@[simp] theorem setThr_issued (t : Nat) (h : Thread) : (s.setThr t h).issued = s.issued := rfl
@[simp] theorem setThr_flight (t : Nat) (h : Thread) : (s.setThr t h).flight = s.flight := rfl
@[simp] theorem setThr_ops (t : Nat) (h : Thread) : (s.setThr t h).ops = s.ops := rfl
@[simp] theorem setThr_net (t : Nat) (h : Thread) : (s.setThr t h).net = s.net := rfl
@[simp] theorem setThr_stranded (t : Nat) (h : Thread) : (s.setThr t h).stranded = s.stranded := rfl
@[simp] theorem setThr_spoilt (t : Nat) (h : Thread) : (s.setThr t h).spoilt = s.spoilt := rfl
@[simp] theorem setThr_heldStrips (t : Nat) (h : Thread) : (s.setThr t h).heldStrips = s.heldStrips := rfl
@[simp] theorem setThr_replies (t : Nat) (h : Thread) : (s.setThr t h).replies = s.replies := rfl
@[simp] theorem setThr_ingress (t : Nat) (h : Thread) : (s.setThr t h).ingress = s.ingress := rfl
@[simp] theorem setThr_ingressSeq (t : Nat) (h : Thread) : (s.setThr t h).ingressSeq = s.ingressSeq := rfl
@[simp] theorem setThr_ports (t : Nat) (h : Thread) : (s.setThr t h).ports = s.ports := rfl
@[simp] theorem setThr_present (t : Nat) (h : Thread) : (s.setThr t h).present = s.present := rfl
@[simp] theorem setThr_guests (t : Nat) (h : Thread) : (s.setThr t h).guests = s.guests := rfl
@[simp] theorem setThr_tenants (t : Nat) (h : Thread) : (s.setThr t h).tenants = s.tenants := rfl
@[simp] theorem setThr_fns (t : Nat) (h : Thread) : (s.setThr t h).fns = s.fns := rfl
@[simp] theorem setThr_host (t : Nat) (h : Thread) : (s.setThr t h).host = s.host := rfl
@[simp] theorem setThr_bar0Reads (t : Nat) (h : Thread) : (s.setThr t h).bar0Reads = s.bar0Reads := rfl
@[simp] theorem setThr_ethBytes (t : Nat) (h : Thread) : (s.setThr t h).ethBytes = s.ethBytes := rfl
@[simp] theorem setThr_qps (t : Nat) (h : Thread) : (s.setThr t h).qps = s.qps := rfl
@[simp] theorem setThr_regions (t : Nat) (h : Thread) : (s.setThr t h).regions = s.regions := rfl
@[simp] theorem setThr_tdesc (t : Nat) (h : Thread) : (s.setThr t h).tdesc = s.tdesc := rfl
@[simp] theorem setThr_fw (t : Nat) (h : Thread) : (s.setThr t h).fw = s.fw := rfl
@[simp] theorem setThr_plat (t : Nat) (h : Thread) : (s.setThr t h).plat = s.plat := rfl
@[simp] theorem setThr_saved (t : Nat) (h : Thread) : (s.setThr t h).saved = s.saved := rfl
@[simp] theorem setThr_out (t : Nat) (h : Thread) : (s.setThr t h).out = s.out := rfl

@[simp] theorem updThr_pkg (t : Nat) (f : Thread → Thread) : (s.updThr t f).pkg = s.pkg := rfl
@[simp] theorem updThr_now (t : Nat) (f : Thread → Thread) : (s.updThr t f).now = s.now := rfl
@[simp] theorem updThr_sched (t : Nat) (f : Thread → Thread) : (s.updThr t f).sched = s.sched := rfl
@[simp] theorem updThr_inbox (t : Nat) (f : Thread → Thread) : (s.updThr t f).inbox = s.inbox := rfl
@[simp] theorem updThr_nextId (t : Nat) (f : Thread → Thread) : (s.updThr t f).nextId = s.nextId := rfl
@[simp] theorem updThr_freeCount (t : Nat) (f : Thread → Thread) : (s.updThr t f).freeCount = s.freeCount := rfl
@[simp] theorem updThr_cur (t : Nat) (f : Thread → Thread) : (s.updThr t f).cur = s.cur := rfl
@[simp] theorem updThr_subj (t : Nat) (f : Thread → Thread) : (s.updThr t f).subj = s.subj := rfl
@[simp] theorem updThr_snap (t : Nat) (f : Thread → Thread) : (s.updThr t f).snap = s.snap := rfl
@[simp] theorem updThr_began (t : Nat) (f : Thread → Thread) : (s.updThr t f).began = s.began := rfl
@[simp] theorem updThr_second (t : Nat) (f : Thread → Thread) : (s.updThr t f).second = s.second := rfl
@[simp] theorem updThr_since (t : Nat) (f : Thread → Thread) : (s.updThr t f).since = s.since := rfl
@[simp] theorem updThr_dm (t : Nat) (f : Thread → Thread) : (s.updThr t f).dm = s.dm := rfl
@[simp] theorem updThr_dies (t : Nat) (f : Thread → Thread) : (s.updThr t f).dies = s.dies := rfl
@[simp] theorem updThr_issued (t : Nat) (f : Thread → Thread) : (s.updThr t f).issued = s.issued := rfl
@[simp] theorem updThr_flight (t : Nat) (f : Thread → Thread) : (s.updThr t f).flight = s.flight := rfl
@[simp] theorem updThr_ops (t : Nat) (f : Thread → Thread) : (s.updThr t f).ops = s.ops := rfl
@[simp] theorem updThr_net (t : Nat) (f : Thread → Thread) : (s.updThr t f).net = s.net := rfl
@[simp] theorem updThr_stranded (t : Nat) (f : Thread → Thread) : (s.updThr t f).stranded = s.stranded := rfl
@[simp] theorem updThr_spoilt (t : Nat) (f : Thread → Thread) : (s.updThr t f).spoilt = s.spoilt := rfl
@[simp] theorem updThr_heldStrips (t : Nat) (f : Thread → Thread) : (s.updThr t f).heldStrips = s.heldStrips := rfl
@[simp] theorem updThr_replies (t : Nat) (f : Thread → Thread) : (s.updThr t f).replies = s.replies := rfl
@[simp] theorem updThr_ingress (t : Nat) (f : Thread → Thread) : (s.updThr t f).ingress = s.ingress := rfl
@[simp] theorem updThr_ingressSeq (t : Nat) (f : Thread → Thread) : (s.updThr t f).ingressSeq = s.ingressSeq := rfl
@[simp] theorem updThr_ports (t : Nat) (f : Thread → Thread) : (s.updThr t f).ports = s.ports := rfl
@[simp] theorem updThr_present (t : Nat) (f : Thread → Thread) : (s.updThr t f).present = s.present := rfl
@[simp] theorem updThr_guests (t : Nat) (f : Thread → Thread) : (s.updThr t f).guests = s.guests := rfl
@[simp] theorem updThr_tenants (t : Nat) (f : Thread → Thread) : (s.updThr t f).tenants = s.tenants := rfl
@[simp] theorem updThr_fns (t : Nat) (f : Thread → Thread) : (s.updThr t f).fns = s.fns := rfl
@[simp] theorem updThr_host (t : Nat) (f : Thread → Thread) : (s.updThr t f).host = s.host := rfl
@[simp] theorem updThr_bar0Reads (t : Nat) (f : Thread → Thread) : (s.updThr t f).bar0Reads = s.bar0Reads := rfl
@[simp] theorem updThr_ethBytes (t : Nat) (f : Thread → Thread) : (s.updThr t f).ethBytes = s.ethBytes := rfl
@[simp] theorem updThr_qps (t : Nat) (f : Thread → Thread) : (s.updThr t f).qps = s.qps := rfl
@[simp] theorem updThr_regions (t : Nat) (f : Thread → Thread) : (s.updThr t f).regions = s.regions := rfl
@[simp] theorem updThr_tdesc (t : Nat) (f : Thread → Thread) : (s.updThr t f).tdesc = s.tdesc := rfl
@[simp] theorem updThr_fw (t : Nat) (f : Thread → Thread) : (s.updThr t f).fw = s.fw := rfl
@[simp] theorem updThr_plat (t : Nat) (f : Thread → Thread) : (s.updThr t f).plat = s.plat := rfl
@[simp] theorem updThr_saved (t : Nat) (f : Thread → Thread) : (s.updThr t f).saved = s.saved := rfl
@[simp] theorem updThr_out (t : Nat) (f : Thread → Thread) : (s.updThr t f).out = s.out := rfl

@[simp] theorem updDie_pkg (d : Nat) (f : Die → Die) : (s.updDie d f).pkg = s.pkg := rfl
@[simp] theorem updDie_now (d : Nat) (f : Die → Die) : (s.updDie d f).now = s.now := rfl
@[simp] theorem updDie_sched (d : Nat) (f : Die → Die) : (s.updDie d f).sched = s.sched := rfl
@[simp] theorem updDie_inbox (d : Nat) (f : Die → Die) : (s.updDie d f).inbox = s.inbox := rfl
@[simp] theorem updDie_nextId (d : Nat) (f : Die → Die) : (s.updDie d f).nextId = s.nextId := rfl
@[simp] theorem updDie_freeCount (d : Nat) (f : Die → Die) : (s.updDie d f).freeCount = s.freeCount := rfl
@[simp] theorem updDie_cur (d : Nat) (f : Die → Die) : (s.updDie d f).cur = s.cur := rfl
@[simp] theorem updDie_subj (d : Nat) (f : Die → Die) : (s.updDie d f).subj = s.subj := rfl
@[simp] theorem updDie_snap (d : Nat) (f : Die → Die) : (s.updDie d f).snap = s.snap := rfl
@[simp] theorem updDie_began (d : Nat) (f : Die → Die) : (s.updDie d f).began = s.began := rfl
@[simp] theorem updDie_second (d : Nat) (f : Die → Die) : (s.updDie d f).second = s.second := rfl
@[simp] theorem updDie_since (d : Nat) (f : Die → Die) : (s.updDie d f).since = s.since := rfl
@[simp] theorem updDie_dm (d : Nat) (f : Die → Die) : (s.updDie d f).dm = s.dm := rfl
@[simp] theorem updDie_cores (d : Nat) (f : Die → Die) : (s.updDie d f).cores = s.cores := rfl
@[simp] theorem updDie_issued (d : Nat) (f : Die → Die) : (s.updDie d f).issued = s.issued := rfl
@[simp] theorem updDie_flight (d : Nat) (f : Die → Die) : (s.updDie d f).flight = s.flight := rfl
@[simp] theorem updDie_ops (d : Nat) (f : Die → Die) : (s.updDie d f).ops = s.ops := rfl
@[simp] theorem updDie_net (d : Nat) (f : Die → Die) : (s.updDie d f).net = s.net := rfl
@[simp] theorem updDie_stranded (d : Nat) (f : Die → Die) : (s.updDie d f).stranded = s.stranded := rfl
@[simp] theorem updDie_spoilt (d : Nat) (f : Die → Die) : (s.updDie d f).spoilt = s.spoilt := rfl
@[simp] theorem updDie_heldStrips (d : Nat) (f : Die → Die) : (s.updDie d f).heldStrips = s.heldStrips := rfl
@[simp] theorem updDie_replies (d : Nat) (f : Die → Die) : (s.updDie d f).replies = s.replies := rfl
@[simp] theorem updDie_ingress (d : Nat) (f : Die → Die) : (s.updDie d f).ingress = s.ingress := rfl
@[simp] theorem updDie_ingressSeq (d : Nat) (f : Die → Die) : (s.updDie d f).ingressSeq = s.ingressSeq := rfl
@[simp] theorem updDie_ports (d : Nat) (f : Die → Die) : (s.updDie d f).ports = s.ports := rfl
@[simp] theorem updDie_present (d : Nat) (f : Die → Die) : (s.updDie d f).present = s.present := rfl
@[simp] theorem updDie_guests (d : Nat) (f : Die → Die) : (s.updDie d f).guests = s.guests := rfl
@[simp] theorem updDie_tenants (d : Nat) (f : Die → Die) : (s.updDie d f).tenants = s.tenants := rfl
@[simp] theorem updDie_fns (d : Nat) (f : Die → Die) : (s.updDie d f).fns = s.fns := rfl
@[simp] theorem updDie_host (d : Nat) (f : Die → Die) : (s.updDie d f).host = s.host := rfl
@[simp] theorem updDie_bar0Reads (d : Nat) (f : Die → Die) : (s.updDie d f).bar0Reads = s.bar0Reads := rfl
@[simp] theorem updDie_ethBytes (d : Nat) (f : Die → Die) : (s.updDie d f).ethBytes = s.ethBytes := rfl
@[simp] theorem updDie_qps (d : Nat) (f : Die → Die) : (s.updDie d f).qps = s.qps := rfl
@[simp] theorem updDie_regions (d : Nat) (f : Die → Die) : (s.updDie d f).regions = s.regions := rfl
@[simp] theorem updDie_tdesc (d : Nat) (f : Die → Die) : (s.updDie d f).tdesc = s.tdesc := rfl
@[simp] theorem updDie_fw (d : Nat) (f : Die → Die) : (s.updDie d f).fw = s.fw := rfl
@[simp] theorem updDie_plat (d : Nat) (f : Die → Die) : (s.updDie d f).plat = s.plat := rfl
@[simp] theorem updDie_saved (d : Nat) (f : Die → Die) : (s.updDie d f).saved = s.saved := rfl
@[simp] theorem updDie_out (d : Nat) (f : Die → Die) : (s.updDie d f).out = s.out := rfl

@[simp] theorem updTenant_pkg (n : Nat) (f : Tenant → Tenant) : (s.updTenant n f).pkg = s.pkg := rfl
@[simp] theorem updTenant_now (n : Nat) (f : Tenant → Tenant) : (s.updTenant n f).now = s.now := rfl
@[simp] theorem updTenant_sched (n : Nat) (f : Tenant → Tenant) : (s.updTenant n f).sched = s.sched := rfl
@[simp] theorem updTenant_inbox (n : Nat) (f : Tenant → Tenant) : (s.updTenant n f).inbox = s.inbox := rfl
@[simp] theorem updTenant_nextId (n : Nat) (f : Tenant → Tenant) : (s.updTenant n f).nextId = s.nextId := rfl
@[simp] theorem updTenant_freeCount (n : Nat) (f : Tenant → Tenant) : (s.updTenant n f).freeCount = s.freeCount := rfl
@[simp] theorem updTenant_cur (n : Nat) (f : Tenant → Tenant) : (s.updTenant n f).cur = s.cur := rfl
@[simp] theorem updTenant_subj (n : Nat) (f : Tenant → Tenant) : (s.updTenant n f).subj = s.subj := rfl
@[simp] theorem updTenant_snap (n : Nat) (f : Tenant → Tenant) : (s.updTenant n f).snap = s.snap := rfl
@[simp] theorem updTenant_began (n : Nat) (f : Tenant → Tenant) : (s.updTenant n f).began = s.began := rfl
@[simp] theorem updTenant_second (n : Nat) (f : Tenant → Tenant) : (s.updTenant n f).second = s.second := rfl
@[simp] theorem updTenant_since (n : Nat) (f : Tenant → Tenant) : (s.updTenant n f).since = s.since := rfl
@[simp] theorem updTenant_dm (n : Nat) (f : Tenant → Tenant) : (s.updTenant n f).dm = s.dm := rfl
@[simp] theorem updTenant_dies (n : Nat) (f : Tenant → Tenant) : (s.updTenant n f).dies = s.dies := rfl
@[simp] theorem updTenant_cores (n : Nat) (f : Tenant → Tenant) : (s.updTenant n f).cores = s.cores := rfl
@[simp] theorem updTenant_issued (n : Nat) (f : Tenant → Tenant) : (s.updTenant n f).issued = s.issued := rfl
@[simp] theorem updTenant_flight (n : Nat) (f : Tenant → Tenant) : (s.updTenant n f).flight = s.flight := rfl
@[simp] theorem updTenant_ops (n : Nat) (f : Tenant → Tenant) : (s.updTenant n f).ops = s.ops := rfl
@[simp] theorem updTenant_net (n : Nat) (f : Tenant → Tenant) : (s.updTenant n f).net = s.net := rfl
@[simp] theorem updTenant_stranded (n : Nat) (f : Tenant → Tenant) : (s.updTenant n f).stranded = s.stranded := rfl
@[simp] theorem updTenant_spoilt (n : Nat) (f : Tenant → Tenant) : (s.updTenant n f).spoilt = s.spoilt := rfl
@[simp] theorem updTenant_heldStrips (n : Nat) (f : Tenant → Tenant) : (s.updTenant n f).heldStrips = s.heldStrips := rfl
@[simp] theorem updTenant_replies (n : Nat) (f : Tenant → Tenant) : (s.updTenant n f).replies = s.replies := rfl
@[simp] theorem updTenant_ingress (n : Nat) (f : Tenant → Tenant) : (s.updTenant n f).ingress = s.ingress := rfl
@[simp] theorem updTenant_ingressSeq (n : Nat) (f : Tenant → Tenant) : (s.updTenant n f).ingressSeq = s.ingressSeq := rfl
@[simp] theorem updTenant_ports (n : Nat) (f : Tenant → Tenant) : (s.updTenant n f).ports = s.ports := rfl
@[simp] theorem updTenant_present (n : Nat) (f : Tenant → Tenant) : (s.updTenant n f).present = s.present := rfl
@[simp] theorem updTenant_guests (n : Nat) (f : Tenant → Tenant) : (s.updTenant n f).guests = s.guests := rfl
@[simp] theorem updTenant_fns (n : Nat) (f : Tenant → Tenant) : (s.updTenant n f).fns = s.fns := rfl
@[simp] theorem updTenant_host (n : Nat) (f : Tenant → Tenant) : (s.updTenant n f).host = s.host := rfl
@[simp] theorem updTenant_bar0Reads (n : Nat) (f : Tenant → Tenant) : (s.updTenant n f).bar0Reads = s.bar0Reads := rfl
@[simp] theorem updTenant_ethBytes (n : Nat) (f : Tenant → Tenant) : (s.updTenant n f).ethBytes = s.ethBytes := rfl
@[simp] theorem updTenant_qps (n : Nat) (f : Tenant → Tenant) : (s.updTenant n f).qps = s.qps := rfl
@[simp] theorem updTenant_regions (n : Nat) (f : Tenant → Tenant) : (s.updTenant n f).regions = s.regions := rfl
@[simp] theorem updTenant_tdesc (n : Nat) (f : Tenant → Tenant) : (s.updTenant n f).tdesc = s.tdesc := rfl
@[simp] theorem updTenant_fw (n : Nat) (f : Tenant → Tenant) : (s.updTenant n f).fw = s.fw := rfl
@[simp] theorem updTenant_plat (n : Nat) (f : Tenant → Tenant) : (s.updTenant n f).plat = s.plat := rfl
@[simp] theorem updTenant_saved (n : Nat) (f : Tenant → Tenant) : (s.updTenant n f).saved = s.saved := rfl
@[simp] theorem updTenant_out (n : Nat) (f : Tenant → Tenant) : (s.updTenant n f).out = s.out := rfl

@[simp] theorem updPort_pkg (n : Nat) (f : Port → Port) : (s.updPort n f).pkg = s.pkg := rfl
@[simp] theorem updPort_now (n : Nat) (f : Port → Port) : (s.updPort n f).now = s.now := rfl
@[simp] theorem updPort_sched (n : Nat) (f : Port → Port) : (s.updPort n f).sched = s.sched := rfl
@[simp] theorem updPort_inbox (n : Nat) (f : Port → Port) : (s.updPort n f).inbox = s.inbox := rfl
@[simp] theorem updPort_nextId (n : Nat) (f : Port → Port) : (s.updPort n f).nextId = s.nextId := rfl
@[simp] theorem updPort_freeCount (n : Nat) (f : Port → Port) : (s.updPort n f).freeCount = s.freeCount := rfl
@[simp] theorem updPort_cur (n : Nat) (f : Port → Port) : (s.updPort n f).cur = s.cur := rfl
@[simp] theorem updPort_subj (n : Nat) (f : Port → Port) : (s.updPort n f).subj = s.subj := rfl
@[simp] theorem updPort_snap (n : Nat) (f : Port → Port) : (s.updPort n f).snap = s.snap := rfl
@[simp] theorem updPort_began (n : Nat) (f : Port → Port) : (s.updPort n f).began = s.began := rfl
@[simp] theorem updPort_second (n : Nat) (f : Port → Port) : (s.updPort n f).second = s.second := rfl
@[simp] theorem updPort_since (n : Nat) (f : Port → Port) : (s.updPort n f).since = s.since := rfl
@[simp] theorem updPort_dm (n : Nat) (f : Port → Port) : (s.updPort n f).dm = s.dm := rfl
@[simp] theorem updPort_dies (n : Nat) (f : Port → Port) : (s.updPort n f).dies = s.dies := rfl
@[simp] theorem updPort_cores (n : Nat) (f : Port → Port) : (s.updPort n f).cores = s.cores := rfl
@[simp] theorem updPort_issued (n : Nat) (f : Port → Port) : (s.updPort n f).issued = s.issued := rfl
@[simp] theorem updPort_flight (n : Nat) (f : Port → Port) : (s.updPort n f).flight = s.flight := rfl
@[simp] theorem updPort_ops (n : Nat) (f : Port → Port) : (s.updPort n f).ops = s.ops := rfl
@[simp] theorem updPort_net (n : Nat) (f : Port → Port) : (s.updPort n f).net = s.net := rfl
@[simp] theorem updPort_stranded (n : Nat) (f : Port → Port) : (s.updPort n f).stranded = s.stranded := rfl
@[simp] theorem updPort_spoilt (n : Nat) (f : Port → Port) : (s.updPort n f).spoilt = s.spoilt := rfl
@[simp] theorem updPort_heldStrips (n : Nat) (f : Port → Port) : (s.updPort n f).heldStrips = s.heldStrips := rfl
@[simp] theorem updPort_replies (n : Nat) (f : Port → Port) : (s.updPort n f).replies = s.replies := rfl
@[simp] theorem updPort_ingress (n : Nat) (f : Port → Port) : (s.updPort n f).ingress = s.ingress := rfl
@[simp] theorem updPort_ingressSeq (n : Nat) (f : Port → Port) : (s.updPort n f).ingressSeq = s.ingressSeq := rfl
@[simp] theorem updPort_present (n : Nat) (f : Port → Port) : (s.updPort n f).present = s.present := rfl
@[simp] theorem updPort_guests (n : Nat) (f : Port → Port) : (s.updPort n f).guests = s.guests := rfl
@[simp] theorem updPort_tenants (n : Nat) (f : Port → Port) : (s.updPort n f).tenants = s.tenants := rfl
@[simp] theorem updPort_fns (n : Nat) (f : Port → Port) : (s.updPort n f).fns = s.fns := rfl
@[simp] theorem updPort_host (n : Nat) (f : Port → Port) : (s.updPort n f).host = s.host := rfl
@[simp] theorem updPort_bar0Reads (n : Nat) (f : Port → Port) : (s.updPort n f).bar0Reads = s.bar0Reads := rfl
@[simp] theorem updPort_ethBytes (n : Nat) (f : Port → Port) : (s.updPort n f).ethBytes = s.ethBytes := rfl
@[simp] theorem updPort_qps (n : Nat) (f : Port → Port) : (s.updPort n f).qps = s.qps := rfl
@[simp] theorem updPort_regions (n : Nat) (f : Port → Port) : (s.updPort n f).regions = s.regions := rfl
@[simp] theorem updPort_tdesc (n : Nat) (f : Port → Port) : (s.updPort n f).tdesc = s.tdesc := rfl
@[simp] theorem updPort_fw (n : Nat) (f : Port → Port) : (s.updPort n f).fw = s.fw := rfl
@[simp] theorem updPort_plat (n : Nat) (f : Port → Port) : (s.updPort n f).plat = s.plat := rfl
@[simp] theorem updPort_saved (n : Nat) (f : Port → Port) : (s.updPort n f).saved = s.saved := rfl
@[simp] theorem updPort_out (n : Nat) (f : Port → Port) : (s.updPort n f).out = s.out := rfl

@[simp] theorem updFn_pkg (n : Nat) (f : Fn → Fn) : (s.updFn n f).pkg = s.pkg := rfl
@[simp] theorem updFn_now (n : Nat) (f : Fn → Fn) : (s.updFn n f).now = s.now := rfl
@[simp] theorem updFn_sched (n : Nat) (f : Fn → Fn) : (s.updFn n f).sched = s.sched := rfl
@[simp] theorem updFn_inbox (n : Nat) (f : Fn → Fn) : (s.updFn n f).inbox = s.inbox := rfl
@[simp] theorem updFn_nextId (n : Nat) (f : Fn → Fn) : (s.updFn n f).nextId = s.nextId := rfl
@[simp] theorem updFn_freeCount (n : Nat) (f : Fn → Fn) : (s.updFn n f).freeCount = s.freeCount := rfl
@[simp] theorem updFn_cur (n : Nat) (f : Fn → Fn) : (s.updFn n f).cur = s.cur := rfl
@[simp] theorem updFn_subj (n : Nat) (f : Fn → Fn) : (s.updFn n f).subj = s.subj := rfl
@[simp] theorem updFn_snap (n : Nat) (f : Fn → Fn) : (s.updFn n f).snap = s.snap := rfl
@[simp] theorem updFn_began (n : Nat) (f : Fn → Fn) : (s.updFn n f).began = s.began := rfl
@[simp] theorem updFn_second (n : Nat) (f : Fn → Fn) : (s.updFn n f).second = s.second := rfl
@[simp] theorem updFn_since (n : Nat) (f : Fn → Fn) : (s.updFn n f).since = s.since := rfl
@[simp] theorem updFn_dm (n : Nat) (f : Fn → Fn) : (s.updFn n f).dm = s.dm := rfl
@[simp] theorem updFn_dies (n : Nat) (f : Fn → Fn) : (s.updFn n f).dies = s.dies := rfl
@[simp] theorem updFn_cores (n : Nat) (f : Fn → Fn) : (s.updFn n f).cores = s.cores := rfl
@[simp] theorem updFn_issued (n : Nat) (f : Fn → Fn) : (s.updFn n f).issued = s.issued := rfl
@[simp] theorem updFn_flight (n : Nat) (f : Fn → Fn) : (s.updFn n f).flight = s.flight := rfl
@[simp] theorem updFn_ops (n : Nat) (f : Fn → Fn) : (s.updFn n f).ops = s.ops := rfl
@[simp] theorem updFn_net (n : Nat) (f : Fn → Fn) : (s.updFn n f).net = s.net := rfl
@[simp] theorem updFn_stranded (n : Nat) (f : Fn → Fn) : (s.updFn n f).stranded = s.stranded := rfl
@[simp] theorem updFn_spoilt (n : Nat) (f : Fn → Fn) : (s.updFn n f).spoilt = s.spoilt := rfl
@[simp] theorem updFn_heldStrips (n : Nat) (f : Fn → Fn) : (s.updFn n f).heldStrips = s.heldStrips := rfl
@[simp] theorem updFn_replies (n : Nat) (f : Fn → Fn) : (s.updFn n f).replies = s.replies := rfl
@[simp] theorem updFn_ingress (n : Nat) (f : Fn → Fn) : (s.updFn n f).ingress = s.ingress := rfl
@[simp] theorem updFn_ingressSeq (n : Nat) (f : Fn → Fn) : (s.updFn n f).ingressSeq = s.ingressSeq := rfl
@[simp] theorem updFn_ports (n : Nat) (f : Fn → Fn) : (s.updFn n f).ports = s.ports := rfl
@[simp] theorem updFn_present (n : Nat) (f : Fn → Fn) : (s.updFn n f).present = s.present := rfl
@[simp] theorem updFn_guests (n : Nat) (f : Fn → Fn) : (s.updFn n f).guests = s.guests := rfl
@[simp] theorem updFn_tenants (n : Nat) (f : Fn → Fn) : (s.updFn n f).tenants = s.tenants := rfl
@[simp] theorem updFn_host (n : Nat) (f : Fn → Fn) : (s.updFn n f).host = s.host := rfl
@[simp] theorem updFn_bar0Reads (n : Nat) (f : Fn → Fn) : (s.updFn n f).bar0Reads = s.bar0Reads := rfl
@[simp] theorem updFn_ethBytes (n : Nat) (f : Fn → Fn) : (s.updFn n f).ethBytes = s.ethBytes := rfl
@[simp] theorem updFn_qps (n : Nat) (f : Fn → Fn) : (s.updFn n f).qps = s.qps := rfl
@[simp] theorem updFn_regions (n : Nat) (f : Fn → Fn) : (s.updFn n f).regions = s.regions := rfl
@[simp] theorem updFn_tdesc (n : Nat) (f : Fn → Fn) : (s.updFn n f).tdesc = s.tdesc := rfl
@[simp] theorem updFn_fw (n : Nat) (f : Fn → Fn) : (s.updFn n f).fw = s.fw := rfl
@[simp] theorem updFn_plat (n : Nat) (f : Fn → Fn) : (s.updFn n f).plat = s.plat := rfl
@[simp] theorem updFn_saved (n : Nat) (f : Fn → Fn) : (s.updFn n f).saved = s.saved := rfl
@[simp] theorem updFn_out (n : Nat) (f : Fn → Fn) : (s.updFn n f).out = s.out := rfl

@[simp] theorem updHart_pkg (n : Nat) (f : Hart → Hart) : (s.updHart n f).pkg = s.pkg := rfl
@[simp] theorem updHart_now (n : Nat) (f : Hart → Hart) : (s.updHart n f).now = s.now := rfl
@[simp] theorem updHart_sched (n : Nat) (f : Hart → Hart) : (s.updHart n f).sched = s.sched := rfl
@[simp] theorem updHart_inbox (n : Nat) (f : Hart → Hart) : (s.updHart n f).inbox = s.inbox := rfl
@[simp] theorem updHart_nextId (n : Nat) (f : Hart → Hart) : (s.updHart n f).nextId = s.nextId := rfl
@[simp] theorem updHart_freeCount (n : Nat) (f : Hart → Hart) : (s.updHart n f).freeCount = s.freeCount := rfl
@[simp] theorem updHart_cur (n : Nat) (f : Hart → Hart) : (s.updHart n f).cur = s.cur := rfl
@[simp] theorem updHart_subj (n : Nat) (f : Hart → Hart) : (s.updHart n f).subj = s.subj := rfl
@[simp] theorem updHart_snap (n : Nat) (f : Hart → Hart) : (s.updHart n f).snap = s.snap := rfl
@[simp] theorem updHart_began (n : Nat) (f : Hart → Hart) : (s.updHart n f).began = s.began := rfl
@[simp] theorem updHart_second (n : Nat) (f : Hart → Hart) : (s.updHart n f).second = s.second := rfl
@[simp] theorem updHart_since (n : Nat) (f : Hart → Hart) : (s.updHart n f).since = s.since := rfl
@[simp] theorem updHart_dm (n : Nat) (f : Hart → Hart) : (s.updHart n f).dm = s.dm := rfl
@[simp] theorem updHart_dies (n : Nat) (f : Hart → Hart) : (s.updHart n f).dies = s.dies := rfl
@[simp] theorem updHart_cores (n : Nat) (f : Hart → Hart) : (s.updHart n f).cores = s.cores := rfl
@[simp] theorem updHart_issued (n : Nat) (f : Hart → Hart) : (s.updHart n f).issued = s.issued := rfl
@[simp] theorem updHart_flight (n : Nat) (f : Hart → Hart) : (s.updHart n f).flight = s.flight := rfl
@[simp] theorem updHart_ops (n : Nat) (f : Hart → Hart) : (s.updHart n f).ops = s.ops := rfl
@[simp] theorem updHart_net (n : Nat) (f : Hart → Hart) : (s.updHart n f).net = s.net := rfl
@[simp] theorem updHart_stranded (n : Nat) (f : Hart → Hart) : (s.updHart n f).stranded = s.stranded := rfl
@[simp] theorem updHart_spoilt (n : Nat) (f : Hart → Hart) : (s.updHart n f).spoilt = s.spoilt := rfl
@[simp] theorem updHart_heldStrips (n : Nat) (f : Hart → Hart) : (s.updHart n f).heldStrips = s.heldStrips := rfl
@[simp] theorem updHart_replies (n : Nat) (f : Hart → Hart) : (s.updHart n f).replies = s.replies := rfl
@[simp] theorem updHart_ingress (n : Nat) (f : Hart → Hart) : (s.updHart n f).ingress = s.ingress := rfl
@[simp] theorem updHart_ingressSeq (n : Nat) (f : Hart → Hart) : (s.updHart n f).ingressSeq = s.ingressSeq := rfl
@[simp] theorem updHart_ports (n : Nat) (f : Hart → Hart) : (s.updHart n f).ports = s.ports := rfl
@[simp] theorem updHart_present (n : Nat) (f : Hart → Hart) : (s.updHart n f).present = s.present := rfl
@[simp] theorem updHart_guests (n : Nat) (f : Hart → Hart) : (s.updHart n f).guests = s.guests := rfl
@[simp] theorem updHart_tenants (n : Nat) (f : Hart → Hart) : (s.updHart n f).tenants = s.tenants := rfl
@[simp] theorem updHart_fns (n : Nat) (f : Hart → Hart) : (s.updHart n f).fns = s.fns := rfl
@[simp] theorem updHart_host (n : Nat) (f : Hart → Hart) : (s.updHart n f).host = s.host := rfl
@[simp] theorem updHart_bar0Reads (n : Nat) (f : Hart → Hart) : (s.updHart n f).bar0Reads = s.bar0Reads := rfl
@[simp] theorem updHart_ethBytes (n : Nat) (f : Hart → Hart) : (s.updHart n f).ethBytes = s.ethBytes := rfl
@[simp] theorem updHart_qps (n : Nat) (f : Hart → Hart) : (s.updHart n f).qps = s.qps := rfl
@[simp] theorem updHart_regions (n : Nat) (f : Hart → Hart) : (s.updHart n f).regions = s.regions := rfl
@[simp] theorem updHart_tdesc (n : Nat) (f : Hart → Hart) : (s.updHart n f).tdesc = s.tdesc := rfl
@[simp] theorem updHart_plat (n : Nat) (f : Hart → Hart) : (s.updHart n f).plat = s.plat := rfl
@[simp] theorem updHart_saved (n : Nat) (f : Hart → Hart) : (s.updHart n f).saved = s.saved := rfl
@[simp] theorem updHart_out (n : Nat) (f : Hart → Hart) : (s.updHart n f).out = s.out := rfl

@[simp] theorem updQueue_pkg (n : Nat) (f : Queue → Queue) : (s.updQueue n f).pkg = s.pkg := rfl
@[simp] theorem updQueue_now (n : Nat) (f : Queue → Queue) : (s.updQueue n f).now = s.now := rfl
@[simp] theorem updQueue_sched (n : Nat) (f : Queue → Queue) : (s.updQueue n f).sched = s.sched := rfl
@[simp] theorem updQueue_inbox (n : Nat) (f : Queue → Queue) : (s.updQueue n f).inbox = s.inbox := rfl
@[simp] theorem updQueue_nextId (n : Nat) (f : Queue → Queue) : (s.updQueue n f).nextId = s.nextId := rfl
@[simp] theorem updQueue_freeCount (n : Nat) (f : Queue → Queue) : (s.updQueue n f).freeCount = s.freeCount := rfl
@[simp] theorem updQueue_cur (n : Nat) (f : Queue → Queue) : (s.updQueue n f).cur = s.cur := rfl
@[simp] theorem updQueue_subj (n : Nat) (f : Queue → Queue) : (s.updQueue n f).subj = s.subj := rfl
@[simp] theorem updQueue_snap (n : Nat) (f : Queue → Queue) : (s.updQueue n f).snap = s.snap := rfl
@[simp] theorem updQueue_began (n : Nat) (f : Queue → Queue) : (s.updQueue n f).began = s.began := rfl
@[simp] theorem updQueue_second (n : Nat) (f : Queue → Queue) : (s.updQueue n f).second = s.second := rfl
@[simp] theorem updQueue_since (n : Nat) (f : Queue → Queue) : (s.updQueue n f).since = s.since := rfl
@[simp] theorem updQueue_dm (n : Nat) (f : Queue → Queue) : (s.updQueue n f).dm = s.dm := rfl
@[simp] theorem updQueue_dies (n : Nat) (f : Queue → Queue) : (s.updQueue n f).dies = s.dies := rfl
@[simp] theorem updQueue_cores (n : Nat) (f : Queue → Queue) : (s.updQueue n f).cores = s.cores := rfl
@[simp] theorem updQueue_issued (n : Nat) (f : Queue → Queue) : (s.updQueue n f).issued = s.issued := rfl
@[simp] theorem updQueue_flight (n : Nat) (f : Queue → Queue) : (s.updQueue n f).flight = s.flight := rfl
@[simp] theorem updQueue_ops (n : Nat) (f : Queue → Queue) : (s.updQueue n f).ops = s.ops := rfl
@[simp] theorem updQueue_net (n : Nat) (f : Queue → Queue) : (s.updQueue n f).net = s.net := rfl
@[simp] theorem updQueue_stranded (n : Nat) (f : Queue → Queue) : (s.updQueue n f).stranded = s.stranded := rfl
@[simp] theorem updQueue_spoilt (n : Nat) (f : Queue → Queue) : (s.updQueue n f).spoilt = s.spoilt := rfl
@[simp] theorem updQueue_heldStrips (n : Nat) (f : Queue → Queue) : (s.updQueue n f).heldStrips = s.heldStrips := rfl
@[simp] theorem updQueue_replies (n : Nat) (f : Queue → Queue) : (s.updQueue n f).replies = s.replies := rfl
@[simp] theorem updQueue_ingress (n : Nat) (f : Queue → Queue) : (s.updQueue n f).ingress = s.ingress := rfl
@[simp] theorem updQueue_ingressSeq (n : Nat) (f : Queue → Queue) : (s.updQueue n f).ingressSeq = s.ingressSeq := rfl
@[simp] theorem updQueue_ports (n : Nat) (f : Queue → Queue) : (s.updQueue n f).ports = s.ports := rfl
@[simp] theorem updQueue_present (n : Nat) (f : Queue → Queue) : (s.updQueue n f).present = s.present := rfl
@[simp] theorem updQueue_guests (n : Nat) (f : Queue → Queue) : (s.updQueue n f).guests = s.guests := rfl
@[simp] theorem updQueue_tenants (n : Nat) (f : Queue → Queue) : (s.updQueue n f).tenants = s.tenants := rfl
@[simp] theorem updQueue_fns (n : Nat) (f : Queue → Queue) : (s.updQueue n f).fns = s.fns := rfl
@[simp] theorem updQueue_host (n : Nat) (f : Queue → Queue) : (s.updQueue n f).host = s.host := rfl
@[simp] theorem updQueue_bar0Reads (n : Nat) (f : Queue → Queue) : (s.updQueue n f).bar0Reads = s.bar0Reads := rfl
@[simp] theorem updQueue_ethBytes (n : Nat) (f : Queue → Queue) : (s.updQueue n f).ethBytes = s.ethBytes := rfl
@[simp] theorem updQueue_qps (n : Nat) (f : Queue → Queue) : (s.updQueue n f).qps = s.qps := rfl
@[simp] theorem updQueue_regions (n : Nat) (f : Queue → Queue) : (s.updQueue n f).regions = s.regions := rfl
@[simp] theorem updQueue_tdesc (n : Nat) (f : Queue → Queue) : (s.updQueue n f).tdesc = s.tdesc := rfl
@[simp] theorem updQueue_plat (n : Nat) (f : Queue → Queue) : (s.updQueue n f).plat = s.plat := rfl
@[simp] theorem updQueue_saved (n : Nat) (f : Queue → Queue) : (s.updQueue n f).saved = s.saved := rfl
@[simp] theorem updQueue_out (n : Nat) (f : Queue → Queue) : (s.updQueue n f).out = s.out := rfl

@[simp] theorem addOut_pkg (o : Output) : (s.addOut o).pkg = s.pkg := rfl
@[simp] theorem addOut_now (o : Output) : (s.addOut o).now = s.now := rfl
@[simp] theorem addOut_sched (o : Output) : (s.addOut o).sched = s.sched := rfl
@[simp] theorem addOut_inbox (o : Output) : (s.addOut o).inbox = s.inbox := rfl
@[simp] theorem addOut_nextId (o : Output) : (s.addOut o).nextId = s.nextId := rfl
@[simp] theorem addOut_freeCount (o : Output) : (s.addOut o).freeCount = s.freeCount := rfl
@[simp] theorem addOut_cur (o : Output) : (s.addOut o).cur = s.cur := rfl
@[simp] theorem addOut_subj (o : Output) : (s.addOut o).subj = s.subj := rfl
@[simp] theorem addOut_snap (o : Output) : (s.addOut o).snap = s.snap := rfl
@[simp] theorem addOut_began (o : Output) : (s.addOut o).began = s.began := rfl
@[simp] theorem addOut_second (o : Output) : (s.addOut o).second = s.second := rfl
@[simp] theorem addOut_since (o : Output) : (s.addOut o).since = s.since := rfl
@[simp] theorem addOut_dm (o : Output) : (s.addOut o).dm = s.dm := rfl
@[simp] theorem addOut_dies (o : Output) : (s.addOut o).dies = s.dies := rfl
@[simp] theorem addOut_cores (o : Output) : (s.addOut o).cores = s.cores := rfl
@[simp] theorem addOut_issued (o : Output) : (s.addOut o).issued = s.issued := rfl
@[simp] theorem addOut_flight (o : Output) : (s.addOut o).flight = s.flight := rfl
@[simp] theorem addOut_ops (o : Output) : (s.addOut o).ops = s.ops := rfl
@[simp] theorem addOut_net (o : Output) : (s.addOut o).net = s.net := rfl
@[simp] theorem addOut_stranded (o : Output) : (s.addOut o).stranded = s.stranded := rfl
@[simp] theorem addOut_spoilt (o : Output) : (s.addOut o).spoilt = s.spoilt := rfl
@[simp] theorem addOut_heldStrips (o : Output) : (s.addOut o).heldStrips = s.heldStrips := rfl
@[simp] theorem addOut_replies (o : Output) : (s.addOut o).replies = s.replies := rfl
@[simp] theorem addOut_ingress (o : Output) : (s.addOut o).ingress = s.ingress := rfl
@[simp] theorem addOut_ingressSeq (o : Output) : (s.addOut o).ingressSeq = s.ingressSeq := rfl
@[simp] theorem addOut_ports (o : Output) : (s.addOut o).ports = s.ports := rfl
@[simp] theorem addOut_present (o : Output) : (s.addOut o).present = s.present := rfl
@[simp] theorem addOut_guests (o : Output) : (s.addOut o).guests = s.guests := rfl
@[simp] theorem addOut_tenants (o : Output) : (s.addOut o).tenants = s.tenants := rfl
@[simp] theorem addOut_fns (o : Output) : (s.addOut o).fns = s.fns := rfl
@[simp] theorem addOut_host (o : Output) : (s.addOut o).host = s.host := rfl
@[simp] theorem addOut_bar0Reads (o : Output) : (s.addOut o).bar0Reads = s.bar0Reads := rfl
@[simp] theorem addOut_ethBytes (o : Output) : (s.addOut o).ethBytes = s.ethBytes := rfl
@[simp] theorem addOut_qps (o : Output) : (s.addOut o).qps = s.qps := rfl
@[simp] theorem addOut_regions (o : Output) : (s.addOut o).regions = s.regions := rfl
@[simp] theorem addOut_tdesc (o : Output) : (s.addOut o).tdesc = s.tdesc := rfl
@[simp] theorem addOut_fw (o : Output) : (s.addOut o).fw = s.fw := rfl
@[simp] theorem addOut_plat (o : Output) : (s.addOut o).plat = s.plat := rfl
@[simp] theorem addOut_saved (o : Output) : (s.addOut o).saved = s.saved := rfl

@[simp] theorem putG_pkg (t i : Nat) (w : Word) : (s.putG t i w).pkg = s.pkg := rfl
@[simp] theorem putG_now (t i : Nat) (w : Word) : (s.putG t i w).now = s.now := rfl
@[simp] theorem putG_sched (t i : Nat) (w : Word) : (s.putG t i w).sched = s.sched := rfl
@[simp] theorem putG_inbox (t i : Nat) (w : Word) : (s.putG t i w).inbox = s.inbox := rfl
@[simp] theorem putG_nextId (t i : Nat) (w : Word) : (s.putG t i w).nextId = s.nextId := rfl
@[simp] theorem putG_freeCount (t i : Nat) (w : Word) : (s.putG t i w).freeCount = s.freeCount := rfl
@[simp] theorem putG_cur (t i : Nat) (w : Word) : (s.putG t i w).cur = s.cur := rfl
@[simp] theorem putG_subj (t i : Nat) (w : Word) : (s.putG t i w).subj = s.subj := rfl
@[simp] theorem putG_snap (t i : Nat) (w : Word) : (s.putG t i w).snap = s.snap := rfl
@[simp] theorem putG_began (t i : Nat) (w : Word) : (s.putG t i w).began = s.began := rfl
@[simp] theorem putG_second (t i : Nat) (w : Word) : (s.putG t i w).second = s.second := rfl
@[simp] theorem putG_since (t i : Nat) (w : Word) : (s.putG t i w).since = s.since := rfl
@[simp] theorem putG_dm (t i : Nat) (w : Word) : (s.putG t i w).dm = s.dm := rfl
@[simp] theorem putG_dies (t i : Nat) (w : Word) : (s.putG t i w).dies = s.dies := rfl
@[simp] theorem putG_issued (t i : Nat) (w : Word) : (s.putG t i w).issued = s.issued := rfl
@[simp] theorem putG_flight (t i : Nat) (w : Word) : (s.putG t i w).flight = s.flight := rfl
@[simp] theorem putG_ops (t i : Nat) (w : Word) : (s.putG t i w).ops = s.ops := rfl
@[simp] theorem putG_net (t i : Nat) (w : Word) : (s.putG t i w).net = s.net := rfl
@[simp] theorem putG_stranded (t i : Nat) (w : Word) : (s.putG t i w).stranded = s.stranded := rfl
@[simp] theorem putG_spoilt (t i : Nat) (w : Word) : (s.putG t i w).spoilt = s.spoilt := rfl
@[simp] theorem putG_heldStrips (t i : Nat) (w : Word) : (s.putG t i w).heldStrips = s.heldStrips := rfl
@[simp] theorem putG_replies (t i : Nat) (w : Word) : (s.putG t i w).replies = s.replies := rfl
@[simp] theorem putG_ingress (t i : Nat) (w : Word) : (s.putG t i w).ingress = s.ingress := rfl
@[simp] theorem putG_ingressSeq (t i : Nat) (w : Word) : (s.putG t i w).ingressSeq = s.ingressSeq := rfl
@[simp] theorem putG_ports (t i : Nat) (w : Word) : (s.putG t i w).ports = s.ports := rfl
@[simp] theorem putG_present (t i : Nat) (w : Word) : (s.putG t i w).present = s.present := rfl
@[simp] theorem putG_guests (t i : Nat) (w : Word) : (s.putG t i w).guests = s.guests := rfl
@[simp] theorem putG_tenants (t i : Nat) (w : Word) : (s.putG t i w).tenants = s.tenants := rfl
@[simp] theorem putG_fns (t i : Nat) (w : Word) : (s.putG t i w).fns = s.fns := rfl
@[simp] theorem putG_host (t i : Nat) (w : Word) : (s.putG t i w).host = s.host := rfl
@[simp] theorem putG_bar0Reads (t i : Nat) (w : Word) : (s.putG t i w).bar0Reads = s.bar0Reads := rfl
@[simp] theorem putG_ethBytes (t i : Nat) (w : Word) : (s.putG t i w).ethBytes = s.ethBytes := rfl
@[simp] theorem putG_qps (t i : Nat) (w : Word) : (s.putG t i w).qps = s.qps := rfl
@[simp] theorem putG_regions (t i : Nat) (w : Word) : (s.putG t i w).regions = s.regions := rfl
@[simp] theorem putG_tdesc (t i : Nat) (w : Word) : (s.putG t i w).tdesc = s.tdesc := rfl
@[simp] theorem putG_fw (t i : Nat) (w : Word) : (s.putG t i w).fw = s.fw := rfl
@[simp] theorem putG_plat (t i : Nat) (w : Word) : (s.putG t i w).plat = s.plat := rfl
@[simp] theorem putG_saved (t i : Nat) (w : Word) : (s.putG t i w).saved = s.saved := rfl
@[simp] theorem putG_out (t i : Nat) (w : Word) : (s.putG t i w).out = s.out := rfl

@[simp] theorem putV_pkg (t i : Nat) (w : VWord) : (s.putV t i w).pkg = s.pkg := rfl
@[simp] theorem putV_now (t i : Nat) (w : VWord) : (s.putV t i w).now = s.now := rfl
@[simp] theorem putV_sched (t i : Nat) (w : VWord) : (s.putV t i w).sched = s.sched := rfl
@[simp] theorem putV_inbox (t i : Nat) (w : VWord) : (s.putV t i w).inbox = s.inbox := rfl
@[simp] theorem putV_nextId (t i : Nat) (w : VWord) : (s.putV t i w).nextId = s.nextId := rfl
@[simp] theorem putV_freeCount (t i : Nat) (w : VWord) : (s.putV t i w).freeCount = s.freeCount := rfl
@[simp] theorem putV_cur (t i : Nat) (w : VWord) : (s.putV t i w).cur = s.cur := rfl
@[simp] theorem putV_subj (t i : Nat) (w : VWord) : (s.putV t i w).subj = s.subj := rfl
@[simp] theorem putV_snap (t i : Nat) (w : VWord) : (s.putV t i w).snap = s.snap := rfl
@[simp] theorem putV_began (t i : Nat) (w : VWord) : (s.putV t i w).began = s.began := rfl
@[simp] theorem putV_second (t i : Nat) (w : VWord) : (s.putV t i w).second = s.second := rfl
@[simp] theorem putV_since (t i : Nat) (w : VWord) : (s.putV t i w).since = s.since := rfl
@[simp] theorem putV_dm (t i : Nat) (w : VWord) : (s.putV t i w).dm = s.dm := rfl
@[simp] theorem putV_dies (t i : Nat) (w : VWord) : (s.putV t i w).dies = s.dies := rfl
@[simp] theorem putV_issued (t i : Nat) (w : VWord) : (s.putV t i w).issued = s.issued := rfl
@[simp] theorem putV_flight (t i : Nat) (w : VWord) : (s.putV t i w).flight = s.flight := rfl
@[simp] theorem putV_ops (t i : Nat) (w : VWord) : (s.putV t i w).ops = s.ops := rfl
@[simp] theorem putV_net (t i : Nat) (w : VWord) : (s.putV t i w).net = s.net := rfl
@[simp] theorem putV_stranded (t i : Nat) (w : VWord) : (s.putV t i w).stranded = s.stranded := rfl
@[simp] theorem putV_spoilt (t i : Nat) (w : VWord) : (s.putV t i w).spoilt = s.spoilt := rfl
@[simp] theorem putV_heldStrips (t i : Nat) (w : VWord) : (s.putV t i w).heldStrips = s.heldStrips := rfl
@[simp] theorem putV_replies (t i : Nat) (w : VWord) : (s.putV t i w).replies = s.replies := rfl
@[simp] theorem putV_ingress (t i : Nat) (w : VWord) : (s.putV t i w).ingress = s.ingress := rfl
@[simp] theorem putV_ingressSeq (t i : Nat) (w : VWord) : (s.putV t i w).ingressSeq = s.ingressSeq := rfl
@[simp] theorem putV_ports (t i : Nat) (w : VWord) : (s.putV t i w).ports = s.ports := rfl
@[simp] theorem putV_present (t i : Nat) (w : VWord) : (s.putV t i w).present = s.present := rfl
@[simp] theorem putV_guests (t i : Nat) (w : VWord) : (s.putV t i w).guests = s.guests := rfl
@[simp] theorem putV_tenants (t i : Nat) (w : VWord) : (s.putV t i w).tenants = s.tenants := rfl
@[simp] theorem putV_fns (t i : Nat) (w : VWord) : (s.putV t i w).fns = s.fns := rfl
@[simp] theorem putV_host (t i : Nat) (w : VWord) : (s.putV t i w).host = s.host := rfl
@[simp] theorem putV_bar0Reads (t i : Nat) (w : VWord) : (s.putV t i w).bar0Reads = s.bar0Reads := rfl
@[simp] theorem putV_ethBytes (t i : Nat) (w : VWord) : (s.putV t i w).ethBytes = s.ethBytes := rfl
@[simp] theorem putV_qps (t i : Nat) (w : VWord) : (s.putV t i w).qps = s.qps := rfl
@[simp] theorem putV_regions (t i : Nat) (w : VWord) : (s.putV t i w).regions = s.regions := rfl
@[simp] theorem putV_tdesc (t i : Nat) (w : VWord) : (s.putV t i w).tdesc = s.tdesc := rfl
@[simp] theorem putV_fw (t i : Nat) (w : VWord) : (s.putV t i w).fw = s.fw := rfl
@[simp] theorem putV_plat (t i : Nat) (w : VWord) : (s.putV t i w).plat = s.plat := rfl
@[simp] theorem putV_saved (t i : Nat) (w : VWord) : (s.putV t i w).saved = s.saved := rfl
@[simp] theorem putV_out (t i : Nat) (w : VWord) : (s.putV t i w).out = s.out := rfl

@[simp] theorem putM_pkg (t i : Nat) (w : Mask128) : (s.putM t i w).pkg = s.pkg := rfl
@[simp] theorem putM_now (t i : Nat) (w : Mask128) : (s.putM t i w).now = s.now := rfl
@[simp] theorem putM_sched (t i : Nat) (w : Mask128) : (s.putM t i w).sched = s.sched := rfl
@[simp] theorem putM_inbox (t i : Nat) (w : Mask128) : (s.putM t i w).inbox = s.inbox := rfl
@[simp] theorem putM_nextId (t i : Nat) (w : Mask128) : (s.putM t i w).nextId = s.nextId := rfl
@[simp] theorem putM_freeCount (t i : Nat) (w : Mask128) : (s.putM t i w).freeCount = s.freeCount := rfl
@[simp] theorem putM_cur (t i : Nat) (w : Mask128) : (s.putM t i w).cur = s.cur := rfl
@[simp] theorem putM_subj (t i : Nat) (w : Mask128) : (s.putM t i w).subj = s.subj := rfl
@[simp] theorem putM_snap (t i : Nat) (w : Mask128) : (s.putM t i w).snap = s.snap := rfl
@[simp] theorem putM_began (t i : Nat) (w : Mask128) : (s.putM t i w).began = s.began := rfl
@[simp] theorem putM_second (t i : Nat) (w : Mask128) : (s.putM t i w).second = s.second := rfl
@[simp] theorem putM_since (t i : Nat) (w : Mask128) : (s.putM t i w).since = s.since := rfl
@[simp] theorem putM_dm (t i : Nat) (w : Mask128) : (s.putM t i w).dm = s.dm := rfl
@[simp] theorem putM_dies (t i : Nat) (w : Mask128) : (s.putM t i w).dies = s.dies := rfl
@[simp] theorem putM_issued (t i : Nat) (w : Mask128) : (s.putM t i w).issued = s.issued := rfl
@[simp] theorem putM_flight (t i : Nat) (w : Mask128) : (s.putM t i w).flight = s.flight := rfl
@[simp] theorem putM_ops (t i : Nat) (w : Mask128) : (s.putM t i w).ops = s.ops := rfl
@[simp] theorem putM_net (t i : Nat) (w : Mask128) : (s.putM t i w).net = s.net := rfl
@[simp] theorem putM_stranded (t i : Nat) (w : Mask128) : (s.putM t i w).stranded = s.stranded := rfl
@[simp] theorem putM_spoilt (t i : Nat) (w : Mask128) : (s.putM t i w).spoilt = s.spoilt := rfl
@[simp] theorem putM_heldStrips (t i : Nat) (w : Mask128) : (s.putM t i w).heldStrips = s.heldStrips := rfl
@[simp] theorem putM_replies (t i : Nat) (w : Mask128) : (s.putM t i w).replies = s.replies := rfl
@[simp] theorem putM_ingress (t i : Nat) (w : Mask128) : (s.putM t i w).ingress = s.ingress := rfl
@[simp] theorem putM_ingressSeq (t i : Nat) (w : Mask128) : (s.putM t i w).ingressSeq = s.ingressSeq := rfl
@[simp] theorem putM_ports (t i : Nat) (w : Mask128) : (s.putM t i w).ports = s.ports := rfl
@[simp] theorem putM_present (t i : Nat) (w : Mask128) : (s.putM t i w).present = s.present := rfl
@[simp] theorem putM_guests (t i : Nat) (w : Mask128) : (s.putM t i w).guests = s.guests := rfl
@[simp] theorem putM_tenants (t i : Nat) (w : Mask128) : (s.putM t i w).tenants = s.tenants := rfl
@[simp] theorem putM_fns (t i : Nat) (w : Mask128) : (s.putM t i w).fns = s.fns := rfl
@[simp] theorem putM_host (t i : Nat) (w : Mask128) : (s.putM t i w).host = s.host := rfl
@[simp] theorem putM_bar0Reads (t i : Nat) (w : Mask128) : (s.putM t i w).bar0Reads = s.bar0Reads := rfl
@[simp] theorem putM_ethBytes (t i : Nat) (w : Mask128) : (s.putM t i w).ethBytes = s.ethBytes := rfl
@[simp] theorem putM_qps (t i : Nat) (w : Mask128) : (s.putM t i w).qps = s.qps := rfl
@[simp] theorem putM_regions (t i : Nat) (w : Mask128) : (s.putM t i w).regions = s.regions := rfl
@[simp] theorem putM_tdesc (t i : Nat) (w : Mask128) : (s.putM t i w).tdesc = s.tdesc := rfl
@[simp] theorem putM_fw (t i : Nat) (w : Mask128) : (s.putM t i w).fw = s.fw := rfl
@[simp] theorem putM_plat (t i : Nat) (w : Mask128) : (s.putM t i w).plat = s.plat := rfl
@[simp] theorem putM_saved (t i : Nat) (w : Mask128) : (s.putM t i w).saved = s.saved := rfl
@[simp] theorem putM_out (t i : Nat) (w : Mask128) : (s.putM t i w).out = s.out := rfl

@[simp] theorem wrG_pkg (i : GReg) (w : Word) : (s.wrG i w).pkg = s.pkg := rfl
@[simp] theorem wrG_now (i : GReg) (w : Word) : (s.wrG i w).now = s.now := rfl
@[simp] theorem wrG_sched (i : GReg) (w : Word) : (s.wrG i w).sched = s.sched := rfl
@[simp] theorem wrG_inbox (i : GReg) (w : Word) : (s.wrG i w).inbox = s.inbox := rfl
@[simp] theorem wrG_nextId (i : GReg) (w : Word) : (s.wrG i w).nextId = s.nextId := rfl
@[simp] theorem wrG_freeCount (i : GReg) (w : Word) : (s.wrG i w).freeCount = s.freeCount := rfl
@[simp] theorem wrG_cur (i : GReg) (w : Word) : (s.wrG i w).cur = s.cur := rfl
@[simp] theorem wrG_subj (i : GReg) (w : Word) : (s.wrG i w).subj = s.subj := rfl
@[simp] theorem wrG_snap (i : GReg) (w : Word) : (s.wrG i w).snap = s.snap := rfl
@[simp] theorem wrG_began (i : GReg) (w : Word) : (s.wrG i w).began = s.began := rfl
@[simp] theorem wrG_second (i : GReg) (w : Word) : (s.wrG i w).second = s.second := rfl
@[simp] theorem wrG_since (i : GReg) (w : Word) : (s.wrG i w).since = s.since := rfl
@[simp] theorem wrG_dm (i : GReg) (w : Word) : (s.wrG i w).dm = s.dm := rfl
@[simp] theorem wrG_dies (i : GReg) (w : Word) : (s.wrG i w).dies = s.dies := rfl
@[simp] theorem wrG_issued (i : GReg) (w : Word) : (s.wrG i w).issued = s.issued := rfl
@[simp] theorem wrG_flight (i : GReg) (w : Word) : (s.wrG i w).flight = s.flight := rfl
@[simp] theorem wrG_ops (i : GReg) (w : Word) : (s.wrG i w).ops = s.ops := rfl
@[simp] theorem wrG_net (i : GReg) (w : Word) : (s.wrG i w).net = s.net := rfl
@[simp] theorem wrG_stranded (i : GReg) (w : Word) : (s.wrG i w).stranded = s.stranded := rfl
@[simp] theorem wrG_spoilt (i : GReg) (w : Word) : (s.wrG i w).spoilt = s.spoilt := rfl
@[simp] theorem wrG_heldStrips (i : GReg) (w : Word) : (s.wrG i w).heldStrips = s.heldStrips := rfl
@[simp] theorem wrG_replies (i : GReg) (w : Word) : (s.wrG i w).replies = s.replies := rfl
@[simp] theorem wrG_ingress (i : GReg) (w : Word) : (s.wrG i w).ingress = s.ingress := rfl
@[simp] theorem wrG_ingressSeq (i : GReg) (w : Word) : (s.wrG i w).ingressSeq = s.ingressSeq := rfl
@[simp] theorem wrG_ports (i : GReg) (w : Word) : (s.wrG i w).ports = s.ports := rfl
@[simp] theorem wrG_present (i : GReg) (w : Word) : (s.wrG i w).present = s.present := rfl
@[simp] theorem wrG_guests (i : GReg) (w : Word) : (s.wrG i w).guests = s.guests := rfl
@[simp] theorem wrG_tenants (i : GReg) (w : Word) : (s.wrG i w).tenants = s.tenants := rfl
@[simp] theorem wrG_fns (i : GReg) (w : Word) : (s.wrG i w).fns = s.fns := rfl
@[simp] theorem wrG_host (i : GReg) (w : Word) : (s.wrG i w).host = s.host := rfl
@[simp] theorem wrG_bar0Reads (i : GReg) (w : Word) : (s.wrG i w).bar0Reads = s.bar0Reads := rfl
@[simp] theorem wrG_ethBytes (i : GReg) (w : Word) : (s.wrG i w).ethBytes = s.ethBytes := rfl
@[simp] theorem wrG_qps (i : GReg) (w : Word) : (s.wrG i w).qps = s.qps := rfl
@[simp] theorem wrG_regions (i : GReg) (w : Word) : (s.wrG i w).regions = s.regions := rfl
@[simp] theorem wrG_tdesc (i : GReg) (w : Word) : (s.wrG i w).tdesc = s.tdesc := rfl
@[simp] theorem wrG_fw (i : GReg) (w : Word) : (s.wrG i w).fw = s.fw := rfl
@[simp] theorem wrG_plat (i : GReg) (w : Word) : (s.wrG i w).plat = s.plat := rfl
@[simp] theorem wrG_saved (i : GReg) (w : Word) : (s.wrG i w).saved = s.saved := rfl
@[simp] theorem wrG_out (i : GReg) (w : Word) : (s.wrG i w).out = s.out := rfl

@[simp] theorem pend_pkg (t : Nat) (r : RegRef) (c : Option Nat) : (s.pend t r c).pkg = s.pkg := rfl
@[simp] theorem pend_now (t : Nat) (r : RegRef) (c : Option Nat) : (s.pend t r c).now = s.now := rfl
@[simp] theorem pend_sched (t : Nat) (r : RegRef) (c : Option Nat) : (s.pend t r c).sched = s.sched := rfl
@[simp] theorem pend_inbox (t : Nat) (r : RegRef) (c : Option Nat) : (s.pend t r c).inbox = s.inbox := rfl
@[simp] theorem pend_nextId (t : Nat) (r : RegRef) (c : Option Nat) : (s.pend t r c).nextId = s.nextId := rfl
@[simp] theorem pend_freeCount (t : Nat) (r : RegRef) (c : Option Nat) : (s.pend t r c).freeCount = s.freeCount := rfl
@[simp] theorem pend_cur (t : Nat) (r : RegRef) (c : Option Nat) : (s.pend t r c).cur = s.cur := rfl
@[simp] theorem pend_subj (t : Nat) (r : RegRef) (c : Option Nat) : (s.pend t r c).subj = s.subj := rfl
@[simp] theorem pend_snap (t : Nat) (r : RegRef) (c : Option Nat) : (s.pend t r c).snap = s.snap := rfl
@[simp] theorem pend_began (t : Nat) (r : RegRef) (c : Option Nat) : (s.pend t r c).began = s.began := rfl
@[simp] theorem pend_second (t : Nat) (r : RegRef) (c : Option Nat) : (s.pend t r c).second = s.second := rfl
@[simp] theorem pend_since (t : Nat) (r : RegRef) (c : Option Nat) : (s.pend t r c).since = s.since := rfl
@[simp] theorem pend_dm (t : Nat) (r : RegRef) (c : Option Nat) : (s.pend t r c).dm = s.dm := rfl
@[simp] theorem pend_dies (t : Nat) (r : RegRef) (c : Option Nat) : (s.pend t r c).dies = s.dies := rfl
@[simp] theorem pend_issued (t : Nat) (r : RegRef) (c : Option Nat) : (s.pend t r c).issued = s.issued := rfl
@[simp] theorem pend_flight (t : Nat) (r : RegRef) (c : Option Nat) : (s.pend t r c).flight = s.flight := rfl
@[simp] theorem pend_ops (t : Nat) (r : RegRef) (c : Option Nat) : (s.pend t r c).ops = s.ops := rfl
@[simp] theorem pend_net (t : Nat) (r : RegRef) (c : Option Nat) : (s.pend t r c).net = s.net := rfl
@[simp] theorem pend_stranded (t : Nat) (r : RegRef) (c : Option Nat) : (s.pend t r c).stranded = s.stranded := rfl
@[simp] theorem pend_spoilt (t : Nat) (r : RegRef) (c : Option Nat) : (s.pend t r c).spoilt = s.spoilt := rfl
@[simp] theorem pend_heldStrips (t : Nat) (r : RegRef) (c : Option Nat) : (s.pend t r c).heldStrips = s.heldStrips := rfl
@[simp] theorem pend_replies (t : Nat) (r : RegRef) (c : Option Nat) : (s.pend t r c).replies = s.replies := rfl
@[simp] theorem pend_ingress (t : Nat) (r : RegRef) (c : Option Nat) : (s.pend t r c).ingress = s.ingress := rfl
@[simp] theorem pend_ingressSeq (t : Nat) (r : RegRef) (c : Option Nat) : (s.pend t r c).ingressSeq = s.ingressSeq := rfl
@[simp] theorem pend_ports (t : Nat) (r : RegRef) (c : Option Nat) : (s.pend t r c).ports = s.ports := rfl
@[simp] theorem pend_present (t : Nat) (r : RegRef) (c : Option Nat) : (s.pend t r c).present = s.present := rfl
@[simp] theorem pend_guests (t : Nat) (r : RegRef) (c : Option Nat) : (s.pend t r c).guests = s.guests := rfl
@[simp] theorem pend_tenants (t : Nat) (r : RegRef) (c : Option Nat) : (s.pend t r c).tenants = s.tenants := rfl
@[simp] theorem pend_fns (t : Nat) (r : RegRef) (c : Option Nat) : (s.pend t r c).fns = s.fns := rfl
@[simp] theorem pend_host (t : Nat) (r : RegRef) (c : Option Nat) : (s.pend t r c).host = s.host := rfl
@[simp] theorem pend_bar0Reads (t : Nat) (r : RegRef) (c : Option Nat) : (s.pend t r c).bar0Reads = s.bar0Reads := rfl
@[simp] theorem pend_ethBytes (t : Nat) (r : RegRef) (c : Option Nat) : (s.pend t r c).ethBytes = s.ethBytes := rfl
@[simp] theorem pend_qps (t : Nat) (r : RegRef) (c : Option Nat) : (s.pend t r c).qps = s.qps := rfl
@[simp] theorem pend_regions (t : Nat) (r : RegRef) (c : Option Nat) : (s.pend t r c).regions = s.regions := rfl
@[simp] theorem pend_tdesc (t : Nat) (r : RegRef) (c : Option Nat) : (s.pend t r c).tdesc = s.tdesc := rfl
@[simp] theorem pend_fw (t : Nat) (r : RegRef) (c : Option Nat) : (s.pend t r c).fw = s.fw := rfl
@[simp] theorem pend_plat (t : Nat) (r : RegRef) (c : Option Nat) : (s.pend t r c).plat = s.plat := rfl
@[simp] theorem pend_saved (t : Nat) (r : RegRef) (c : Option Nat) : (s.pend t r c).saved = s.saved := rfl
@[simp] theorem pend_out (t : Nat) (r : RegRef) (c : Option Nat) : (s.pend t r c).out = s.out := rfl

@[simp] theorem send_pkg (m : NetMsg) : (s.send m).pkg = s.pkg := rfl
@[simp] theorem send_now (m : NetMsg) : (s.send m).now = s.now := rfl
@[simp] theorem send_sched (m : NetMsg) : (s.send m).sched = s.sched := rfl
@[simp] theorem send_inbox (m : NetMsg) : (s.send m).inbox = s.inbox := rfl
@[simp] theorem send_freeCount (m : NetMsg) : (s.send m).freeCount = s.freeCount := rfl
@[simp] theorem send_cur (m : NetMsg) : (s.send m).cur = s.cur := rfl
@[simp] theorem send_subj (m : NetMsg) : (s.send m).subj = s.subj := rfl
@[simp] theorem send_snap (m : NetMsg) : (s.send m).snap = s.snap := rfl
@[simp] theorem send_began (m : NetMsg) : (s.send m).began = s.began := rfl
@[simp] theorem send_second (m : NetMsg) : (s.send m).second = s.second := rfl
@[simp] theorem send_since (m : NetMsg) : (s.send m).since = s.since := rfl
@[simp] theorem send_dm (m : NetMsg) : (s.send m).dm = s.dm := rfl
@[simp] theorem send_dies (m : NetMsg) : (s.send m).dies = s.dies := rfl
@[simp] theorem send_cores (m : NetMsg) : (s.send m).cores = s.cores := rfl
@[simp] theorem send_issued (m : NetMsg) : (s.send m).issued = s.issued := rfl
@[simp] theorem send_flight (m : NetMsg) : (s.send m).flight = s.flight := rfl
@[simp] theorem send_ops (m : NetMsg) : (s.send m).ops = s.ops := rfl
@[simp] theorem send_stranded (m : NetMsg) : (s.send m).stranded = s.stranded := rfl
@[simp] theorem send_spoilt (m : NetMsg) : (s.send m).spoilt = s.spoilt := rfl
@[simp] theorem send_heldStrips (m : NetMsg) : (s.send m).heldStrips = s.heldStrips := rfl
@[simp] theorem send_replies (m : NetMsg) : (s.send m).replies = s.replies := rfl
@[simp] theorem send_ingress (m : NetMsg) : (s.send m).ingress = s.ingress := rfl
@[simp] theorem send_ingressSeq (m : NetMsg) : (s.send m).ingressSeq = s.ingressSeq := rfl
@[simp] theorem send_ports (m : NetMsg) : (s.send m).ports = s.ports := rfl
@[simp] theorem send_present (m : NetMsg) : (s.send m).present = s.present := rfl
@[simp] theorem send_guests (m : NetMsg) : (s.send m).guests = s.guests := rfl
@[simp] theorem send_tenants (m : NetMsg) : (s.send m).tenants = s.tenants := rfl
@[simp] theorem send_fns (m : NetMsg) : (s.send m).fns = s.fns := rfl
@[simp] theorem send_host (m : NetMsg) : (s.send m).host = s.host := rfl
@[simp] theorem send_bar0Reads (m : NetMsg) : (s.send m).bar0Reads = s.bar0Reads := rfl
@[simp] theorem send_ethBytes (m : NetMsg) : (s.send m).ethBytes = s.ethBytes := rfl
@[simp] theorem send_qps (m : NetMsg) : (s.send m).qps = s.qps := rfl
@[simp] theorem send_regions (m : NetMsg) : (s.send m).regions = s.regions := rfl
@[simp] theorem send_tdesc (m : NetMsg) : (s.send m).tdesc = s.tdesc := rfl
@[simp] theorem send_fw (m : NetMsg) : (s.send m).fw = s.fw := rfl
@[simp] theorem send_plat (m : NetMsg) : (s.send m).plat = s.plat := rfl
@[simp] theorem send_saved (m : NetMsg) : (s.send m).saved = s.saved := rfl
@[simp] theorem send_out (m : NetMsg) : (s.send m).out = s.out := rfl

@[simp] theorem park_pkg (t : Nat) (w : Wait) : (s.park t w).pkg = s.pkg := rfl
@[simp] theorem park_now (t : Nat) (w : Wait) : (s.park t w).now = s.now := rfl
@[simp] theorem park_sched (t : Nat) (w : Wait) : (s.park t w).sched = s.sched := rfl
@[simp] theorem park_inbox (t : Nat) (w : Wait) : (s.park t w).inbox = s.inbox := rfl
@[simp] theorem park_nextId (t : Nat) (w : Wait) : (s.park t w).nextId = s.nextId := rfl
@[simp] theorem park_freeCount (t : Nat) (w : Wait) : (s.park t w).freeCount = s.freeCount := rfl
@[simp] theorem park_cur (t : Nat) (w : Wait) : (s.park t w).cur = s.cur := rfl
@[simp] theorem park_subj (t : Nat) (w : Wait) : (s.park t w).subj = s.subj := rfl
@[simp] theorem park_snap (t : Nat) (w : Wait) : (s.park t w).snap = s.snap := rfl
@[simp] theorem park_began (t : Nat) (w : Wait) : (s.park t w).began = s.began := rfl
@[simp] theorem park_second (t : Nat) (w : Wait) : (s.park t w).second = s.second := rfl
@[simp] theorem park_since (t : Nat) (w : Wait) : (s.park t w).since = s.since := rfl
@[simp] theorem park_dm (t : Nat) (w : Wait) : (s.park t w).dm = s.dm := rfl
@[simp] theorem park_dies (t : Nat) (w : Wait) : (s.park t w).dies = s.dies := rfl
@[simp] theorem park_issued (t : Nat) (w : Wait) : (s.park t w).issued = s.issued := rfl
@[simp] theorem park_flight (t : Nat) (w : Wait) : (s.park t w).flight = s.flight := rfl
@[simp] theorem park_ops (t : Nat) (w : Wait) : (s.park t w).ops = s.ops := rfl
@[simp] theorem park_net (t : Nat) (w : Wait) : (s.park t w).net = s.net := rfl
@[simp] theorem park_stranded (t : Nat) (w : Wait) : (s.park t w).stranded = s.stranded := rfl
@[simp] theorem park_spoilt (t : Nat) (w : Wait) : (s.park t w).spoilt = s.spoilt := rfl
@[simp] theorem park_heldStrips (t : Nat) (w : Wait) : (s.park t w).heldStrips = s.heldStrips := rfl
@[simp] theorem park_replies (t : Nat) (w : Wait) : (s.park t w).replies = s.replies := rfl
@[simp] theorem park_ingress (t : Nat) (w : Wait) : (s.park t w).ingress = s.ingress := rfl
@[simp] theorem park_ingressSeq (t : Nat) (w : Wait) : (s.park t w).ingressSeq = s.ingressSeq := rfl
@[simp] theorem park_ports (t : Nat) (w : Wait) : (s.park t w).ports = s.ports := rfl
@[simp] theorem park_present (t : Nat) (w : Wait) : (s.park t w).present = s.present := rfl
@[simp] theorem park_guests (t : Nat) (w : Wait) : (s.park t w).guests = s.guests := rfl
@[simp] theorem park_tenants (t : Nat) (w : Wait) : (s.park t w).tenants = s.tenants := rfl
@[simp] theorem park_fns (t : Nat) (w : Wait) : (s.park t w).fns = s.fns := rfl
@[simp] theorem park_host (t : Nat) (w : Wait) : (s.park t w).host = s.host := rfl
@[simp] theorem park_bar0Reads (t : Nat) (w : Wait) : (s.park t w).bar0Reads = s.bar0Reads := rfl
@[simp] theorem park_ethBytes (t : Nat) (w : Wait) : (s.park t w).ethBytes = s.ethBytes := rfl
@[simp] theorem park_qps (t : Nat) (w : Wait) : (s.park t w).qps = s.qps := rfl
@[simp] theorem park_regions (t : Nat) (w : Wait) : (s.park t w).regions = s.regions := rfl
@[simp] theorem park_tdesc (t : Nat) (w : Wait) : (s.park t w).tdesc = s.tdesc := rfl
@[simp] theorem park_fw (t : Nat) (w : Wait) : (s.park t w).fw = s.fw := rfl
@[simp] theorem park_plat (t : Nat) (w : Wait) : (s.park t w).plat = s.plat := rfl
@[simp] theorem park_saved (t : Nat) (w : Wait) : (s.park t w).saved = s.saved := rfl
@[simp] theorem park_out (t : Nat) (w : Wait) : (s.park t w).out = s.out := rfl

@[simp] theorem hold_pkg (t : Nat) (w : Wait) : (s.hold t w).pkg = s.pkg := rfl
@[simp] theorem hold_now (t : Nat) (w : Wait) : (s.hold t w).now = s.now := rfl
@[simp] theorem hold_sched (t : Nat) (w : Wait) : (s.hold t w).sched = s.sched := rfl
@[simp] theorem hold_inbox (t : Nat) (w : Wait) : (s.hold t w).inbox = s.inbox := rfl
@[simp] theorem hold_nextId (t : Nat) (w : Wait) : (s.hold t w).nextId = s.nextId := rfl
@[simp] theorem hold_freeCount (t : Nat) (w : Wait) : (s.hold t w).freeCount = s.freeCount := rfl
@[simp] theorem hold_cur (t : Nat) (w : Wait) : (s.hold t w).cur = s.cur := rfl
@[simp] theorem hold_subj (t : Nat) (w : Wait) : (s.hold t w).subj = s.subj := rfl
@[simp] theorem hold_snap (t : Nat) (w : Wait) : (s.hold t w).snap = s.snap := rfl
@[simp] theorem hold_began (t : Nat) (w : Wait) : (s.hold t w).began = s.began := rfl
@[simp] theorem hold_second (t : Nat) (w : Wait) : (s.hold t w).second = s.second := rfl
@[simp] theorem hold_since (t : Nat) (w : Wait) : (s.hold t w).since = s.since := rfl
@[simp] theorem hold_dm (t : Nat) (w : Wait) : (s.hold t w).dm = s.dm := rfl
@[simp] theorem hold_dies (t : Nat) (w : Wait) : (s.hold t w).dies = s.dies := rfl
@[simp] theorem hold_issued (t : Nat) (w : Wait) : (s.hold t w).issued = s.issued := rfl
@[simp] theorem hold_flight (t : Nat) (w : Wait) : (s.hold t w).flight = s.flight := rfl
@[simp] theorem hold_ops (t : Nat) (w : Wait) : (s.hold t w).ops = s.ops := rfl
@[simp] theorem hold_net (t : Nat) (w : Wait) : (s.hold t w).net = s.net := rfl
@[simp] theorem hold_stranded (t : Nat) (w : Wait) : (s.hold t w).stranded = s.stranded := rfl
@[simp] theorem hold_spoilt (t : Nat) (w : Wait) : (s.hold t w).spoilt = s.spoilt := rfl
@[simp] theorem hold_heldStrips (t : Nat) (w : Wait) : (s.hold t w).heldStrips = s.heldStrips := rfl
@[simp] theorem hold_replies (t : Nat) (w : Wait) : (s.hold t w).replies = s.replies := rfl
@[simp] theorem hold_ingress (t : Nat) (w : Wait) : (s.hold t w).ingress = s.ingress := rfl
@[simp] theorem hold_ingressSeq (t : Nat) (w : Wait) : (s.hold t w).ingressSeq = s.ingressSeq := rfl
@[simp] theorem hold_ports (t : Nat) (w : Wait) : (s.hold t w).ports = s.ports := rfl
@[simp] theorem hold_present (t : Nat) (w : Wait) : (s.hold t w).present = s.present := rfl
@[simp] theorem hold_guests (t : Nat) (w : Wait) : (s.hold t w).guests = s.guests := rfl
@[simp] theorem hold_tenants (t : Nat) (w : Wait) : (s.hold t w).tenants = s.tenants := rfl
@[simp] theorem hold_fns (t : Nat) (w : Wait) : (s.hold t w).fns = s.fns := rfl
@[simp] theorem hold_host (t : Nat) (w : Wait) : (s.hold t w).host = s.host := rfl
@[simp] theorem hold_bar0Reads (t : Nat) (w : Wait) : (s.hold t w).bar0Reads = s.bar0Reads := rfl
@[simp] theorem hold_ethBytes (t : Nat) (w : Wait) : (s.hold t w).ethBytes = s.ethBytes := rfl
@[simp] theorem hold_qps (t : Nat) (w : Wait) : (s.hold t w).qps = s.qps := rfl
@[simp] theorem hold_regions (t : Nat) (w : Wait) : (s.hold t w).regions = s.regions := rfl
@[simp] theorem hold_tdesc (t : Nat) (w : Wait) : (s.hold t w).tdesc = s.tdesc := rfl
@[simp] theorem hold_fw (t : Nat) (w : Wait) : (s.hold t w).fw = s.fw := rfl
@[simp] theorem hold_plat (t : Nat) (w : Wait) : (s.hold t w).plat = s.plat := rfl
@[simp] theorem hold_saved (t : Nat) (w : Wait) : (s.hold t w).saved = s.saved := rfl
@[simp] theorem hold_out (t : Nat) (w : Wait) : (s.hold t w).out = s.out := rfl

end Sys2Proof.Machine.State
end

