-- ==== Sys2Proof/Laws/Tables.lean ====
section
/-! SUPPORT. The laws of the sparse tables and of the memories: a read after a write, and the canonical form that every
operation of a memory keeps. -/

namespace Sys2Proof.Machine

open Sys2Proof

namespace FMap
variable {α : Type}

theorem find?_set_same (m : FMap α) (k : Nat) (v : α) : find? (set m k v) k = some v := by
  induction m with
  | nil => simp [set, find?]
  | cons e r ih =>
    obtain ⟨k', w⟩ := e
    unfold set
    split
    · simp [find?]
    · split
      · simp [find?]
      · simp [find?, *]

theorem find?_set_other (m : FMap α) {k j : Nat} (v : α) (h : j ≠ k) : find? (set m k v) j = find? m j := by
  induction m with
  | nil => simp [set, find?, h]
  | cons e r ih =>
    obtain ⟨k', w⟩ := e
    unfold set
    split
    · simp [find?, h]
    · split
      · rename_i h2
        subst h2
        simp [find?, h]
      · simp only [find?]
        split
        · rfl
        · exact ih

@[simp] theorem get_set_same (d : α) (m : FMap α) (k : Nat) (v : α) : get d (set m k v) k = v := by
  simp [get, find?_set_same]

theorem get_set_other (d : α) (m : FMap α) {k j : Nat} (v : α) (h : j ≠ k) : get d (set m k v) j = get d m j := by
  simp [get, find?_set_other _ _ h]

@[simp] theorem get_nil (d : α) (k : Nat) : get d ([] : FMap α) k = d := rfl

/-- An entry of the table after a write is the written one or an earlier one. -/
theorem mem_set {m : FMap α} {k : Nat} {v : α} {e : Nat × α} (h : e ∈ set m k v) : e = (k, v) ∨ e ∈ m := by
  induction m with
  | nil => exact .inl (by simpa [set] using h)
  | cons x r ih =>
    obtain ⟨k', w⟩ := x
    unfold set at h
    split at h
    · simpa using h
    · split at h
      · rcases List.mem_cons.1 h with h | h
        · exact .inl h
        · exact .inr (List.mem_cons_of_mem _ h)
      · rcases List.mem_cons.1 h with h | h
        · exact .inr (h ▸ List.mem_cons_self ..)
        · exact (ih h).imp_right (List.mem_cons_of_mem _)

/-- What a key holds is listed, or the default. -/
theorem get_mem (d : α) (m : FMap α) (k : Nat) : get d m k = d ∨ (k, get d m k) ∈ m := by
  induction m with
  | nil => exact .inl rfl
  | cons x r ih =>
    obtain ⟨k', w⟩ := x
    by_cases h : k = k'
    · subst h; right; simp [get, find?]
    · have e : get d ((k', w) :: r) k = get d r k := by simp [get, find?, h]
      rw [e]
      exact ih.imp_right (List.mem_cons_of_mem _)

end FMap

namespace Mem

/-! ## Reads after writes -/

theorem okFrom_le {lo lo' : Option Nat} {l : List Host.Cell} (h : okFrom lo' l) (hl : ∀ a, lo'.all (· < a) → lo.all (· < a)) :
    okFrom lo l := by
  cases l with
  | nil => rfl
  | cons e r =>
    obtain ⟨a, b⟩ := e
    simp only [okFrom, Bool.and_eq_true, decide_eq_true_eq] at h ⊢
    exact ⟨⟨hl a h.1.1, h.1.2⟩, h.2⟩

theorem getCell_below {l : List Host.Cell} {lo a : Nat} (h : okFrom (some lo) l) (ha : a ≤ lo) : getCell l a = 0 := by
  induction l generalizing lo with
  | nil => rfl
  | cons e r ih =>
    obtain ⟨c, b⟩ := e
    simp only [okFrom, Bool.and_eq_true, decide_eq_true_eq, Option.all_some] at h
    have hc : a ≠ c := by omega
    simp only [getCell, hc, if_false]
    exact ih h.2 (by omega)

/-- Writing a byte of the memory and reading it again. -/
theorem getCell_putCell_same {l : List Host.Cell} (lo : Option Nat) (h : okFrom lo l) (a : Nat) (b : Byte) :
    getCell (putCell l a b) a = b := by
  induction l generalizing lo with
  | nil =>
    unfold putCell
    split
    · rename_i hb
      exact hb.symm
    · simp [getCell]
  | cons e r ih =>
    obtain ⟨c, d⟩ := e
    have hr : okFrom (some c) r := by
      simp only [okFrom, Bool.and_eq_true] at h
      exact h.2
    unfold putCell
    split
    · rename_i hlt
      split
      · rename_i hb
        have hc : a ≠ c := by omega
        simp only [getCell, hc, if_false, hb]
        exact getCell_below hr (by omega)
      · simp [getCell]
    · split
      · rename_i heq
        subst heq
        split
        · rename_i hb
          rw [hb]
          exact getCell_below hr (Nat.le_refl _)
        · simp [getCell]
      · rename_i hne
        simp only [getCell, hne, if_false]
        exact ih _ hr

/-- A byte that is not written reads as before. -/
theorem getCell_putCell_other (l : List Host.Cell) {a x : Nat} (b : Byte) (h : x ≠ a) :
    getCell (putCell l a b) x = getCell l x := by
  induction l with
  | nil =>
    unfold putCell
    split
    · rfl
    · simp [getCell, h]
  | cons e r ih =>
    obtain ⟨c, d⟩ := e
    unfold putCell
    split
    · split <;> simp [getCell, h]
    · split
      · rename_i heq
        subst heq
        split <;> simp [getCell, h]
      · simp only [getCell]
        split
        · rfl
        · exact ih

theorem okFrom_putCell {l : List Host.Cell} {lo : Option Nat} (h : okFrom lo l) (a : Nat) (b : Byte) (ha : lo.all (· < a)) :
    okFrom lo (putCell l a b) := by
  induction l generalizing lo with
  | nil =>
    unfold putCell
    split
    · rfl
    · rename_i hb
      simp only [okFrom, Bool.and_eq_true, decide_eq_true_eq]
      exact ⟨⟨ha, hb⟩, trivial⟩
  | cons e r ih =>
    obtain ⟨c, d⟩ := e
    simp only [okFrom, Bool.and_eq_true, decide_eq_true_eq] at h
    unfold putCell
    split
    · rename_i hlt
      split
      · simp only [okFrom, Bool.and_eq_true, decide_eq_true_eq]
        exact h
      · rename_i hb
        simp only [okFrom, Bool.and_eq_true, decide_eq_true_eq, Option.all_some]
        exact ⟨⟨ha, hb⟩, ⟨hlt, h.1.2⟩, h.2⟩
    · split
      · rename_i heq
        subst heq
        split
        · exact okFrom_le h.2 (by
            intro x hx
            cases lo with
            | none => rfl
            | some y =>
              simp only [Option.all_some, decide_eq_true_eq] at *
              have := h.1.1
              omega)
        · rename_i hb
          simp only [okFrom, Bool.and_eq_true, decide_eq_true_eq]
          exact ⟨⟨ha, hb⟩, h.2⟩
      · rename_i h1 h2
        simp only [okFrom, Bool.and_eq_true, decide_eq_true_eq]
        exact ⟨h.1, ih h.2 (by simp only [Option.all_some, decide_eq_true_eq]; omega)⟩

/-! ## The canonical form is kept -/

@[simp] theorem wf_empty : Mem.empty.wf = true := rfl

@[simp] theorem wf_cells (m : Mem) (b : FMap Bool) : ({ m with bad := b } : Mem).wf = m.wf := rfl

theorem putByte_wf {m : Mem} (h : m.wf) (a : Nat) (b : Byte) : (m.putByte a b).wf :=
  okFrom_putCell h a b rfl

theorem putBytes_wf {m : Mem} (h : m.wf) (a : Nat) (d : List Byte) : (m.putBytes a d).wf := by
  induction d generalizing m a with
  | nil => exact h
  | cons b r ih => exact ih (putByte_wf h a b) (a + 1)

theorem write_wf {m : Mem} (h : m.wf) (a : Nat) (d : List Byte) : (m.write a d).wf := putBytes_wf h a d

theorem mark_wf {m : Mem} (h : m.wf) (a n : Nat) (p : Bool) : (m.mark a n p).wf := h

theorem putBad_wf {m : Mem} (h : m.wf) (a : Nat) (l : List (Nat × Bool)) : (m.putBad a l).wf := by
  unfold putBad
  induction l generalizing m with
  | nil => exact h
  | cons e r ih => exact ih (mark_wf h _ _ _)

theorem okFrom_filter {l : List Host.Cell} {lo : Option Nat} (h : okFrom lo l) (p : Host.Cell → Bool) : okFrom lo (l.filter p) := by
  induction l generalizing lo with
  | nil => rfl
  | cons e r ih =>
    obtain ⟨a, b⟩ := e
    simp only [okFrom, Bool.and_eq_true, decide_eq_true_eq] at h
    rw [List.filter_cons]
    split
    · simp only [okFrom, Bool.and_eq_true, decide_eq_true_eq]
      exact ⟨h.1, ih h.2⟩
    · refine ih (okFrom_le h.2 fun x hx => ?_)
      cases lo with
      | none => rfl
      | some y =>
        simp only [Option.all_some, decide_eq_true_eq] at *
        have := h.1.1
        omega

theorem filter_wf {m : Mem} (h : m.wf) (p : Host.Cell → Bool) (b : FMap Bool) : ({ cells := m.cells.filter p, bad := b } : Mem).wf :=
  okFrom_filter h p

theorem clear_wf {m : Mem} (h : m.wf) (a n : Nat) : (m.clear a n).wf := filter_wf h _ _

theorem blit_wf {m : Mem} (h : m.wf) (b : Nat) (src : Mem) (a n : Nat) : (m.blit b src a n).wf := by
  refine putBad_wf ?_ _ _
  have hc := clear_wf h b n
  revert hc
  generalize m.clear b n = c
  generalize List.filter _ src.cells = l
  intro hc
  induction l generalizing c with
  | nil => exact hc
  | cons e r ih => exact ih _ (putByte_wf hc _ _)

/-! ## Bytes -/

theorem byte_putByte_same {m : Mem} (h : m.wf) (a : Nat) (b : Byte) : (m.putByte a b).byte a = b :=
  getCell_putCell_same none h a b

theorem byte_putByte_other (m : Mem) {a x : Nat} (b : Byte) (h : x ≠ a) : (m.putByte a b).byte x = m.byte x :=
  getCell_putCell_other _ _ h

theorem byte_putBytes_outside (m : Mem) (a x : Nat) (d : List Byte) (h : x < a ∨ a + d.length ≤ x) :
    (m.putBytes a d).byte x = m.byte x := by
  induction d generalizing m a with
  | nil => rfl
  | cons b r ih =>
    simp only [List.length_cons] at h
    unfold putBytes
    rw [ih _ _ (by omega), byte_putByte_other _ _ (by omega)]

/-- A byte outside the bytes written reads as before. -/
theorem byte_write_outside (m : Mem) (a x : Nat) (d : List Byte) (h : x < a ∨ a + d.length ≤ x) :
    (m.write a d).byte x = m.byte x := byte_putBytes_outside m a x d h

theorem byte_putBytes_inside {m : Mem} (h : m.wf) (a i : Nat) (d : List Byte) (hi : i < d.length) :
    (m.putBytes a d).byte (a + i) = d[i] := by
  induction d generalizing m a i with
  | nil => simp at hi
  | cons b r ih =>
    unfold putBytes
    cases i with
    | zero =>
      rw [byte_putBytes_outside _ _ _ _ (by omega)]
      exact byte_putByte_same h a b
    | succ j =>
      have := ih (putByte_wf h a b) (a + 1) j (by simpa using hi)
      simpa [Nat.add_assoc, Nat.add_comm, Nat.add_left_comm] using this

/-- A byte written reads as written. -/
theorem byte_write_inside {m : Mem} (h : m.wf) (a i : Nat) (d : List Byte) (hi : i < d.length) :
    (m.write a d).byte (a + i) = d[i] := byte_putBytes_inside h a i d hi

/-- Reading what has been written. -/
theorem read_write {m : Mem} (h : m.wf) (a : Nat) (d : List Byte) : (m.write a d).read a d.length = d := by
  apply List.ext_getElem
  · simp [read]
  · intro i h1 h2
    simp only [read, List.getElem_map, List.getElem_range]
    exact byte_write_inside h a i d h2

end Mem

/-! ## Bytes and numbers -/

@[simp] theorem leBytes_length (n v : Nat) : (leBytes n v).length = n := by
  induction n generalizing v with
  | zero => rfl
  | succ n ih => simp [leBytes, ih]

theorem leNat_leBytes (n v : Nat) : leNat (leBytes n v) = v % 256 ^ n := by
  induction n generalizing v with
  | zero => simp [leNat, leBytes, Nat.mod_one]
  | succ n ih =>
    have h : v % 256 ^ (n + 1) = v % 256 + 256 * (v / 256 % 256 ^ n) := by
      rw [Nat.pow_succ, Nat.mul_comm, Nat.mod_mul]
    simp only [leBytes, leNat, ih, BitVec.toNat_ofNat]
    exact h.symm

theorem leNat_lt (l : List Byte) : leNat l < 256 ^ l.length := by
  induction l with
  | nil => simp [leNat]
  | cons b r ih =>
    have hb := b.isLt
    simp only [leNat, List.length_cons, Nat.pow_succ]
    omega

end Sys2Proof.Machine
end

