-- ==== Sys2Proof/Laws/Ops.lean ====
section
/-! SUPPORT. What the shared operations can do: reads of a core, a thread and a register after their updates, performing an operation,
taking a fault, and the canonical form of the memories under the updates of a core. -/

namespace Sys2Proof.Machine

open Sys2Proof

namespace State

variable (s : State)

/-! ## Cores, threads and registers after an update -/

@[simp] theorem core_setCore_same (k : Nat) (c : Core) : (s.setCore k c).core k = c := FMap.get_set_same ..

theorem core_setCore_other {k j : Nat} (c : Core) (h : j ≠ k) : (s.setCore k c).core j = s.core j := FMap.get_set_other _ _ _ h

@[simp] theorem core_updCore_same (k : Nat) (f : Core → Core) : (s.updCore k f).core k = f (s.core k) := core_setCore_same ..

theorem core_updCore_other {k j : Nat} (f : Core → Core) (h : j ≠ k) : (s.updCore k f).core j = s.core j := core_setCore_other _ _ h

theorem thread_setThread_same (c : Core) (n : Nat) (t : Thread) : (c.setThread n t).thread n = t := FMap.get_set_same ..

theorem thread_setThread_other (c : Core) {n m : Nat} (t : Thread) (h : m ≠ n) : (c.setThread n t).thread m = c.thread m :=
  FMap.get_set_other (Thread.reset m) c.threads t h

@[simp] theorem thr_setThr_same (t : Nat) (h : Thread) : (s.setThr t h).thr t = h := by
  simp [thr, setThr, thread_setThread_same]

theorem thr_setThr_other {t u : Nat} (h : Thread) (n : u ≠ t) : (s.setThr t h).thr u = s.thr u := by
  by_cases hk : u / 64 = t / 64
  · have hn : u % 64 ≠ t % 64 := by omega
    simp only [thr, setThr, hk, core_updCore_same]
    exact thread_setThread_other _ _ hn
  · simp only [thr, setThr, core_updCore_other _ _ hk]

@[simp] theorem thr_updThr_same (t : Nat) (f : Thread → Thread) : (s.updThr t f).thr t = f (s.thr t) := thr_setThr_same ..

theorem thr_updThr_other {t u : Nat} (f : Thread → Thread) (n : u ≠ t) : (s.updThr t f).thr u = s.thr u := thr_setThr_other _ _ n

@[simp] theorem die_updDie_same (d : Nat) (f : Die → Die) : (s.updDie d f).die d = f (s.die d) := FMap.get_set_same ..

theorem die_updDie_other {d e : Nat} (f : Die → Die) (h : e ≠ d) : (s.updDie d f).die e = s.die e := FMap.get_set_other _ _ _ h

@[simp] theorem tenant_updTenant_same (n : Nat) (f : Tenant → Tenant) : (s.updTenant n f).tenant n = f (s.tenant n) :=
  FMap.get_set_same ..

theorem tenant_updTenant_other {n m : Nat} (f : Tenant → Tenant) (h : m ≠ n) : (s.updTenant n f).tenant m = s.tenant m :=
  FMap.get_set_other _ _ _ h

@[simp] theorem port_updPort_same (n : Nat) (f : Port → Port) : (s.updPort n f).port n = f (s.port n) := FMap.get_set_same ..

theorem port_updPort_other {n m : Nat} (f : Port → Port) (h : m ≠ n) : (s.updPort n f).port m = s.port m :=
  FMap.get_set_other _ _ _ h

@[simp] theorem queue_updQueue_same (n : Nat) (f : Queue → Queue) : (s.updQueue n f).queue n = f (s.queue n) := FMap.get_set_same ..

@[simp] theorem hart_updHart_same (n : Nat) (f : Hart → Hart) : (s.updHart n f).hart n = f (s.hart n) := FMap.get_set_same ..

@[simp] theorem fn_updFn_same (n : Nat) (f : Fn → Fn) : (s.updFn n f).fn n = f (s.fn n) := FMap.get_set_same ..

@[simp] theorem ck_updCore (k : Nat) (f : Core → Core) : (s.updCore k f).ck = s.ck := rfl

@[simp] theorem loc_updCore (k t : Nat) (f : Core → Core) : (s.updCore k f).loc t = s.loc t := rfl

@[simp] theorem cycOf_updCore (k j : Nat) (f : Core → Core) : (s.updCore k f).cycOf j = s.cycOf j := rfl

/-- An update of a thread's record leaves the register files, the buffers and everything else of its core. -/
theorem core_updThr (t : Nat) (f : Thread → Thread) :
    (s.updThr t f).core (t / 64) = (s.core (t / 64)).setThread (t % 64) (f (s.thr t)) := core_setCore_same ..

theorem core_updThr_other {t k : Nat} (f : Thread → Thread) (h : k ≠ t / 64) : (s.updThr t f).core k = s.core k :=
  core_setCore_other _ _ h

/-- A general register of a thread after it has been written. -/
theorem gfile_putG (t i : Nat) (w : Word) :
    ((s.putG t i w).core (t / 64)).gfile =
      FMap.set (s.core (t / 64)).gfile (((s.core (t / 64)).thread (t % 64)).gbase * 8 + i) w := by
  simp [putG]

@[simp] theorem thr_putG (t u i : Nat) (w : Word) : (s.putG t i w).thr u = s.thr u := by
  by_cases h : u / 64 = t / 64
  · simp only [thr, h, putG, core_updCore_same]; rfl
  · simp only [thr, putG, core_updCore_other _ _ h]

@[simp] theorem thr_putV (t u i : Nat) (w : VWord) : (s.putV t i w).thr u = s.thr u := by
  by_cases h : u / 64 = t / 64
  · simp only [thr, h, putV, core_updCore_same]; rfl
  · simp only [thr, putV, core_updCore_other _ _ h]

/-! ## Reads of memory -/

/-- An update of a core's threads, registers and units that keeps its buffers leaves every byte of memory. -/
theorem readMem_updCore (k : Nat) (f : Core → Core) (p : Place) (n : Nat)
    (h : ∀ c sp, (f c).buf sp = c.buf sp) : (s.updCore k f).readMem p n = s.readMem p n := by
  cases p with
  | buf c sp o =>
    by_cases hk : c = k
    · subst hk; simp [readMem, h]
    · simp [readMem, core_updCore_other _ _ hk]
  | _ => rfl

@[simp] theorem readMem_updThr (t : Nat) (f : Thread → Thread) (p : Place) (n : Nat) :
    (s.updThr t f).readMem p n = s.readMem p n :=
  readMem_updCore s _ _ p n fun c sp => by cases sp <;> rfl

@[simp] theorem readMem_putG (t i : Nat) (w : Word) (p : Place) (n : Nat) : (s.putG t i w).readMem p n = s.readMem p n :=
  readMem_updCore s _ _ p n fun c sp => by cases sp <;> rfl

@[simp] theorem readMem_putV (t i : Nat) (w : VWord) (p : Place) (n : Nat) : (s.putV t i w).readMem p n = s.readMem p n :=
  readMem_updCore s _ _ p n fun c sp => by cases sp <;> rfl

end State

/-! ## Performing an operation -/

/-- The four ways an operation can end: its guard's fault, not issued for want of a stream, an outbound vector that may not be written, or its own
effect. Each is a next state. -/
theorem performK_cases (s : State) (i : Instr) (k : State → Eff) :
    (∃ f, s.guard i = some f ∧ performK s i k = .next (s.fault f)) ∨
    (s.guard i = none ∧ s.waits (s.streamsWait i) = true ∧ performK s i k = .next s.unissued) ∨
    (∃ va tr, s.guard i = none ∧ s.waits (s.streamsWait i) = false ∧ s.outFails i = some (va, tr) ∧
      performK s i k = .next (s.accessFails va tr)) ∨
    (s.guard i = none ∧ s.waits (s.streamsWait i) = false ∧ s.outFails i = none ∧
      performK s i k = .next (match k s with
        | .stop s' => s'
        | .done s' => (State.qIn i).foldl (fun x n => x.consume (State.answersLate i && s'.my.wait != []) n) s')) := by
  unfold performK
  split
  · rename_i f h
    exact .inl ⟨f, h, rfl⟩
  · rename_i h
    split
    · rename_i hw
      exact .inr (.inl ⟨h, hw, rfl⟩)
    · rename_i hw
      have hw : s.waits (s.streamsWait i) = false := by simpa using hw
      split
      · rename_i va tr ho
        exact .inr (.inr (.inl ⟨va, tr, h, hw, ho, rfl⟩))
      · rename_i ho
        refine .inr (.inr (.inr ⟨h, hw, ho, ?_⟩))
        split <;> simp_all

/-- Every operation answers a next state. -/
theorem performK_next (s : State) (i : Instr) (k : State → Eff) : ∃ t, performK s i k = .next t := by
  rcases performK_cases s i k with ⟨f, -, h⟩ | ⟨-, -, h⟩ | ⟨va, tr, -, -, -, h⟩ | ⟨-, -, -, h⟩ <;> exact ⟨_, h⟩

theorem performK_ready {s : State} {i : Instr} (h1 : s.guard i = none) (h2 : s.waits (s.streamsWait i) = false)
    (h3 : s.outFails i = none) (k : State → Eff) :
    performK s i k = .next (match k s with
        | .stop s' => s'
        | .done s' => (State.qIn i).foldl (fun x n => x.consume (State.answersLate i && s'.my.wait != []) n) s') := by
  simp only [performK, h1, h2, h3, Bool.false_eq_true, if_false]
  split <;> simp_all

theorem performK_guard {s : State} {i : Instr} {f : FaultRec} (h : s.guard i = some f) (k : State → Eff) :
    performK s i k = .next (s.fault f) := by
  simp [performK, h]

/-- An operation without stream operands whose checks pass. -/
theorem performK_plain {s : State} {i : Instr} (h : s.guard i = none) (hi : State.qIn i = []) (ho : State.qOut i = [])
    (k : State → Eff) : performK s i k = .next (match k s with | .stop s' => s' | .done s' => s') := by
  rw [performK_ready h (by simp [State.waits, State.streamsWait, hi, ho]) (by simp [State.outFails, ho])]
  simp only [hi, List.foldl_nil]

theorem perform_plain {s : State} {i : Instr} (h : s.guard i = none) (hi : State.qIn i = []) (ho : State.qOut i = [])
    (k : State → State) : perform s i k = .next (k s) := performK_plain h hi ho _

/-! ## Canonical memories -/

theorem Core.memOk_iff (c : Core) : c.memOk ↔ c.ulm.wf ∧ c.wb.wf ∧ c.ab.wf := by
  simp [Core.memOk, and_assoc]

theorem Core.memOk_buf {c : Core} (h : c.memOk) (sp : Space) : (c.buf sp).wf := by
  rw [Core.memOk_iff] at h
  cases sp <;> simp [Core.buf, h]

theorem Core.memOk_setBuf {c : Core} (h : c.memOk) (sp : Space) {m : Mem} (hm : m.wf) : (c.setBuf sp m).memOk := by
  rw [Core.memOk_iff] at h ⊢
  cases sp <;> simp [Core.setBuf, h, hm]

theorem Core.memOk_setThread {c : Core} (h : c.memOk) (n : Nat) (t : Thread) : (c.setThread n t).memOk := h

theorem Core.memOk_reset : Core.reset.memOk := by decide

namespace State

theorem memOk_iff (s : State) : s.memOk ↔
    s.dm.wf ∧ (∀ e ∈ s.cores, e.2.memOk) ∧ s.ethBytes.wf ∧ s.regions.wf ∧ s.tdesc.wf ∧ s.fw.imem.wf ∧
    (∀ e ∈ s.fns, e.2.msix.wf) ∧ ∀ v ∈ s.saved, ∀ e ∈ v.cores, e.2.memOk := by
  simp [memOk, and_assoc]

/-- The core k of a state whose memories are canonical has its memories canonical. -/
theorem memOk_core {s : State} (h : s.memOk) (k : Nat) : (s.core k).memOk := by
  rw [memOk_iff] at h
  rcases FMap.get_mem Core.reset s.cores k with e | e
  · rw [core, e]; exact Core.memOk_reset
  · exact h.2.1 _ e

theorem memOk_setCore {s : State} (h : s.memOk) (k : Nat) {c : Core} (hc : c.memOk) : (s.setCore k c).memOk := by
  rw [memOk_iff] at h ⊢
  refine ⟨h.1, fun e he => ?_, h.2.2⟩
  rcases FMap.mem_set he with rfl | he
  · exact hc
  · exact h.2.1 e he

theorem memOk_updCore {s : State} (h : s.memOk) (k : Nat) {f : Core → Core} (hf : (s.core k).memOk → (f (s.core k)).memOk) :
    (s.updCore k f).memOk := memOk_setCore h k (hf (memOk_core h k))

theorem memOk_updThr {s : State} (h : s.memOk) (t : Nat) (f : Thread → Thread) : (s.updThr t f).memOk :=
  memOk_updCore h _ fun hc => hc

theorem memOk_setThr {s : State} (h : s.memOk) (t : Nat) (x : Thread) : (s.setThr t x).memOk := memOk_updCore h _ fun hc => hc

theorem memOk_putG {s : State} (h : s.memOk) (t i : Nat) (w : Word) : (s.putG t i w).memOk := memOk_updCore h _ fun hc => hc

theorem memOk_putV {s : State} (h : s.memOk) (t i : Nat) (w : VWord) : (s.putV t i w).memOk := memOk_updCore h _ fun hc => hc

theorem memOk_updDie {s : State} (h : s.memOk) (d : Nat) (f : Die → Die) : (s.updDie d f).memOk := h

theorem memOk_updTenant {s : State} (h : s.memOk) (n : Nat) (f : Tenant → Tenant) : (s.updTenant n f).memOk := h

theorem memOk_updPort {s : State} (h : s.memOk) (n : Nat) (f : Port → Port) : (s.updPort n f).memOk := h

theorem memOk_updHart {s : State} (h : s.memOk) (n : Nat) (f : Hart → Hart) : (s.updHart n f).memOk := h

theorem memOk_updQueue {s : State} (h : s.memOk) (n : Nat) (f : Queue → Queue) : (s.updQueue n f).memOk := h

theorem memOk_send {s : State} (h : s.memOk) (m : NetMsg) : (s.send m).memOk := h

/-- Writing memory keeps its canonical form. -/
theorem memOk_writeMem {s : State} (h : s.memOk) (p : Place) (d : List Byte) : (s.writeMem p d).memOk := by
  cases p with
  | dm a =>
    rw [memOk_iff] at h ⊢
    exact ⟨Mem.write_wf h.1 a d, h.2⟩
  | buf c sp o =>
    exact memOk_updCore h c fun hc => Core.memOk_setBuf hc sp (Mem.write_wf (Core.memOk_buf hc sp) o d)
  | _ => exact h

theorem memOk_writeMasked {s : State} (h : s.memOk) (p : Place) (d : List (Option Byte)) : (s.writeMasked p d).memOk := by
  unfold writeMasked
  generalize maskRuns 0 d = l
  induction l generalizing s with
  | nil => exact h
  | cons r l ih => exact ih (memOk_writeMem h _ _)

/-- Finsin's writes keep the canonical form. -/
theorem memOk_putPhys {s : State} (h : s.memOk) (g : Nat) (d : List Byte) : (s.putPhys g d).memOk := by
  unfold putPhys
  split
  · rw [memOk_iff] at h ⊢
    exact ⟨Mem.write_wf h.1 _ d, h.2⟩
  · exact h

/-- So does saving a core in device memory, and taking its buffers back. -/
theorem memOk_putSaved {s : State} (h : s.memOk) (k : Nat) (a : Option Nat) : (s.putSaved k a).memOk := by
  cases a with
  | none => exact h
  | some a =>
    rw [memOk_iff] at h ⊢
    exact ⟨Mem.write_wf (Mem.write_wf (Mem.write_wf (Mem.blit_wf (Mem.blit_wf (Mem.blit_wf h.1 ..) ..) ..) _ _) _ _) _ _, h.2⟩

theorem memOk_getSaved {c : Core} (h : c.memOk) (dm : Mem) (a : Option Nat) : (Core.getSaved c dm a).memOk := by
  cases a with
  | none => exact h
  | some a =>
    rw [Core.memOk_iff]
    exact ⟨Mem.blit_wf Mem.wf_empty .., Mem.blit_wf Mem.wf_empty .., Mem.blit_wf Mem.wf_empty ..⟩

/-- Zeroing physical windows keeps it. -/
theorem memOk_zeroWindows {s : State} (h : s.memOk) (w : List (Nat × Nat)) : (s.zeroWindows w).memOk := by
  rw [memOk_iff] at h ⊢
  exact ⟨Mem.filter_wf h.1 _ _, h.2⟩

end State

end Sys2Proof.Machine
end

