-- ==== Sys2Proof/Tests/Slice0.lean ====
section
/-! SUPPORT. Tests: words of the spec's worked encodings and of each family decode to their instructions; ill-formed operations are
refused; single steps give the results that the spec's tables state; and for the statements with hypotheses, states and operands that
meet them. Expected values are the spec's, cited, or worked out by hand from its rules. -/

namespace Sys2Proof.Tests

set_option Elab.async false

open Sys2Proof Sys2Proof.Machine Sys2Proof.Machine.State Sys2Proof.Claim

/-- Thread 0 of core 0, the supervisor core of tenant 0, stands at a NOP with windows of 128 general and 64 vector registers. -/
def base : State := State.reset.withFetchWord 16 0x00F0

/-- The base state with general register i of the thread holding w. -/
def withG (l : List (Nat × Word)) : State := l.foldl (fun s e => s.putG 0 e.1 e.2) base

theorem witness_ready : ∀ i ∈ ([.add .i64 false 3 4 5, .sub .i8 true 3 4 5, .nop, .movi 3 5, .vadd (.flt .f32 .rne) none (.v 1) (.v 2) (.v 3)] : List Instr),
    Ready base i := by unfold Ready; decide +kernel

/-! ## Decoding: every row of the maps, its word laid out from R31, R33, R51 and the maps R53 to R59 -/

/-- The head and the tail are read as i, and i is encoded so. -/
def Laid (h t : Nat) (i : Instr) : Prop := ReadsAs h t i ∧ (encode i).map (fun e => (e.head, e.tail)) = some (h, t)

theorem test_decode_arithmetic :
    Laid 0x8103 0x6102800 (.add .i64 false 3 4 5) ∧
    Laid 0x8104 0xFE020001 (.add .n8 true 127 0 64) ∧
    Laid 0x8112 0x2081801 (.sub .i32 true 1 2 3) ∧
    Laid 0xC120 0x40FFFFFFFFC (.addi 2 3 0xFFFFFFFF) ∧
    Laid 0x8135 0xC1C4001 (.mul .n16 true 6 7 8) ∧
    Laid 0x8141 0xC1C4000 (.mulh .i16 6 7 8) ∧
    Laid 0x8150 0x2081800 (.div .i8 1 2 3) ∧
    Laid 0x8167 0x2081800 (.rem .n64 1 2 3) ∧
    Laid 0x8176 0x2081800 (.min .n32 1 2 3) ∧
    Laid 0x8182 0x2081800 (.max .i32 1 2 3) ∧
    Laid 0x4190 0x1221 (.abs .i8 true 9 8) ∧
    Laid 0x41A3 0x1220 (.neg .i64 false 9 8) ∧
    Laid 0xC1B0 0xE1BFFFFFF00 (.lea 7 6 0xFFFFFFC0) ∧
    Laid 0x41C2 0xA10 (.sext .w32 5 4) ∧
    Laid 0x41D0 0xA10 (.zext .w8 5 4) := by
  repeat' (first | exact rfl | apply And.intro)

theorem test_decode_logic_1 :
    Laid 0x8200 0x2081800 (.and 1 2 3) ∧
    Laid 0x8210 0x2081800 (.or 1 2 3) ∧
    Laid 0x8220 0x2081800 (.xor 1 2 3) ∧
    Laid 0x8230 0x2081800 (.andn 1 2 3) ∧
    Laid 0x8240 0x2081800 (.orn 1 2 3) ∧
    Laid 0x8250 0x2081800 (.shl .w8 1 2 3) ∧
    Laid 0x8261 0x2081800 (.shr .w16 1 2 3) ∧
    Laid 0x8272 0x2081800 (.sra .w32 1 2 3) ∧
    Laid 0x8283 0x2081800 (.rol .w64 1 2 3) ∧
    Laid 0xC293 0x208000000FC (.shli .w64 1 2 63) ∧
    Laid 0xC2A2 0x2080000007C (.shri .w32 1 2 31) ∧
    Laid 0xC2B0 0x2080000001C (.srai .w8 1 2 7) ∧
    Laid 0xC2C0 0x20800A38000 (.bfx 1 2 5 7) ∧
    Laid 0xC2D0 0x20807E00000 (.bfi 1 2 63 0) ∧
    Laid 0x4300 0x208 (.clz .w8 1 2) ∧
    Laid 0x4311 0x208 (.ffs .w16 1 2) ∧
    Laid 0x4322 0x208 (.popc .w32 1 2) ∧
    Laid 0x4333 0x208 (.brev .w64 1 2) ∧
    Laid 0x4341 0x208 (.bswap .w16 1 2) ∧
    Laid 0x8380 0x2081800 (.cmpeq .i8 1 2 3) ∧
    Laid 0x8394 0x2081800 (.cmpne .n8 1 2 3) ∧
    Laid 0x83A3 0x2081800 (.cmplt .i64 1 2 3) ∧
    Laid 0x83B7 0x2081800 (.cmple .n64 1 2 3) ∧
    Laid 0xC3C0 0x20818400000 (.sel 1 2 3 4) := by
  repeat' (first | exact rfl | apply And.intro)

theorem test_decode_logic_2 :
    Laid 0xC400 0x203FFFFFFF8 (.movi 1 0xFFFFFFFE) ∧
    Laid 0xC410 0x20048D159E0 (.movhi 1 0x12345678) ∧
    Laid 0x4420 0x208 (.mov 1 2) ∧
    Laid 0x4421 0x208 (.movToLc 1 2) ∧
    Laid 0x4422 0x404 (.movFromLc 2 1) ∧
    Laid 0x4423 0x804 (.movFromN1 4) ∧
    Laid 0x4424 0x10 (.movToN0 4) := by
  repeat' (first | exact rfl | apply And.intro)

theorem test_decode_control :
    Laid 0xCE06 0x20BFFFFFF80 (.br .lo 1 2 0xFFFFFFE0) ∧
    Laid 0xCE10 0x100 (.jmp 0x40) ∧
    Laid 0x4E20 0xA00 (.jmpr 5) ∧
    Laid 0xCE30 0xA0000000400 (.call 5 0x100) ∧
    Laid 0x4E40 0xA18 (.callr 5 6) ∧
    Laid 0x4E50 0xE00 (.ret 7) ∧
    Laid 0xCE60 0x203FFFFFFC0 (.loop 1 0xFFFFFFF0) ∧
    Laid 0x0E70 0x0 (.isync) ∧
    Laid 0x0F00 0x0 (.nop) := by
  repeat' (first | exact rfl | apply And.intro)

theorem test_decode_threads :
    Laid 0x4500 0x200 (.tid 1) ∧
    Laid 0x4510 0x200 (.cyc 1) ∧
    Laid 0x4520 0x27C (.cget 1 31) ∧
    Laid 0x4530 0x3E04 (.cset 31 1) ∧
    Laid 0x0540 0x0 (.wfw) ∧
    Laid 0x0550 0x0 (.doneOp) ∧
    Laid 0x0560 0x0 (.yield) ∧
    Laid 0x4570 0x600 (.signal 3) ∧
    Laid 0x0581 0x0 (.gang .two) ∧
    Laid 0x0582 0x0 (.gang .four) ∧
    Laid 0x0583 0x0 (.gang .eight) ∧
    Laid 0x0590 0x0 (.disband) ∧
    Laid 0xC5A0 0x80C00004200 (.join ⟨.ulm, .plain, false, false⟩ 4 3 8) ∧
    Laid 0xC5B0 0x60007FFC000 (.leave ⟨.dm, .plain, false, false⟩ 3 0xFFF8) ∧
    Laid 0xC5C0 0x80C00008000 (.arrive ⟨.dm, .plain, false, false⟩ 4 3 16) ∧
    Laid 0xC5C1 0x80C28008000 (.arriveBytes ⟨.dm, .plain, false, false⟩ 4 3 16 5) ∧
    Laid 0xC5D0 0x6100000C000 (.waitgen ⟨.dm, .plain, false, false⟩ 3 24 4) := by
  repeat' (first | exact rfl | apply And.intro)

theorem test_decode_memory :
    Laid 0xC602 0x120C00020210 (.ld .i32 ⟨.ulm, .plain, true, false⟩ 9 3 64) ∧
    Laid 0xC617 0x62407FFF968 (.st .n64 ⟨.dm, .rel .sys, false, true⟩ 3 0xFFFF 9) ∧
    Laid 0xC613 0x62410004184 (.stSig .i64 ⟨.dm, .sc, false, false⟩ 3 8 9 2) ∧
    Laid 0xC620 0x880C00080600 (.ldv ⟨.ab, .plain, false, false⟩ (.q 4) 3 256) ∧
    Laid 0xC630 0x70C00080410 (.stv ⟨.wb, .plain, true, false⟩ 3 256 (.q 3)) ∧
    Laid 0xC642 0x7E0C10002200 (.ldx .i32 ⟨.ulm, .plain, false, false⟩ (.v 63) 3 4 (.v 2)) ∧
    Laid 0xC654 0x61430002000 (.stx .n8 ⟨.dm, .plain, false, false⟩ 3 4 (.v 5) (.v 6)) ∧
    Laid 0xC660 0x20800004000 (.ldfe 1 2 8) ∧
    Laid 0xC670 0x40400004000 (.stfe 2 8 1) ∧
    Laid 0xC680 0x20800004000 (.ldff 1 2 8) ∧
    Laid 0xC690 0x40400004000 (.stff 2 8 1) ∧
    Laid 0xC6A0 0x42007FFC1FC (.spillG false 2 0xFFF8 8 127) ∧
    Laid 0xC6A1 0x40C000042FC (.spillV true 2 8 3 63) ∧
    Laid 0xC6B0 0x10080000423C (.fillG true 8 2 8 15) ∧
    Laid 0xC6B1 0x60800004000 (.fillV false 3 2 8 0) ∧
    Laid 0x46C0 0x8E0C (.sbind 7 3) ∧
    Laid 0x46D0 0x8000 (.sfree 0) ∧
    Laid 0x46E0 0xF08 (.sstatMask 7 2) ∧
    Laid 0x46E1 0x1308 (.sstatPosition 9 2) ∧
    Laid 0xC707 0x20818004121 (.amo .maxU true ⟨.dm, .rel .die, false, false⟩ 1 2 8 3) ∧
    Laid 0xC710 0x20818004200 (.cas false ⟨.ulm, .plain, false, false⟩ 1 2 8 3) ∧
    Laid 0xC722 0x20818004080 (.amof .max ⟨.dm, .acq .core, false, false⟩ 1 2 8 3) ∧
    Laid 0x0730 0x0 (.fence .core) ∧
    Laid 0x0733 0x0 (.fence .sys) := by
  repeat' (first | exact rfl | apply And.intro)

theorem test_decode_copy_and_grid :
    Laid 0x4788 0x1C00 (.cpset .qsel 14) ∧
    Laid 0x478A 0x200 (.cpset .arg 1) ∧
    Laid 0x4790 0x2000 (.cpgo 16) ∧
    Laid 0x47A0 0x81 (.cpqf 0x81) ∧
    Laid 0x47B0 0x2640 (.cpstat 19 16) ∧
    Laid 0x47C0 0x2000 (.cpwait 16) ∧
    Laid 0x47D0 0x2000 (.cpcan 16) ∧
    Laid 0x07E0 0x0 (.uiret) ∧
    Laid 0x4800 0xA00 (.gdecl 5) ∧
    Laid 0xC811 0x8E0828400000 (.gld .bf16 (.q 7) 2 5 4) ∧
    Laid 0x8823 0x4160000 (.gst .i32 2 5 (.q 0)) ∧
    Laid 0x4830 0x410 (.gstep 2 4) ∧
    Laid 0x4840 0x410 (.gstat 2 4) ∧
    Laid 0x4850 0x400 (.gfree 2) := by
  repeat' (first | exact rfl | apply And.intro)

theorem test_decode_collective_and_system_1 :
    Laid 0x4880 0x600 (.cbegin 3) ∧
    Laid 0x8890 0x2081800 (.csend 1 2 3) ∧
    Laid 0xC8A0 0x20818004000 (.crecv 1 8 2 3) ∧
    Laid 0xC8A1 0x20818004000 (.crecvSig 1 8 2 3) ∧
    Laid 0xC8B2 0x20818004200 (.crrs (.arith .min .bf16) 1 8 2 3) ∧
    Laid 0xC8B3 0x20818004000 (.crrs .qm 1 8 2 3) ∧
    Laid 0x88C0 0x2081800 (.ccopy 1 2 3) ∧
    Laid 0x48D0 0x600 (.cwait 3) ∧
    Laid 0x88E0 0x2081800 (.cpeer 1 2 3) ∧
    Laid 0x48F0 0x600 (.cend 3) ∧
    Laid 0x0900 0x0 (.home) ∧
    Laid 0x4A00 0xFFFF (.trap 0xFFFF) ∧
    Laid 0xCA10 0x80000000104 (.csrr 4 0x041) ∧
    Laid 0xCA10 0x80000000124 (.vlogsRead 4) ∧
    Laid 0xCA20 0x80000000054 (.csrw 0x015 4) ∧
    Laid 0xCA20 0x80000000008 (.csrwTstate 4) ∧
    Laid 0xCA20 0x80000000118 (.csrwFring 4) ∧
    Laid 0xCA20 0x8000000011C (.csrwFrrd 4) ∧
    Laid 0x4A30 0x208 (.rdwin 1 2) ∧
    Laid 0x4A40 0x208 (.wrwin 1 2) ∧
    Laid 0x4A50 0x1000 (.resume 8) ∧
    Laid 0x4A60 0x1000 (.susp 8) ∧
    Laid 0x4A70 0x1000 (.kill 8) ∧
    Laid 0x4A80 0x208 (.cfgt 1 2) := by
  repeat' (first | exact rfl | apply And.intro)

theorem test_decode_collective_and_system_2 :
    Laid 0xCA90 0x20800004000 (.savec 1 8 2) ∧
    Laid 0xCAA0 0x20800004000 (.loadc 1 8 2) := by
  repeat' (first | exact rfl | apply And.intro)

theorem test_decode_vector_1 :
    Laid 0x900C 0x2081D8F (.vadd (.int .b32 true true) (some 7) (.v 1) (.v 2) (.v 3)) ∧
    Laid 0x9015 0x890DF800 (.vsub (.flt .f16 .rtz) none (.q 4) (.q 3) (.v 63)) ∧
    Laid 0x902B 0x2081800 (.vmul (.flt .bf16 .rup) none (.v 1) (.v 2) (.v 3)) ∧
    Laid 0x9030 0x2081800 (.vfma (.flt .f32 .rne) none (.v 1) (.v 2) (.v 3)) ∧
    Laid 0x904C 0x20A0200 (.vfms (.int .b16 false false) none (.v 1) (.v 2) (.q 0)) ∧
    Laid 0x905C 0x2081900 (.vmin (.int .b8 true false) none (.v 1) (.v 2) (.v 3)) ∧
    Laid 0x9062 0x2081800 (.vmax (.flt .f32 .rdn) none (.v 1) (.v 2) (.v 3)) ∧
    Laid 0x907C 0x2080480 (.vabs (.int .b32 false true) none (.v 1) (.v 2)) ∧
    Laid 0x9084 0x2080000 (.vneg (.flt .f16 .rne) none (.v 1) (.v 2)) ∧
    Laid 0x9103 0x2081800 (.vdiv .rup none (.v 1) (.v 2) (.v 3)) ∧
    Laid 0x9110 0x2080000 (.vsqrt .rne none (.v 1) (.v 2)) ∧
    Laid 0x9121 0x2080000 (.vrcp .rtz none (.v 1) (.v 2)) ∧
    Laid 0x9132 0x2080000 (.vrsq .rdn none (.v 1) (.v 2)) ∧
    Laid 0x9143 0x2080000 (.vexp2 .rup none (.v 1) (.v 2)) ∧
    Laid 0x9150 0x2080008 (.vlog2 .rne (some 0) (.v 1) (.v 2)) ∧
    Laid 0x9161 0x2080000 (.vsin .rtz none (.v 1) (.v 2)) ∧
    Laid 0x9172 0x2080000 (.vcos .rdn none (.v 1) (.v 2)) ∧
    Laid 0x9200 0x2081800 (.vand none (.v 1) (.v 2) (.v 3)) ∧
    Laid 0x9210 0x2081800 (.vor none (.v 1) (.v 2) (.v 3)) ∧
    Laid 0x9220 0x2081809 (.vxor (some 1) (.v 1) (.v 2) (.v 3)) ∧
    Laid 0x9230 0x2081800 (.vshl .b8 none (.v 1) (.v 2) (.v 3)) ∧
    Laid 0x9241 0x2081800 (.vshr .b16 none (.v 1) (.v 2) (.v 3)) ∧
    Laid 0x9252 0x2081800 (.vsra .b32 none (.v 1) (.v 2) (.v 3)) ∧
    Laid 0x9260 0x2080100 (.vclz .b8 true none (.v 1) (.v 2)) := by
  repeat' (first | exact rfl | apply And.intro)

theorem test_decode_vector_2 :
    Laid 0x9271 0x2080000 (.vffs .b16 false none (.v 1) (.v 2)) ∧
    Laid 0x9282 0x2080000 (.vpopc .b32 false none (.v 1) (.v 2)) ∧
    Laid 0x930C 0xE081D30 (.vcmp .le .n32 7 (.v 2) (.v 3)) ∧
    Laid 0x9300 0x2081820 (.vcmp .lt .f32 1 (.v 2) (.v 3)) ∧
    Laid 0x9310 0x208180C (.vsel 4 (.v 1) (.v 2) (.v 3)) ∧
    Laid 0x9320 0x2080000 (.vmov none (.v 1) (.v 2)) ∧
    Laid 0x9330 0x8B900000 (.vbcast none (.q 5) 100) ∧
    Laid 0x9340 0x2081800 (.vins none (.v 1) 2 3) ∧
    Laid 0x9350 0xC9041800 (.vext 100 (.q 1) 3) ∧
    Laid 0x9360 0x2081800 (.vperm none (.v 1) (.v 2) (.v 3)) ∧
    Laid 0x9370 0x2081800 (.vrot none (.v 1) (.v 2) 3) ∧
    Laid 0x9380 0x2000000 (.viota none (.v 1)) ∧
    Laid 0x940C 0x2080480 (.vred .add (.int .b32 false true) none (.v 1) (.v 2)) ∧
    Laid 0x9410 0x2080020 (.vscan .max (.flt .f32 .rne) none (.v 1) (.v 2)) ∧
    Laid 0x9486 0x2080000 (.vcvt .f32_f16 none (.v 1) (.v 2)) ∧
    Laid 0x9484 0x2080030 (.vcvt (.f16_f32 .rup) none (.v 1) (.v 2)) ∧
    Laid 0x9491 0x2081800 (.vpack .w8 none (.v 1) (.v 2) (.v 3)) ∧
    Laid 0x94A0 0x2080100 (.vunpk .w16 true none (.v 1) (.v 2)) ∧
    Laid 0x94B1 0x2080000 (.vdec .b none (.v 1) (.v 2)) ∧
    Laid 0x94C0 0x2080080 (.venc .a true none (.v 1) (.v 2)) ∧
    Laid 0xD4D1 0x40000100000 (.dtld .b 2 512) ∧
    Laid 0x9500 0x2081800 (.mand 1 2 3) ∧
    Laid 0x9510 0x2081800 (.mor 1 2 3) ∧
    Laid 0x9520 0x2081800 (.mxor 1 2 3) := by
  repeat' (first | exact rfl | apply And.intro)

theorem test_decode_vector_3 :
    Laid 0x5530 0x208 (.mnot 1 2) ∧
    Laid 0x5540 0xC81C (.mpop 100 7) ∧
    Laid 0x5550 0xC81C (.mfirst 100 7) := by
  repeat' (first | exact rfl | apply And.intro)

theorem test_decode_matrix_and_mean_1 :
    Laid 0xD600 0x20A18900000 (.mmaStream 1 2 3 9) ∧
    Laid 0xD601 0x20A00900000 (.mmaAb 1 2 64 9) ∧
    Laid 0xD610 0x20A0891A000 (.mmasK16Stream 1 2 1 9 13) ∧
    Laid 0xD611 0x2081891A000 (.mmasK16Ab 1 2 3 9 13) ∧
    Laid 0xD612 0x20A0891A000 (.mmasK8Stream 1 2 1 9 13) ∧
    Laid 0xD613 0x2081891A000 (.mmasK8Ab 1 2 3 9 13) ∧
    Laid 0x5620 0x600 (.bld 3) ∧
    Laid 0x1630 0x0 (.brot) ∧
    Laid 0x5640 0x208 (.swapt 1 2) ∧
    Laid 0x5650 0x7008 (.ldt 56 2) ∧
    Laid 0x9660 0x2081800 (.mcmd 1 2 3) ∧
    Laid 0x5700 0x1014 (.talloc false 8 5) ∧
    Laid 0x5701 0x1014 (.talloc true 8 5) ∧
    Laid 0xD710 0x20840900000 (.tcont 1 2 8 9) ∧
    Laid 0x5720 0x208 (.tstat 1 2) ∧
    Laid 0xD73F 0x20800004200 (.tread 15 false true 1 8 2) ∧
    Laid 0xD732 0x20800004400 (.tread 2 true false 1 8 2) ∧
    Laid 0x5740 0x600 (.twait 3) ∧
    Laid 0x5750 0x600 (.taban 3) ∧
    Laid 0x9760 0x100C0000 (.tpeek 8 3) ∧
    Laid 0x5770 0x600 (.tfree 3) ∧
    Laid 0x5800 0x1234 (.qshape 0x1234) ∧
    Laid 0xD813 0x40000004000 (.qtld 3 2 8) ∧
    Laid 0x9820 0x6000000 (.qclr none 3) := by
  repeat' (first | exact rfl | apply And.intro)

theorem test_decode_matrix_and_mean_2 :
    Laid 0x9830 0x7080049 (.qacc true (some 1) 3 (.q 2)) ∧
    Laid 0x9840 0x6180000 (.qmerge none 3 6) ∧
    Laid 0x9850 0x6000000 (.qred none 3) ∧
    Laid 0x9860 0x6240040 (.qfin true none 3 (.v 9)) := by
  repeat' (first | exact rfl | apply And.intro)

theorem test_decode_unassigned :
    ReadsAs 0x0000 0x0 (.unassignedOpcode 0 0) ∧
    ReadsAs 0x0F10 0x0 (.unassignedOpcode 0x0F1 0) ∧
    ReadsAs 0x1875 0x0 (.unassignedOpcode 0x187 5) ∧
    ReadsAs 0x1FFF 0x0 (.unassignedOpcode 0x1FF 15) ∧
    ReadsAs 0x0580 0x0 (.unassignedOpcode 0x058 0) ∧
    ReadsAs 0x0734 0x0 (.unassignedOpcode 0x073 4) ∧
    ReadsAs 0x8108 0x2081800 (.unassignedOpcode 0x010 8) ∧
    ReadsAs 0x900D 0x2081800 (.unassignedOpcode 0x100 13) ∧
    ReadsAs 0xC643 0x20818000000 (.unassignedOpcode 0x064 3) := by
  repeat' (first | exact rfl | apply And.intro)
/-! ## Well-formedness (R52, R55, R57 to R59): an ill-formed term for each check -/

theorem test_wf_immediates : (Instr.shli .w8 1 2 8).wf = false ∧ (Instr.shri .w32 1 2 32).wf = false ∧ (Instr.srai .w64 1 2 64).wf = false ∧
    (Instr.shli .w64 1 2 63).wf = true ∧ (Instr.bfx 1 2 63 1).wf = false ∧ (Instr.bfi 1 2 32 32).wf = false ∧ (Instr.bfx 1 2 63 0).wf = true ∧
    (Instr.spillV false 1 0 2 64).wf = false ∧ (Instr.fillV true 1 2 0 127).wf = false ∧ (Instr.spillV false 1 0 2 63).wf = true ∧
    (Instr.cpqf 0).wf = false := by decide

theorem test_wf_memory_control :
    (Instr.join ⟨.dm, .acq .pkg, false, false⟩ 1 2 0).wf = false ∧ (Instr.leave ⟨.wb, .plain, false, false⟩ 2 0).wf = false ∧
    (Instr.arrive ⟨.dm, .plain, true, false⟩ 1 2 0).wf = false ∧ (Instr.waitgen ⟨.dm, .plain, false, true⟩ 2 0 3).wf = false ∧
    (Instr.ld .i64 ⟨.dm, .rel .pkg, false, false⟩ 1 2 0).wf = false ∧ (Instr.ld .i64 ⟨.dm, .acq .pkg, true, false⟩ 1 2 0).wf = false ∧
    (Instr.ld .i64 ⟨.ulm, .acq .pkg, false, false⟩ 1 2 0).wf = false ∧ (Instr.ld .i64 ⟨.ab, .plain, false, false⟩ 1 2 0).wf = false ∧
    (Instr.st .i64 ⟨.dm, .acq .pkg, false, false⟩ 1 0 2).wf = false ∧ (Instr.st .i64 ⟨.ulm, .plain, false, true⟩ 1 0 2).wf = false ∧
    (Instr.stSig .i64 ⟨.ulm, .plain, false, false⟩ 1 0 2 3).wf = false ∧ (Instr.stSig .i64 ⟨.dm, .plain, true, false⟩ 1 0 2 3).wf = false ∧
    (Instr.ldv ⟨.dm, .sc, false, false⟩ (.v 1) 2 0).wf = false ∧ (Instr.stv ⟨.dm, .acq .die, false, false⟩ 2 0 (.v 1)).wf = false ∧
    (Instr.ldx .i32 ⟨.dm, .acq .die, false, false⟩ (.v 1) 2 0 (.v 3)).wf = false ∧ (Instr.ldx .i64 ⟨.dm, .plain, false, false⟩ (.v 1) 2 0 (.v 3)).wf = false ∧
    (Instr.stx .n64 ⟨.dm, .plain, false, false⟩ 2 0 (.v 1) (.v 3)).wf = false ∧ (Instr.amo .add true ⟨.dm, .sc, false, false⟩ 1 2 0 3).wf = false ∧
    (Instr.cas true ⟨.dm, .plain, true, false⟩ 1 2 0 3).wf = false ∧ (Instr.amof .add ⟨.wb, .plain, false, false⟩ 1 2 0 3).wf = false := by decide

theorem test_wf_vector_operands :
    (Instr.vadd (.flt .f32 .rne) none (.q 3) (.v 1) (.v 2)).wf = false ∧ (Instr.vadd (.flt .f32 .rne) none (.v 3) (.q 4) (.v 2)).wf = false ∧
    (Instr.vfma (.flt .f32 .rne) none (.q 4) (.v 1) (.v 2)).wf = false ∧ (Instr.vins none (.q 4) 1 2).wf = false ∧
    (Instr.vmin (.int .b8 false true) none (.v 3) (.v 1) (.v 2)).wf = false ∧ (Instr.vred .min (.int .b8 false true) none (.v 3) (.v 1)).wf = false ∧
    (Instr.vred .add (.int .b8 false true) none (.v 3) (.v 1)).wf = true ∧ (Instr.vcmp .eq .f32 0 (.q 4) (.v 1)).wf = false ∧
    (Instr.vext 1 (.q 5) 2).wf = false ∧ (Instr.vmov none (.q 0) (.v 1)).wf = false ∧ (Instr.ldt 9 1).wf = false ∧ (Instr.tpeek 63 1).wf = false ∧
    (Instr.tcont 1 2 4 3).wf = false ∧ (Instr.tread 14 true false 1 0 2).wf = false ∧ (Instr.tread 13 false true 1 0 2).wf = false ∧
    (Instr.qacc false none 3 (.q 4)).wf = false ∧ (Instr.qfin true none 3 (.q 7)).wf = false ∧ (Instr.gld .f32 (.q 0) 1 2 3).wf = false ∧
    (Instr.gst .f32 1 2 (.q 4)).wf = false := by decide

theorem test_wf_system_registers : (Instr.csrr 1 0x049).wf = false ∧ (Instr.csrr 1 0x003).wf = false ∧ (Instr.csrw 0x002 1).wf = false ∧
    (Instr.csrw 0x047 1).wf = false ∧ (Instr.csrw 0x020 1).wf = true := by decide

/-- Words that break a limit are no operation: the check of R38 that names the fault. -/
theorem test_decode_refuses :
    decodeOp 0x060 3 3 0x120C000200D0 = .error .tailfield ∧ decodeOp 0x010 3 2 0x06102802 = .error .tailfield ∧
    decodeOp 0x010 3 1 0 = .error .tailfield ∧ decodeOp 0x010 8 2 0 = .error .subcode ∧ decodeOp 0x0F1 0 0 0 = .error .opcode := by
  repeat' (first | exact rfl | apply And.intro)

/-! ## Results of single operations, as the spec's tables and rules state them -/

/-- General register e of thread 0 after operation i in s. -/
def gOut (i : Instr) (s : State) (e : Nat) : Option Word :=
  match exec i s with
  | .next t => some (FMap.get 0 (t.core 0).gfile ((t.thr 0).gbase * 8 + e))
  | _ => none

/-- Lane n of vector register v of thread 0 after operation i in s. -/
def laneOut (i : Instr) (s : State) (v n : Nat) : Option Nat :=
  match exec i s with
  | .next t => some (elem 32 (FMap.get 0 (t.core 0).vfile ((t.thr 0).vbase * 4 + v)) n)
  | _ => none

/-- The cause, the subcode and the address of the fault that thread 0 has taken after operation i in s. -/
def faultOut (i : Instr) (s : State) : Option (Nat × Nat × Nat) :=
  match exec i s with
  | .next t => some ((t.thr 0).fcause.toNat, (t.thr 0).fsub.toNat, (t.thr 0).faddr.toNat)
  | _ => none

/-- The base state with the given lanes of vector registers of thread 0. -/
def withV (l : List (Nat × Nat × Nat)) : State :=
  l.foldl (fun s e => s.putV 0 e.1 (FMap.get 0 (s.core 0).vfile ((s.thr 0).vbase * 4 + e.1) ||| BitVec.ofNat 4096 (e.2.2 * 2 ^ (32 * e.2.1)))) base

/-- R70's table. -/
theorem test_divide_i32_by_zero : gOut (.div .i32 3 4 5) (withG [(4, 7), (5, 0)]) 3 = some 0xFFFFFFFFFFFFFFFF := by decide +kernel
theorem test_divide_n32_by_zero : gOut (.div .n32 3 4 5) (withG [(4, 7), (5, 0)]) 3 = some 0x00000000FFFFFFFF := by decide +kernel
theorem test_rem_by_zero : gOut (.rem .i32 3 4 5) (withG [(4, -7), (5, 0)]) 3 = some (-7) := by decide +kernel
theorem test_rem_i8 : gOut (.rem .i8 3 4 5) (withG [(4, -7), (5, 2)]) 3 = some (-1) := by decide +kernel
theorem test_add_i8_wraps : gOut (.add .i8 false 3 4 5) (withG [(4, 100), (5, 100)]) 3 = some 0xFFFFFFFFFFFFFFC8 := by decide +kernel
theorem test_add_i8_sat : gOut (.add .i8 true 3 4 5) (withG [(4, 100), (5, 100)]) 3 = some 127 := by decide +kernel
theorem test_mulh_n64 : gOut (.mulh .n64 3 4 5) (withG [(4, 0xFFFFFFFFFFFFFFFF), (5, 2)]) 3 = some 1 := by decide +kernel
/-- R69: NEG of an unsigned type saturates to 0; ABS of the lowest value wraps to itself. -/
theorem test_neg_unsigned_sat : gOut (.neg .n16 true 3 4) (withG [(4, 5)]) 3 = some 0 := by decide +kernel
theorem test_abs_lowest : gOut (.abs .i16 false 3 4) (withG [(4, 0x8000)]) 3 = some 0xFFFFFFFFFFFF8000 := by decide +kernel

/-- R77's table. -/
theorem test_clz_w16 : gOut (.clz .w16 3 4) (withG [(4, 0x0000800100F00100)]) 3 = some 0x0010000000080007 := by decide +kernel
theorem test_ffs_w16 : gOut (.ffs .w16 3 4) (withG [(4, 0x0000800100F00100)]) 3 = some 0x0010000000040008 := by decide +kernel
theorem test_popc_w16 : gOut (.popc .w16 3 4) (withG [(4, 0x0000800100F00100)]) 3 = some 0x0000000200040001 := by decide +kernel
theorem test_brev_w16 : gOut (.brev .w16 3 4) (withG [(4, 0x0000800100F00100)]) 3 = some 0x000080010F000080 := by decide +kernel
theorem test_bswap_w32 : gOut (.bswap .w32 3 4) (withG [(4, 0x0000800100F00100)]) 3 = some 0x018000000001F000 := by decide +kernel
/-- R74: each element is shifted by its own amount modulo the width; no bit crosses. -/
theorem test_shl_w8 : gOut (.shl .w8 3 4 5) (withG [(4, 0x81FF), (5, 0x0109)]) 3 = some 0x02FE := by decide +kernel
theorem test_sra_w16 : gOut (.sra .w16 3 4 5) (withG [(4, 0x80000010), (5, 0x00040004)]) 3 = some 0xF8000001 := by decide +kernel
theorem test_rol_w32 : gOut (.rol .w32 3 4 5) (withG [(4, 0x80000001), (5, 33)]) 3 = some 3 := by decide +kernel
theorem test_bfi : gOut (.bfi 3 4 8 7) (withG [(3, 0x111111), (4, 0xAB)]) 3 = some 0x11AB11 := by decide +kernel
theorem test_movhi : gOut (.movhi 3 0x12345678) (withG [(3, 0xFFFFFFFFFFFFFFFF)]) 3 = some 0x12345678FFFFFFFF := by decide +kernel
/-- R81: a counter of 0 stays 0 and the loop is left; R80: a branch compares unsigned for .lo. -/
theorem test_branch_unsigned : condHolds .lo 1 (-1) = true ∧ condHolds .lt 1 (-1) = false ∧ condHolds .hs (-1) 1 = true ∧ condHolds .ge (-1) 1 = false := by
  decide

/-- The table under R181: 0.3, 2.5, −7, 300, 500 and 70,000 and NaN in E4M3, E5M2, E2M1 and INT8. -/
theorem test_encodings : let x := fun (c : Nat) => Num.decode Num.f32 c
    ([0x3E99999A, 0x40200000, 0xC0E00000, 0x43960000, 0x43FA0000, 0x4788B800, 0x7FC00000].map fun c =>
      (encodeFmt [] [] 2 false (x c), encodeFmt [] [] 2 true (x c), encodeFmt [] [] 3 false (x c), encodeFmt [] [] 3 true (x c),
        encodeFmt [] [] 4 false (x c), encodeFmt [] [] 0 false (x c))) =
    [(0x2A, 0x2A, 0x35, 0x35, 0x1, 0x00), (0x42, 0x42, 0x41, 0x41, 0x4, 0x02), (0xCE, 0xCE, 0xC7, 0xC7, 0xF, 0xF9),
      (0x79, 0x79, 0x5D, 0x5D, 0x7, 0x7F), (0x7F, 0x7E, 0x60, 0x60, 0x7, 0x7F), (0x7F, 0x7E, 0x7C, 0x7B, 0x7, 0x7F),
      (0x7F, 0x7F, 0x7E, 0x7E, 0x0, 0x00)] := by decide +kernel

/-- The example under R197: 2^24 + 1 + 1 along the tree of VRED, and in ascending order by VSCAN. -/
theorem test_vred_tree : laneOut (.vred .add (.flt .f32 .rne) none (.v 8) (.v 9)) (withV [(9, 0, 0x4B800000), (9, 1, 0x3F800000), (9, 65, 0x3F800000)]) 8 0 =
    some 0x4B800001 := by decide +kernel
theorem test_vscan_ascends : laneOut (.vscan .add (.flt .f32 .rne) none (.v 10) (.v 9))
    (withV [(9, 0, 0x4B800000), (9, 1, 0x3F800000), (9, 65, 0x3F800000)]) 10 127 = some 0x4B800000 := by decide +kernel
/-- R191: 1/−0 is −∞; √−0 is −0; log₂ 1 is +0; sin of half a turn is a zero of the sign of x. -/
theorem test_special_functions :
    laneOut (.vrcp .rne none (.v 2) (.v 1)) (withV [(1, 5, 0x80000000)]) 2 5 = some 0xFF800000 ∧
    laneOut (.vsqrt .rne none (.v 2) (.v 1)) (withV [(1, 5, 0x80000000)]) 2 5 = some 0x80000000 ∧
    laneOut (.vsin .rne none (.v 2) (.v 1)) (withV [(1, 5, 0xBF000000)]) 2 5 = some 0x80000000 := by decide +kernel
/-- R196: VROT turns toward lane 0, VPERM gives 0 where bit 31 of the index is set. -/
theorem test_vrot : laneOut (.vrot none (.v 2) (.v 1) 3) ((withV [(1, 2, 7)]).putG 0 3 3) 2 127 = some 7 := by decide +kernel
theorem test_vperm : laneOut (.vperm none (.v 2) (.v 1) (.v 3)) (withV [(1, 0, 9), (3, 4, 0x80000000), (3, 5, 128)]) 2 4 = some 0 ∧
    laneOut (.vperm none (.v 2) (.v 1) (.v 3)) (withV [(1, 0, 9), (3, 4, 0x80000000), (3, 5, 128)]) 2 5 = some 9 := by decide +kernel

/-- The fold and merge worked in the chapter on means: POWER with p = 2. -/
theorem test_mean_fold_and_merge : let sh := shapeOfQsp 0x0020 fun _ => none
    (sh.bind fun sh => Claim.laneValue (foldLane sh ⟨0, 0, 0⟩ 0x40000000)) = some ⟨0x3F800000, 1, 0x40000000⟩ ∧
    (sh.bind fun sh => Claim.laneValue (foldLane sh ⟨0x3F800000, 1, 0x40000000⟩ 0x3F800000)) = some ⟨0x3FA00000, 2, 0x40000000⟩ ∧
    (sh.bind fun sh => Claim.laneValue (foldLane sh ⟨0x3FA00000, 2, 0x40000000⟩ 0x40800000)) = some ⟨0x3FA80000, 3, 0x40800000⟩ ∧
    (sh.bind fun sh => Claim.laneValue (mergeLane sh ⟨0x3FA80000, 3, 0x40800000⟩ ⟨0x3F800000, 1, 0x41000000⟩)) = some ⟨0x3FAA0000, 4, 0x41000000⟩ ∧
    (sh.bind fun sh => Claim.laneValue (finLane sh ⟨0x3FAA0000, 4, 0x41000000⟩ 0)) = some 0x40938341 ∧
    (sh.bind fun sh => Claim.laneValue (finLane sh ⟨0x3FA80000, 3, 0x40800000⟩ 0)) = some 0x402953FD := by decide +kernel

/-- The same chapter: under p = −1 a term of 0 in lane 3 is a domain error. -/
theorem test_mean_domain : (shapeOfQsp 0x0FF0 fun _ => none).bind (fun sh => Claim.laneValue (foldLane sh ⟨0, 0, 0⟩ 0)) = none := by decide +kernel

/-- The three contributors of the chapter on tiles: P = [0, 8), Q = [4, 12), S = [8, 16) of K = 16. -/
theorem test_three_contributors :
    let c := fun lo n => ({ handle := 0, klo := lo, kn := n, intMode := false, anyMode := false, nan := false, tenant := 0, vals := []
                            unit := ⟨0, 0, 0, 0⟩, src := ⟨0, 0, 0, 0⟩, reg := 0 } : Contribution)
    let offer := fun (t : TileSlot) (c : Contribution) => (t.take c (lateCode t c), (fullReceipt (t.take c (lateCode t c)) (lateCode t c)).toNat)
    let t : TileSlot := { TileSlot.reset with k := 16, st := .open }
    let p := offer t (c 0 8)
    let q := offer p.1 (c 4 8)
    let s := offer q.1 (c 8 8)
    p.2 = 0x1100 ∧ q.2 = 0x1101 ∧ s.2 = 0x2900 ∧ s.1.frags = [(0, 16)] ∧
    let q := offer t (c 4 8)
    let p := offer q.1 (c 0 8)
    let s := offer p.1 (c 8 8)
    let p := offer s.1 (c 0 4)
    let s' := offer p.1 (c 12 4)
    q.2 = 0x1100 ∧ s.2 = 0x1101 ∧ p.2 = 0x2100 ∧ s'.2 = 0x3900 := by decide +kernel

/-- R346: TRAP faults with its low byte as the subcode and its whole operand as the address; R74: a shift by the width is refused. -/
theorem test_trap : faultOut (.trap 0x1234) base = some (0x11, 0x34, 0x1234) := by decide +kernel
theorem test_shift_by_width : faultOut (.shli .w8 1 2 8) base = some (0x01, 0x06, 0) := by decide +kernel

/-! ## Witnesses: states and operands that meet the hypotheses of the statements -/

/-- Thread 63 of core 0, which alone may run communication (R319). -/
def base63 : State := (base.updThr 63 fun h => { h with st := .run }).updThr 63 fun h => h
def commState : State := { base63 with cur := 63 }

/-- The base state with core 1 of the same tenant, whose thread 0 waits for work with windows as large as the leader's. -/
def gangState : State :=
  (base.updCore 1 fun c => { c with assigned := true, tenant := (base.core 0).tenant }).updThr 64 fun h =>
    { h with gbase := 0, wl := 16, vbase := 0, vl := 16, st := .wfw }

/-- A plain access to ULM. -/
def ulm : Mcw := ⟨.ulm, .plain, false, false⟩

/-- The scalar, control and thread instructions may run in the base state. -/
theorem witness_scalar : ∀ i ∈ ([.add .i64 false 3 4 5, .sub .i8 true 3 4 5, .mul .n8 true 3 4 5, .mulh .i64 1 2 3, .addi 1 2 3, .lea 1 2 3,
    .min .i8 1 2 3, .max .n64 1 2 3, .abs .i8 true 1 2, .neg .n8 true 1 2, .div .i8 1 2 3, .rem .n32 1 2 3, .sext .w8 1 2, .zext .w64 1 2,
    .and 1 2 3, .or 1 2 3, .xor 1 2 3, .andn 1 2 3, .orn 1 2 127, .shl .w8 1 2 3, .shr .w16 1 2 3, .sra .w32 1 2 3, .rol .w64 1 2 3,
    .shli .w8 1 2 7, .shri .w64 1 2 63, .srai .w16 1 2 15, .bfx 1 2 63 0, .bfi 1 2 0 63, .clz .w8 1 2, .ffs .w8 1 2, .popc .w8 1 2,
    .brev .w8 1 2, .bswap .w16 1 2, .cmpeq .i8 1 2 3, .cmpne .i8 1 2 3, .cmplt .n8 1 2 3, .cmple .i64 1 2 3, .sel 1 2 3 4, .movi 1 5, .movhi 1 5,
    .mov 1 2, .movToLc 1 2, .movFromLc 1 0, .br .lo 1 2 64, .jmp 64, .jmpr 1, .call 1 64, .callr 1 2, .ret 1, .loop 0 64, .isync, .nop,
    .tid 1, .cyc 1, .cget 1 31, .cset 31 1, .yield, .wfw, .doneOp, .signal 1, .disband, .gang .two, .fence .sys] : List Instr), Ready base i := by
  unfold Ready; decide +kernel

/-- R74, R75: the limits at which the forms complete and stop. -/
theorem witness_shift_limits : (7 < widBits .w8 ∧ widBits .w8 ≤ 8) ∧ (63 + 0 < 64 ∧ 64 < 63 + (1 + 1)) := by decide

/-- No follower, a follower, and frames that complete: both sides of R100. -/
theorem witness_follower : base.isFollower = false ∧ base.guard (.add .i64 false 3 4 5) = none ∧ scalarDest (.add .i64 false 3 4 5) = some 3 ∧
    Ready (base.updThr 0 fun h => { h with grole := 2, leader := some 64 }) (.movToLc 0 3) ∧
    (base.updThr 0 fun h => { h with grole := 2, leader := some 64 }).isFollower = true := by
  unfold Ready; decide +kernel

/-- R82: targets of each clause; the held line of the base state passes its check at the first bundle and fails it elsewhere. -/
theorem witness_targets : (0x28002 : Nat) / 64 * 64 = 0x28000 ∧ (0x27FC2 : Nat) / 64 * 64 < 0x28000 ∧
    ((base.thr 0).line.map fun l => (l.base, l.check 2)) = some (0, none) ∧
    ((base.thr 0).line.bind fun l => l.check 62) ≠ none := by decide +kernel

/-- R66, R341: a shared register without and with an uncorrectable error, and no CSET still to come. -/
theorem witness_shared : (3 : CReg).toNat ∉ base.rd.defects.cregs ∧ (base.core 0).csets = [] ∧
    Ready (base.updCore 0 fun c => { c with defects := { c.defects with cregs := [3] } }) (.cget 1 3) ∧
    (3 : CReg).toNat ∈ (base.updCore 0 fun c => { c with defects := { c.defects with cregs := [3] } }).rd.defects.cregs := by
  unfold Ready; decide +kernel

theorem witness_task_end : base.me.grole = 0 ∧ base.wfwWaits = false ∧ base.pipeOf = none ∧ base.me.node = 0xFFFFFFFF#32 ∧
    base.waits (!base.released) = false ∧ base.waits (!base.nothingPending) = false ∧
    Ready (base.updThr 0 fun h => { h with node := 5 }) .doneOp ∧ (base.updThr 0 fun h => { h with node := 5 }).wfwWaits = false ∧
    (base.updThr 0 fun h => { h with node := 5 }).pipeOf = none ∧ (base.updThr 0 fun h => { h with node := 5 }).me.node ≠ 0xFFFFFFFF#32 ∧
    Ready (base.updThr 0 fun h => { h with grole := 1 }) .disband := by
  unfold Ready; decide +kernel

theorem witness_gang : Ready gangState (.gang .two) ∧ gangState.me.grole = 0 ∧ gangPlaced .two (gangState.ck % 16) = true ∧
    gangState.waits (!gangState.nothingPending) = false ∧ gangFollowers .two gangState.cur = [64] ∧
    (gangState.thr 64).st = .wfw ∧ (gangState.thr 64).grole = 0 ∧ (gangState.core 1).assigned = true ∧ (gangState.core 1).tenant = gangState.myTenant ∧
    gangState.me.wl ≤ (gangState.thr 64).wl ∧ gangState.me.vl ≤ (gangState.thr 64).vl := by
  unfold Ready; decide +kernel

/-- Accesses to ULM that pass their checks at the lowest and the highest address. -/
theorem witness_accesses : (∀ i ∈ ([.ld .i64 ulm 1 2 0, .st .i64 ulm 2 0 1, .stSig .i64 ⟨.dm, .plain, false, false⟩ 2 0 1 3, .ldv ulm (.v 1) 2 0,
      .stv ulm 2 0 (.v 1), .ldx .i32 ulm (.v 1) 2 0 (.v 2), .stx .i32 ulm 2 0 (.v 1) (.v 2), .spillG true 2 0 3 7, .spillV true 2 0 3 7,
      .fillG true 3 2 0 7, .fillV true 3 2 0 7, .ldfe 1 2 0, .stfe 2 0 1, .ldff 1 2 0, .stff 2 0 1, .amo .add true ulm 1 2 0 3,
      .cas false ulm 1 2 0 3, .amof .add ulm 1 2 0 3, .join ulm 1 2 0, .leave ulm 2 0, .arrive ulm 1 2 0, .arriveBytes ulm 1 2 0 3,
      .waitgen ulm 2 0 1] : List Instr), Ready base i) ∧
    base.rxFull false = false ∧ base.checkAccess .ulm 0 8 8 (.ld 8) = .ok (.buf 0 .ulm 0) 0x100000000000 ∧
    base.checkAccess .ulm 0x27FF8 8 8 (.st 8) = .ok (.buf 0 .ulm 0x27FF8) 0x100000000000 ∧ base.way (.buf 0 .ulm 0) 0x100000000000 = .here ∧
    base.checkFixed .ulm 0 512 512 .ldv = .ok (.buf 0 .ulm 0) 0x100000000000 ∧ base.checkAccess .ulm 0x27E00 512 512 .stv = .ok (.buf 0 .ulm 0x27E00) 0x100000000000 ∧
    base.checkAccess .ulm 0 4 4 .atomic = .ok (.buf 0 .ulm 0) 0x100000000000 ∧ base.checkAccess .ulm 64 64 64 .atomic = .ok (.buf 0 .ulm 64) 0x100000000000 := by
  unfold Ready; decide +kernel


/-- R66: a CSET behind an earlier one of the same core; both are of cycles that have come. -/
theorem witness_shared_delay :
    let s := base.updCore 0 fun c => { c with csets := [{ cycle := 0, reg := 3, val := 1 }] }
    s.began = none ∧ (s.core s.ck).csets.length = 1 ∧ ((s.core s.ck).csets.all fun r => decide (r.cycle ≤ s.cycOf s.ck)) = true ∧ Ready s (.cset 3 4) ∧
    (match exec (.cset 3 4) s with | .next _ => true | _ => false) = true := by
  unfold Ready; decide +kernel

/-- A gather with every lane active, at addresses that pass, and one with none. -/
theorem witness_gather :
    (activeLanes 0 (base.rdV (.v 2))).length = 128 ∧ ((activeLanes 0 (base.rdV (.v 2))).all fun x =>
      match base.checkFixed .ulm x.2 4 4 .ldx, base.checkAccess .ulm x.2 4 4 .stx with | .ok _ _, .ok _ _ => true | _, _ => false) = true ∧
    activeLanes 0 ((base.putV 0 2 (BitVec.ofNat 4096 (0x80000000 * ((2 ^ 4096 - 1) / (2 ^ 32 - 1))))).rdV (.v 2)) = [] ∧ Ready (base.putV 0 2 (BitVec.ofNat 4096 (0x80000000 * ((2 ^ 4096 - 1) / (2 ^ 32 - 1))))) (.ldx .i32 ulm (.v 1) 2 0 (.v 2)) := by
  unfold Ready; decide +kernel

/-- Spills and fills of eight blocks that all lie in this package, and with FPROG beyond the last. -/
theorem witness_spills :
    base.me.fprog.toNat < 8 ∧
    ((runBlocks base true (base.rdG 2) 8 8 .spill ++ runBlocks base true (base.rdG 2) 512 8 .spill).all fun x =>
      match x.2.2 with | .ok _ _ => true | _ => false) = true ∧
    ((runBlocks base true (base.rdG 2) 8 8 .fill ++ runBlocks base true (base.rdG 2) 512 8 .fill).all fun x =>
      match x.2.2 with | .ok p g => base.way p g == .here && !p.isRemote | _ => false) = true ∧
    (let s := base.updThr 0 fun h => { h with fprog := 8 }
     8 ≤ s.me.fprog.toNat ∧ Ready s (.spillG true 2 0 3 7) ∧ Ready s (.fillV true 3 2 0 7)) := by
  unfold Ready; decide +kernel

/-- R70, R106, R144: operands in range; quotients that exist; records at the limits of their fields. -/
theorem witness_rules :
    (val (-7) .i8 = -7 ∧ val 2 .i8 = 2 ∧ Int.tdiv (-7) 2 ≤ hi .i8) ∧ (2 ^ 64 - 1 < 2 ^ (if true then 64 else 32)) ∧ (2 ^ 32 - 1 < 2 ^ (if false then 64 else 32)) ∧
    (let c : Conj := { gen := 2 ^ 32 - 1, members := 0xFFFE, pending := 1, bytes := 2 ^ 31 - 1 }
     c.gen < 2 ^ 32 ∧ c.members < 2 ^ 16 ∧ c.pending < 2 ^ 16 ∧ c.bytes < 2 ^ 31 ∧ c.members ≠ 0xFFFF) := by decide
/-- An operation of the matrix queue of core 0, with its receipt in g1 of thread 0. -/
def mxe (op : MxOp) : MxEntry :=
  { id := 0, thr := none, tenant := 0, rcpt := ⟨0, 0, 0, 0⟩, reg := 1, op := op, tabA := [], tabB := [], bad := none }

/-- The base state with operation op at the head of core 0's matrix queue. -/
def mxState (op : MxOp) : State :=
  { base with subj := 0 }.updCore 0 fun c => { c with mx := { c.mx with
    queue := [mxe op], inc := (match op with | .bld _ _ _ => .filling | _ => .received), moved := (match op with | .brot false => some 0 | _ => none) } }

/-- The base state with slot 0 of core 0 as t. -/
def tileState (t : TileSlot) : State := base.updSlot 0 0 fun _ => t
def openTile : TileSlot := { TileSlot.reset with k := 16, st := .open }
def fullTile : TileSlot := { openTile with st := .complete, frags := [(0, 16)] }

/-- The base state with message m in transit, as item 7 and subject of the next event. -/
def netState (s : State) (m : NetMsg) : State := { s with net := s.net ++ [{ id := 7, msg := m, ingress := none }], subj := 7 }

def contrib (k n : Nat) : Contribution :=
  { handle := 0, klo := k, kn := n, intMode := false, anyMode := false, nan := false, tenant := 0, vals := []
    unit := ⟨0, 0, 0, 0⟩, src := ⟨0, 0, 0, 0⟩, reg := 1 }

/-- A stream of thread 0 over ten vectors, bound to q0. -/
def streamState : State := base.updCore 0 fun c =>
  { c with q := [(0, { thread := 0, desc := .affine false .ulm 512 0 1 1 0 0 0, pos := 0, tail := 0, fetched := [], lent := [], bound := 0 })] }

/-- The vector, mask and conversion instructions may run in the base state, whose shadow units have no defect. -/
theorem witness_vector : (∀ i ∈ ([.vadd (.int .b8 false true) (some 1) (.v 1) (.v 2) (.v 3), .vsub (.flt .f16 .rtz) none (.v 1) (.v 2) (.v 3),
    .vmul (.flt .bf16 .rne) none (.v 1) (.v 2) (.v 3), .vmin (.int .b16 true false) none (.v 1) (.v 2) (.v 3), .vmax (.flt .f32 .rne) none (.v 1) (.v 2) (.v 3),
    .vabs (.flt .f32 .rne) none (.v 1) (.v 2), .vneg (.int .b32 false true) none (.v 1) (.v 2), .vfma (.flt .f32 .rup) none (.v 1) (.v 2) (.v 3),
    .vfms (.flt .f32 .rdn) none (.v 1) (.v 2) (.v 3), .vdiv .rne none (.v 1) (.v 2) (.v 3), .vsqrt .rne none (.v 1) (.v 2), .vrcp .rne none (.v 1) (.v 2),
    .vrsq .rne none (.v 1) (.v 2), .vexp2 .rne none (.v 1) (.v 2), .vlog2 .rne none (.v 1) (.v 2), .vsin .rne none (.v 1) (.v 2), .vcos .rne none (.v 1) (.v 2),
    .vand none (.v 1) (.v 2) (.v 3), .vor none (.v 1) (.v 2) (.v 3), .vxor none (.v 1) (.v 2) (.v 3), .vshl .b8 none (.v 1) (.v 2) (.v 3),
    .vshr .b16 none (.v 1) (.v 2) (.v 3), .vsra .b32 none (.v 1) (.v 2) (.v 3), .vclz .b8 true none (.v 1) (.v 2), .vffs .b8 true none (.v 1) (.v 2),
    .vpopc .b8 true none (.v 1) (.v 2), .vmov none (.v 1) (.v 2), .vbcast none (.v 1) 2, .vins none (.v 1) 2 3, .vext 1 (.v 2) 3, .vperm none (.v 1) (.v 2) (.v 3),
    .vrot none (.v 1) (.v 2) 3, .viota none (.v 63), .vcmp .le .n32 7 (.v 1) (.v 2), .vsel 1 (.v 1) (.v 2) (.v 3), .mand 1 2 3, .mor 1 2 3, .mxor 1 2 3,
    .mnot 1 2, .mpop 1 2, .mfirst 1 2, .vred .max (.int .b8 true false) none (.v 1) (.v 2), .vscan .add (.flt .f32 .rne) none (.v 1) (.v 2),
    .vcvt (.i32_f32 .rtz true) none (.v 1) (.v 2), .vpack .w8 none (.v 1) (.v 2) (.v 3), .vunpk .w16 true none (.v 1) (.v 2), .vdec .a none (.v 1) (.v 2),
    .venc .b true none (.v 1) (.v 2), .dtld .a 1 0] : List Instr), Ready base i) ∧ base.rd.defects.vector = [] ∧ (base.fmtReg .a).toNat < 14 ∧
    (base.rdG 1 + (0 : Off16).signExtend 64).toNat + 1024 ≤ 0x28000 ∧ base.ulmWaits = false ∧ (base.ulmBlock 0 1024).2 = none ∧ base.rdM 2 = 0 ∧ ((base.putM 0 2 8).rdM 2).getLsbD 3 = true := by
  unfold Ready; decide +kernel

/-- Codes at the ends of each format's range that are no NaN. -/
theorem witness_codes : ([Num.f32, Num.f16, Num.bf16, Num.e4m3, Num.e5m2, Num.e2m1, Num.e3m2, Num.e2m3, Num.e8m10].all fun f =>
    !Num.isNan (Num.decode f 0) && !Num.isNan (Num.decode f (2 ^ (f.width - 1))) && !Num.isNan (Num.decode f 1)) = true := by decide +kernel

/-- Operands that pass the checks of R209 to R218, from AB and from a stream, with room in the queue. -/
theorem witness_matrix : (∀ i ∈ ([.mmaAb 1 2 3 4, .mmasK16Ab 1 2 3 4 5, .mmasK8Ab 1 2 3 4 5, .bld 6, .brot, .swapt 3 7, .ldt 8 3, .mcmd 1 2 3] : List Instr),
      Ready (base.putG 0 6 (2 ^ 32)) i) ∧ QueueRoom base ∧
    (mmaCheck (mmaOperands base 2 4 32 (some 3) none) none).toOption = some false ∧ (mmaCheck (mmaOperands base 2 4 8 (some 3) (some 5)) none).toOption = some false ∧
    (mmaCheck (mmaOperands base 2 4 16 (some 3) (some 5)) none).toOption = some false ∧ (bldCheck (2 ^ 32) 8).toOption = some (0, 1) ∧
    (∀ i ∈ ([.mmaStream 1 2 0 4, .mmasK16Stream 1 2 0 4 5, .mmasK8Stream 1 2 0 4 5] : List Instr), Ready streamState i) ∧
    (streamState.stream 0).isSome = true ∧ (mmaCheck (mmaOperands streamState 2 4 32 none none) (some 4)).toOption = some false ∧
    Ready ({ base with cur := 64 }.updThr 64 fun h => { h with gbase := 0, wl := 16 }) (.swapt 3 7) ∧
    base.waits (!base.portClear base.ck .ab base.issuePlace) = false ∧ (base.core 0).ab.badIn 0 4096 = none ∧ (base.ulmBlock 64 64).2 = none ∧
    base.ulmWaits = false ∧ base.scalesNow false = false ∧ handlePkg (base.rdG 2) = base.pkg ∧
    (let s := { base.updThr 0 fun h => { h with scla := 0x80000000 } with began := some (base.issueNow 0 [.stff 2 0 1, .mmaAb 1 2 3 4]) }
     s.scalesNow false = true ∧ s.ulmWaits = false) := by
  unfold Ready QueueRoom; decide +kernel

theorem witness_matrix_queue : (mxState (.brot true)).mxReady 0 = true ∧ (mxState (.bld 0 1 8)).mxReady 0 = true ∧
    (mxState (.tcont 0 0 4 [])).mxReady 0 = true ∧ (mxState (.mma (.ab 0) 32 none 8 false 0 0 0 0 0 4)).mxReady 0 = true ∧
    ((mxState (.brot false)).core (1 / 16 * 16 + ringBefore (1 % 16))).mx.queue = [mxe (.brot false)] ∧
    (({ mxState (.brot false) with subj := 1 }).core 1).mx.inc = .empty ∧
    (((mxState (.brot false)).core (1 / 16 * 16 + ringBefore (1 % 16))).mx.moved.any fun m => decide (m ≤ (mxState (.brot false)).cycOf 0)) = true ∧
    (mxState (.mma (.ab 0) 32 none 8 false 0 0 0 0 0 4)).mxBad 0 (mxe (.brot true)) (.ab 0) 32 none 8 false 0 0 0 4 = none := by decide +kernel

/-- Cores 1 and 4 are partners of an exchange; both ports are clear. -/
theorem witness_exchange : let w := fun (n : Nat) => ({ id := n, thread := 0, addr := 0, len := 64 } : Swap)
    let s := ((base.updCore 1 fun c => { c with mx := { c.mx with swaps := [w 0] } }).updCore 4 fun c => { c with mx := { c.mx with swaps := [w 1] } })
    let u : State := { s with subj := 1 }
    transposed 1 = 4 ∧ (u.core 1).mx.swaps = [w 0] ∧ (u.core (transposed 1)).mx.swaps = [w 1] ∧ u.portClear 1 .ab 0 = true ∧ u.portClear 4 .ab 1 = true ∧
    u.memOk = true := by decide +kernel

/-- A decode table and a table pair whose time has come; nothing of the matrix queue decodes with the old table. -/
theorem witness_tables :
    let l : TabLoad := { thread := 0, b := true, entries := [(3, 5)], issued := 0, due := 0 }
    let m : MeanLoad := { id := 0, thread := 0, n := 1, pair := { elo := 0, ehi := 0, xlo := 0, xhi := 0, rescale := .none, f := [], g := [] }, due := 0 }
    let s := { base with subj := 0 }.updCore 0 fun c => { c with tabs := { c.tabs with loading := [l] }, means := { c.means with loading := [m] } }
    (s.core 0).tabs.loading = [l] ∧ (s.core 0).means.loading = [m] ∧ l.due ≤ s.cycOf 0 ∧ (s.core 0).mx.queue = [] ∧ s.dtldAhead 0 l = false ∧ s.memOk = true := by
  decide +kernel

/-- A command for a core of the tenant, with its capability, with another, and for one that was saved with the tenant. -/
theorem witness_command :
    let m : MCommand := { kind := 0, fmtA := 8, fmtB := 8, scla := 0, sclb := 0, handle := 0, interval := 0, aaddr := 0, bload := 0, capt := (base.core 0).capt
                          tenant := 0, target := ⟨0, 0, 0, 0⟩, src := ⟨0, 0, 0, 0⟩, reg := 1 }
    let s := netState base (.mcmd m)
    (s.mcmdsTo 0).head?.map (·.1) = some s.subj ∧ s.mcmdAdmits 0 m = true ∧ (s.core 0).assigned = true ∧ (s.core 0).capt = m.capt ∧
    let u := { (s.updCore 0 fun c => { c with assigned := false }).updTenant 0 fun t => { t with preempted := true } with
      saved := [{ tenant := 0, cores := [(0, base.core 0)], strips := [] }] }
    u.mcmdAdmits 0 m = true ∧ (FMap.find? [(0, base.core 0)] 0).map (·.capt) = some m.capt ∧
    (s.tenant (s.core 0).tenant).preempted = false ∧ (s.core 0).capt ≠ m.capt + 1 ∧ mcmdOk (List.replicate 64 0) { m with capt := 0 } = true := by decide +kernel

/-- Handles of slot 0: of an open, a complete and a free tile. -/
theorem witness_tiles : (∀ i ∈ ([.tcont 1 2 8 3, .tstat 1 2, .tread 8 true false 3 0 2, .twait 2, .taban 2, .tfree 2, .tpeek 8 2] : List Instr),
      Ready (tileState fullTile) i) ∧ Ready (base.putG 0 2 16) (.talloc false 1 2) ∧
    handleOk ((tileState fullTile).rdG 2) = true ∧ handlePkg ((tileState fullTile).rdG 2) = (tileState fullTile).pkg ∧
    handleCore ((tileState fullTile).rdG 2) = (tileState fullTile).ck ∧ ((tileState fullTile).slotOf 0).gen = handleGen 0 ∧
    ((tileState fullTile).slotOf 0).st = .complete ∧ ((tileState fullTile).slotOf 0).covered = true ∧ ((tileState fullTile).slotOf 0).poison = false ∧
    0 + 128 * treadWidth 8 ≤ 0x30000 ∧ ((base.core 0).slot 0).st = .free ∧ ((base.core 0).slot 0).landing = [] ∧
    base.began = none ∧ base.ahead base.ck base.issuePlace .tiles = false ∧ (tileState fullTile).ahead 0 (tileState fullTile).issuePlace .tiles = false ∧
    (tileState fullTile).waits (!(tileState fullTile).portClear 0 .ab (tileState fullTile).issuePlace) = false ∧ QueueRoom base ∧
    ((tileState openTile).core 0 |>.slot 0).st = .open ∧ ((tileState openTile).core 0 |>.slot 1).st = .free := by
  unfold Ready QueueRoom; decide +kernel

/-- A contribution in transit to an open tile; accepted, overlapping, out of range, and seven fragments. -/
theorem witness_contribution :
    let s := netState (tileState openTile) (.contribution (contrib 0 16))
    s.net.find? (fun j => j.id == s.subj) = some { id := 7, msg := .contribution (contrib 0 16), ingress := none } ∧ handlePkg (contrib 0 16).handle = s.pkg ∧
    s.contributionBehind s.subj (contrib 0 16) = false ∧ (s.tenant openTile.tenant).preempted = false ∧ handleGen 0 = openTile.gen ∧
    lateCode openTile (contrib 0 16) = 0 ∧ lateCode openTile (contrib 0 17) = 7 ∧ lateCode { openTile with frags := [(0, 1)] } (contrib 0 1) = 1 ∧
    lateCode { openTile with k := 99, frags := [(0, 1), (2, 3), (4, 5), (6, 7), (8, 9), (10, 11)] } (contrib 12 1) = 2 ∧
    lateCode { openTile with k := 99, frags := [(0, 1), (2, 3), (4, 5), (6, 7), (8, 9), (10, 11)] } (contrib 11 1) = 0 ∧
    mergeFrag 1 2 [(0, 1), (2, 3)] = [(0, 3)] := by decide +kernel

theorem witness_addition_and_receipt :
    ((tileState { fullTile with st := .open, landing := [[]] }).core 0 |>.slot 0).landing = [[]] ∧
    (({ fullTile with st := .open, landing := [[]] } : TileSlot).land).st = .complete ∧
    (netState (base.pend 0 (.g 1) none) (.receipt ⟨0, 0, 0, 0⟩ 1 0x1100)).netHere 7 = some { id := 7, msg := .receipt ⟨0, 0, 0, 0⟩ 1 0x1100, ingress := none } ∧
    ((base.pend 0 (.g 1) none).thr 0).pend.any (fun m => decide (m.reg = .g 1) && decide (m.ready = none)) = true := by decide +kernel

/-- The mean instructions in the base state, whose shape is valid and whose triples are empty. -/
theorem witness_means : (∀ i ∈ ([.qshape 0x0020, .qclr none 1, .qacc true (some 1) 1 (.v 8), .qmerge none 1 4, .qred none 1, .qfin true none 1 (.v 8), .qtld 1 1 0] : List Instr),
      Ready base i) ∧ qshapeOk 0x0020 = true ∧ base.shape.isSome = true ∧ base.rd.defects.mean = [] ∧
    (base.shape.bind fun sh => Claim.laneValue (foldLane sh (base.trip 1 0) 0x3F800000)).isSome = true ∧
    (base.shape.bind fun sh => Claim.laneValue (mergeLane sh (base.trip 1 0) (base.trip 4 0))).isSome = true ∧
    (base.shape.bind fun sh => Claim.laneValue (finLane sh (base.trip 1 0) 0)).isSome = true := by
  unfold Ready; decide +kernel

/-- R257: a lane in domain error, of the shape of which a term of 0 is one, in the form that gathers errors. -/
theorem witness_mean_gather : let s := base.updThr 0 fun h => { h with qsp := 0x0FF0 }
    Ready s (.qacc true none 1 (.v 8)) ∧ s.shape.isSome = true ∧ s.rd.defects.mean = [] ∧ (s.mask none).getLsbD 3 = true ∧
    (s.shape.bind fun sh => Claim.laneValue (foldLane sh (s.trip 1 3) (elem 32 (s.rdV (.v 8)) 3))) = none := by
  unfold Ready; decide +kernel

/-- R259: the tree of empty triples has one root. -/
theorem witness_mean_tree : (base.shape.map fun sh =>
    match qredTree sh 7 (List.replicate 128 Trip.empty) [] with | .ok ([_], _) => true | _ => false) = some true := by decide +kernel


theorem read_getD (m : Machine.Mem) (a n i : Nat) : ((m.read a n)[i]?).getD 0 = if i < n then m.byte (a + i) else 0 := by
  by_cases h : i < n <;> simp [Mem.read, h]
/-- A block of zeros but for EHI and XHI, which hold 1.0, is well formed (R250). -/
theorem witness_table_pair :
    (parsePair (({ cells := [(6, 0x80), (7, 0x3F), (14, 0x80), (15, 0x3F)], bad := [] } : Machine.Mem).read 0 2240)).isSome = true := by
  simp only [parsePair, field, slice, read_getD]
  decide +kernel

/-- The base state with the ULM of core 0 as listed. -/
def withUlm (l : List Host.Cell) (s : State) : State := s.updCore 0 fun c => { c with ulm := { cells := l, bad := [] } }

/-- Descriptors in ULM at address 0: of a stream of one vector, of a grid of eight cells, and of a communicator of two ranks. -/
def streamCells : List Host.Cell := [(4, 1), (16, 1), (20, 1)]
def gridCells : List Host.Cell := [(0, 1), (1, 1), (2, 1), (3, 1), (8, 5), (10, 8), (12, 1), (14, 1), (16, 8), (20, 1), (24, 1)]
def commCells : List Host.Cell := [(0, 1), (2, 2), (6, 1), (7, 1), (8, 1), (12, 64), (21, 16), (25, 32), (64, 1), (96, 1)]

theorem witness_streams :
    (∀ i ∈ ([.sbind 0 2, .sbind 4 2] : List Instr), Ready (withUlm streamCells base) i) ∧ FMap.find? base.rd.q 0 = none ∧
    base.waits base.storesUnaccepted = false ∧ (withUlm streamCells base).ulmWaits = false ∧ ((withUlm streamCells base).ulmBlock 0 64).2 = none ∧
    (parseStream ((withUlm streamCells base).ulmBlock 0 64).1 true).isSome = true ∧
    (∀ i ∈ ([.sfree 0, .sstatMask 1 0, .sstatPosition 1 0] : List Instr), Ready streamState i) ∧ (streamState.stream 0).isSome = true ∧
    ((streamState.core (0 / 8)).q.any fun e => streamState.mayFetch 0 e.2) = true ∧
    ((base.updCore 0 fun c => { c with q := [(0, { thread := 0, desc := .chanOut 1 0 64 2 0 [] [[1, 2]] 0 0, pos := 0, tail := 0, fetched := [], lent := [], bound := 0 })] }).updCore 1
      fun c => { c with q := [(0, { thread := 0, desc := .chanIn 0 0 64 2 0 0 0 0, pos := 0, tail := 0, fetched := [], lent := [], bound := 0 })] }).memOk = true := by
  unfold Ready; decide +kernel

/-- The shadows of a copy of 64 bytes from AB to ULM, queue 0, with the action of the given kind. -/
def copySh (kind : Word) : List Word := [0, 0, 64, 1, 1, 0, 0, 0, 3 * 256 + 1024, kind, 0]
def copyShadows (s : State) (kind : Word) : State :=
  s.updThr 0 fun h => { h with cp := (List.range 11).zip (copySh kind) }
def copyOp (kind : Word) (offset : Nat) (cancel : Bool) : CopyOp :=
  { id := 0, xid := 3, fence := none, thread := some 0, tenant := 0, shadows := copySh kind, offset := offset, started := true, await := []
    out := [], far := false, after := [], cancel := cancel, settled := false, node := none }
def copyState (op : CopyOp) (st : CopyState) : State :=
  ({ base with subj := 0 }.setQueue 0 0 [op]).setStat 0 { xid := 3, offset := op.offset, cause := 0, queue := 0, st := st, far := false }

theorem witness_copies :
    (∀ i ∈ ([.cpset .from 1, .cpgo 1, .cpqf 1, .cpstat 1 2, .cpwait 2, .cpcan 2] : List Instr), Ready (copyShadows base 0) i) ∧
    copyCheck (copyShadows base 0).me.shadows = none ∧ (copyShadows base 0).launchWaits 0 0 = false ∧ base.cpStat 0 0 = none ∧
    (List.range 8).all (fun q => decide ((base.cpQueue 0 q).length < 16)) = true ∧
    Ready ((copyState (copyOp 0 0 false) .queued).putG 0 2 3) (.cpcan 2) ∧
    ((copyState (copyOp 0 0 false) .queued).cpStat 0 3).map (·.st) = some .queued ∧
    Ready ((copyState (copyOp 0 0 false) .running).putG 0 2 3) (.cpcan 2) ∧ ((copyState (copyOp 0 0 false) .running).cpStat 0 3).map (·.st) = some .running := by
  unfold Ready; decide +kernel

theorem witness_copy_engine :
    (copyState (copyOp 0 0 false) .running).copyMayMove 0 (copyOp 0 0 false) = true ∧
    (copyState { copyOp 0 0 false with fence := some 1 } .running).fencePasses 0 { copyOp 0 0 false with fence := some 1 } 1 = true ∧
    (copyState (copyOp 0 8 true) .running).copyEnds 0 (copyOp 0 8 true) = true ∧
    ([0, 1, 2, 3].all fun k => (copyState (copyOp k 64 false) .running).copyEnds 0 (copyOp k 64 false)) = true ∧
    ((copyState (copyOp 1 64 false) .running).thr 0).uiPend = [] ∧
    (let s : State := { copyState (copyOp 0 0 false) .running with freeCount := 1 }
     (copyOp 0 0 false).stop = none ∧ (copyOp 0 0 false).await = [] ∧ s.cpQueue 0 0 ≠ [] ∧
     ((s.copyBlock 0 (copyOp 0 0 false)).all fun x => decide ((s.readAny (trPlace x.srcTr) 1).length = 1)) = true ∧
     (s.copyBlock 0 (copyOp 0 0 false)).length = 64 ∧ ((s.copyBlock 0 (copyOp 0 0 false)).all fun x => (s.byteFault x).isNone) = true ∧
     ((s.copyBlock 0 (copyOp 0 0 false)).all fun x => !(trPlace x.srcTr).isRemote && !(trPlace x.dstTr).isRemote) = true) := by decide +kernel

theorem witness_user_interrupt :
    uintReady ((base.updThr 0 fun h => { h with uiPend := [(0x42#32, 7#16)] }).thr 0) = true ∧
    Ready (base.updThr 0 fun h => { h with uiIn := true, uipc := 0x42 }) .uiret ∧
    (base.updThr 0 fun h => { h with uiIn := true, uipc := 0x42 }).me.uiIn = true := by
  unfold Ready; decide +kernel

/-- The grid that gridCells describes. -/
def gridDesc : GDesc :=
  { dims := 1, fmt := .f32, inUlm := false, w := 1, rad := 1, depth := 1, base := 0, gid := 5, x := { b := 8, g := 8, o := 0, lo := .none, hi := .none }
    y := { b := 1, g := 1, o := 0, lo := .none, hi := .none }, z := { b := 1, g := 1, o := 0, lo := .none, hi := .none }, const := 0, last0 := 0
    nbr := List.replicate 26 0 }
def gridReg (d : GDesc) : GridReg := { addr := 0, desc := d, tenant := 0, last := 0, tags := [], staged := [] }
def gridState (s : State) (d : GDesc) : State := s.updCore 0 fun c => { c with grid := { c.grid with regs := [gridReg d] } }

/-- A grid with a periodic x dimension, of which the half above core 0 lies elsewhere, receives strips from above. -/
def openGrid : GDesc := { gridDesc with x := { b := 8, g := 16, o := 0, lo := .none, hi := .none } }
def strip (n : Nat) : Strip :=
  { tenant := 0, gid := 5, dst := ⟨0, 0, 0, 0⟩, src := ⟨0, 0, 1, 0⟩, dir := 14, tag := n, fmt := .f32, cells := [0], bad := [] }

theorem witness_grids :
    parseGrid ((withUlm gridCells base).ulmBlock 0 128).1 = some gridDesc ∧ ((withUlm gridCells base).ulmBlock 0 128).2 = none ∧ base.gridsAhead = false ∧
    (gridState base gridDesc).gridsAhead = false ∧ base.waits (!base.acceptedClear) = false ∧ Ready (withUlm gridCells base) (.gdecl 2) ∧
    State.descCheck 0 = none ∧ base.waits (!base.buffersClear) = false ∧ (base.core 0).grid.regs = [] ∧ base.dieGrids 0 = [] ∧ frameBytes gridDesc ≤ 0x400000 ∧
    (∀ i ∈ ([.gld .f32 (.v 1) 2 3 4, .gst .f32 2 3 (.v 1), .gstep 2 5, .gstat 1 2, .gfree 2] : List Instr), Ready (gridState (base.putG 0 5 1) gridDesc) i) ∧
    (gridState base gridDesc).gridAt 0 0 = some (gridReg gridDesc) ∧ State.runCheck (gridReg gridDesc) 0 .f32 0 = none ∧
    (intRange 0 1).all (fun i => (State.cellState (gridReg gridDesc) 0 0 i 0 0).toOption == some true && !gridDesc.isGhost i 0 0) = true ∧
    ((gridState (base.putG 0 5 1) gridDesc).rdG 5).toNat % 2 ^ 32 = (gridReg gridDesc).last + gridDesc.depth ∧
    ((List.range 64).all fun n => (base.thr n).wait.all fun w => match w with | .grid _ _ => false | _ => true) = true := by
  unfold Ready; decide +kernel

theorem witness_strips :
    let s := netState (gridState base openGrid) (.strip (strip 0))
    s.stripGrid (strip 0) = some (gridReg openGrid) ∧ openGrid.exchanged 14 = true ∧ (openGrid.region 14).length = 1 ∧ openGrid.last0 ≤ 0 ∧
    FMap.get none (gridReg openGrid).staged 14 = none ∧ s.heldStrips = [] ∧ (strip 0).tag ≤ (gridReg openGrid).last ∧ ¬(strip 1).tag ≤ (gridReg openGrid).last ∧
    (((base.updThr 0 fun h => { h with wait := [.grid 0 0] }).updCore 0 fun c => { c with grid := { c.grid with haloto := 0 } }).thr 0).wait = [.grid 0 0] ∧
    (base.core 0).grid.haloto ≠ 0 ∧ 0 + (base.core 0).grid.haloto ≤ 0x00100000 := by decide +kernel

/-- The communicator that commCells describes, at rank 0, with a message from rank 1 in its first slot. -/
def commReg (slots : List CSlot) : CommReg :=
  { id := 0, addr := 0, comm := 1, size := 2, rank := 0, space := .ulm, msz := 64, inst := 0, buf := 0x1000, table := 0x2000, src := [1], dst := [1]
    credits := [(1, 8)], sent := [(1, 0)], slots := slots, outstanding := [] }
def slot0 : CSlot := { src := 1, slot := 0, inst := 0, step := 0, sender := ⟨0, 0, 1, 63⟩, reg := 0 }
def commOpen (slots : List CSlot) (cur : Option Nat) : State :=
  ((withUlm commCells commState).updCore 0 fun c => { c with comm := { c.comm with regs := [commReg slots], current := cur, inb := [(9, none)] } }).putG 63 4 1
def cmsg : CMsg :=
  { comm := 1, reg := 0, rank := 1, toRank := 0, inst := 0, step := 0, capt := (base.core 0).capt, tenant := 0, src := ⟨0, 0, 1, 63⟩, dst := ⟨0, 0, 0, 63⟩
    data := [], bad := [] }

theorem witness_collectives :
    (∀ i ∈ ([.movToN0 4, .movFromN1 1, .cbegin 2, .cpeer 1 2 4] : List Instr), Ready (commOpen [slot0] none) i) ∧
    (∀ i ∈ ([.csend 4 2 2, .crecv 2 0 4 2, .crecvSig 2 0 4 2, .cwait 2, .cend 2, .ccopy 2 3 5, .crrs (.arith .add .f32) 2 0 4 4] : List Instr),
      Ready ((commOpen [slot0] (some 0)).putG 63 5 64) i) ∧
    rawOpen (base.core 0).comm.out 0 = 0 ∧ (1 : Nat) / 64 % 2 ^ 38 = 0 ∧ ((commOpen [slot0] none).core 0).comm.inb = [(9, none)] ∧
    (commOpen [slot0] none).commAt 0 0 = some (commReg [slot0]) ∧ (withUlm commCells commState).commAt 0 0 = none ∧
    parseComm 0 ((withUlm commCells commState).core 0 |>.ulm.read 0 128) = some (commReg []) ∧ (commState.waits (!commState.portClear commState.ck .ulm commState.nextId)) = false ∧
    (commOpen [slot0] (some 0)).openComm 0 = some (commReg [slot0]) ∧ State.match' (commReg [slot0]) 1 0 = some slot0 ∧
    ((commOpen [slot0] (some 0)).extent .ulm 0 64 true).toOption = some [(0, .buf 0 .ulm 0)] ∧
    (commOpen [slot0] (some 0)).rankLoc (commReg [slot0]) 1 = some ⟨0, 0, 0, 63⟩ ∧
    (commOpen [slot0] (some 0)).storesAcked 63 (commOpen [slot0] (some 0)).nextId .sys = true ∧ FMap.get 0 (commReg [slot0]).credits 1 ≠ 0 ∧
    (commOpen [slot0] (some 0)).waits (!(commOpen [slot0] (some 0)).engineMayRead) = false ∧
    (let s := commOpen [slot0] (some 0)
     s.waits (!s.maySend s.cur s.issuePlace (commReg [slot0]) 1) = false ∧ (s.core 0).ulm.badIn (0x2000 + 4) 4 = none ∧
     s.waits (!s.portClear s.ck .ulm s.issuePlace) = false) := by
  unfold Ready; decide +kernel

/-- CRRS at rank 0 with the message of the step before in its slot: combining, and sending what is combined. -/
theorem witness_reduce_send :
    let s := commOpen [{ slot0 with step := 0 }] (some 0)
    ((2 * ((commReg []).rank : Int) - 1) % (commReg []).size).toNat = 1 ∧ State.match' (commReg [slot0]) 1 ((1 + 2 ^ 16 - 1) % 2 ^ 16) = some slot0 ∧
    (s.core 0).comm.receive = none ∧ (s.core 0).ulm.badIn (State.slotOff (commReg [slot0]) slot0) 64 = none ∧
    (s.extent .ulm 0 64 false).toOption = some [(0, .buf 0 .ulm 0)] ∧ State.blockSize 64 [(0, .buf 0 .ulm 0)] = 64 ∧
    (s.extentBytes 64 [(0, .buf 0 .ulm 0)] []).2 = none ∧
    (crCombine (.arith .add .f32) none s.rd (List.replicate 64 0) (List.replicate 64 0)).toOption.isSome = true ∧
    (let v : CReceive := { addr := 0, slot := some slot0, send := some (⟨0, 0, 1, 63⟩, 1, 0, 0) }
     let u := s.updComm 0 fun u => { u with receive := some v }
     (u.core (63 / 64)).comm.receive = some v ∧ (u.commAt 0 0).isSome = true ∧ u.storesAcked 63 u.nextId .sys = true ∧
     (u.updComm 0 fun c => { c with receive := some { v with slot := none } }).storesAcked 63 u.nextId .sys = true ∧ FMap.get 0 (commReg [slot0]).credits 1 ≠ 0) := by decide +kernel

theorem witness_messages :
    let s := netState (commOpen [] (some 0)) (.cmsg cmsg)
    (s.netHere 7).map (·.msg) = some (.cmsg cmsg) ∧ (s.arriveMsg cmsg).isSome = true ∧ (s.core 0).assigned = true ∧ (s.core 0).capt = cmsg.capt ∧
    s.tenantAway 0 cmsg.capt = false ∧ s.savedReg 0 0 = false ∧ (s.core 0).comm.regs.find? (fun r => r.comm == cmsg.comm) = some (commReg []) ∧
    (commReg []).src.contains 1 = true ∧ sx (0 + 2 ^ 20 - 0) 20 = 0 ∧ s.memOk = true ∧
    ((netState (commOpen [] none) (.delivered ⟨0, 0, 0, 63⟩ 0 1 0 0)).netHere 7).isSome = true ∧
    ((netState (commOpen [] none) (.credit ⟨0, 0, 0, 63⟩ 0 1)).netHere 7).isSome = true ∧
    ((netState (commOpen [] none) (.raw { capt := 0, tenant := 0, src := ⟨0, 0, 1, 63⟩, dst := ⟨0, 0, 0, 63⟩, words := [1] })).netHere 7).isSome = true ∧
    (((commOpen [] none).updComm 0 fun u => { u with sends := [{ addr := 0, tenant := 0, payload := 0, dst := ⟨0, 0, 1, 63⟩, rank := 1, inst := 0, step := 0, reads := none }] }).core
      0).comm.sends.length = 1 := by decide +kernel

/-- The base state with memory of tenant 0: a translation of the lowest 32 GiB to device memory, in a window of its own. -/
def dmBase : State := (base.updTenant 0 fun t => { t with active := true, windows := [(0, 2 ^ 40)] }).tlbInsert 0
  { tenant := 0, base := 0, size := 2 ^ 35, phys := 0, at' := true, wr := true, rd := true }

/-- The base state with a tree of tenant 0 in device memory: a table at 0x10000, one at 0x20000, whose first entry maps 32 GiB. -/
def treeState : State :=
  { dmBase.updTenant 0 fun t => { t with root := 0x10000, nodeBase := 0x40000, nodeLen := 16 } with
    dm := { cells := [(0x10000, 1), (0x10002, 2), (0x20000, 0x1F)], bad := [] } }

/-- The base state, with memory, and thread 5 of core 0 as h. -/
def withThread (h : Machine.Thread → Machine.Thread) : State := (dmBase.updThr 5 h).putG 0 4 5
def held : State := withThread fun h => { h with st := .suspended, gbase := 200, wl := 2, pc := 0x42 }

theorem witness_faults : (base.thr 0).home = none ∧ ((base.dropMatrix 0).thr 0).openMarks = false ∧ (base.thr 0).grole = 0 ∧
    (((base.pend 0 (.g 1) none).dropMatrix 0).thr 0).openMarks = true ∧ isOperation (.csrr 200 0) = true ∧ base.guard (.mov 1 2) = none ∧
    (base.updThr 0 fun h => { h with wl := 2 }).guard (.mov 1 100) ≠ none := by decide +kernel

/-- A fault message whose ring takes it, for an active and for an inactive tenant. -/
theorem witness_fault_message :
    let m : FaultMsg := { cause := 1, sub := 6, tenant := 0, killed := false, notice := false, thread := 5, src := ⟨0, 0, 0, 5⟩, faddr := 0, fpc := 0, fprog := 0 }
    let s := netState (dmBase.updCore 0 fun c => { c with fringEn := true }) (.faultMsg 0 m)
    let i : NetItem := { id := 7, msg := .faultMsg 0 m, ingress := none }
    let off := s.updTenant 0 fun t => { t with active := false }
    s.netHere s.subj = some i ∧ s.faultFor i = some 0 ∧ s.faultDeliverable i = true ∧ (s.tenant 0).active = true ∧ s.memOk = true ∧
    off.faultFor i = some 0 ∧ off.faultDeliverable i = true ∧ (off.tenant 0).active = false ∧ (s.core 0).feWait = [] := by decide +kernel

theorem witness_system :
    (∀ i ∈ ([.trap 5, .csrr 1 0x002, .csrr 1 0x046, .csrr 1 0x040, .csrw 0x015 1, .csrw 0x044 1, .csrwFring 1, .csrwFrrd 1, .csrwTstate 1, .vlogsRead 1] : List Instr),
      Ready base i) ∧ isThreadCsr 0x002 = true ∧ isThreadCsr 0x046 = false ∧ base.rd.sv = true ∧ (setThreadCsr base.my 0x015 7 false).isSome = true ∧
    (base.writeCoreCsr 0 0x044 7).isSome = true ∧ (base.core 0).fringEn = false ∧ (0x1000 : Nat) % 2 ^ 18 % 2048 = 0 ∧ 0x1000 + 2056 ≤ 0x28000 ∧
    (2 ^ 63 + 0x27000) % 2 ^ 18 + 2056 ≤ 0x28000 ∧ (2 ^ 63 + 0x27000) / 2 ^ 25 % 2 ^ 38 = 0 ∧ ((base.core 0).fringWr + 128 - 64) % 128 ≤ 64 ∧
    (base.updCore 0 fun c => { c with sv := false }).rd.sv = false ∧ Ready (base.updCore 0 fun c => { c with sv := false }) (.csrw 0x044 1) ∧
    (base.vlogAt 0 5 1 0 0).rd.vlog.length = 1 ∧ Ready (base.vlogAt 0 5 1 0 0) (.vlogsRead 1) := by
  unfold Ready; decide +kernel

/-- Thread 5 of the supervisor's own core, suspended, at a bundle, waiting for work and halted, as the target of g4. -/
theorem witness_supervisor :
    (∀ i ∈ ([.rdwin 1 4, .wrwin 4 1, .susp 4, .kill 4, .resume 4, .cfgt 4 1, .savec 2 0 4, .loadc 2 0 4] : List Instr), Ready held i) ∧
    Selects held (held.rdG 4) true false 5 ∧ Selects held (held.rdG 4) false true 5 ∧ held.isHeld 5 = true ∧ (held.readItem 5 0 0).isSome = true ∧
    (held.writeItem 5 0 15 7 5).toOption.isSome = true ∧ (held.thr 5).killed = false ∧ held.storesAcked held.cur held.nextId .pkg = true ∧
    (withThread fun h => { h with st := .run }).atBoundary 5 = true ∧ ((withThread fun h => { h with st := .run }).thr 5).stopAsk ≠ some true ∧
    ((withThread fun h => { h with st := .halted }).thr 5).noBundle = false ∧ ((withThread fun h => { h with st := .halted }).thr 5).dispatch = false ∧
    (∀ n, n < 64 → n ≠ 5 → rangesMeet 255 1 ((held.core 0).thread n).gbase (if 56 ≤ n ∧ n ≤ 62 then 2 else ((held.core 0).thread n).wl) = false ∧
      rangesMeet 63 1 ((held.core 0).thread n).vbase ((held.core 0).thread n).vl = false) ∧
    (held.thr 5).grole = 0 ∧ (held.core 0).q = [] ∧
    (held.recordBlocks 0 3 true).all (fun x => match x.2.2 with | .ok _ _ => true | _ => false) = true ∧
    (held.recordBlocks 0 3 false).all (fun x => match x.2.2 with | .ok _ _ => true | _ => false) = true ∧
    ((withThread fun h => { h with st := .wfw }).thr 5).st = .wfw := by
  unfold Ready Selects; decide +kernel

/-- Every clause on selectors: no supervisor, a reserved bit, another tenant, a guest slot, and the thread itself. -/
theorem witness_selectors : Ready (dmBase.putG 0 4 (2 ^ 18)) (.susp 4) ∧ (dmBase.core 1).assigned = false ∧ (60 : Nat) % 64 ≥ 56 ∧
    Ready (dmBase.putG 0 4 0) (.susp 4) ∧ (dmBase.putG 0 4 0).cur = 0 ∧ (dmBase.putG 0 4 60).rd.sv = true := by
  unfold Ready; decide +kernel

/-- Thread 5 in a state of its own. -/
def inState (st : TState) : State := withThread fun h => { h with st := st }
def running : State := inState .run
def killedOne : State := withThread fun h => { h with st := .halted, killed := true }
def skipping : State := (inState .halted).putG 0 4 (5 + 2 ^ 63)

/-- Targets in a state that a form refuses: one that runs, one that is OFF, a killed one, and thread 63. -/
theorem witness_wrong_targets :
    Selects running (running.rdG 4) true false 5 ∧ Selects running (running.rdG 4) false true 5 ∧ running.isHeld 5 = false ∧ (running.thr 5).st ≠ .wfw ∧
    (running.thr 5).st ≠ .off := by
  unfold Selects; decide +kernel

theorem witness_other_targets :
    Selects (inState .off) ((inState .off).rdG 4) false true 5 ∧ ((inState .off).thr 5).st = .off ∧
    Selects killedOne (killedOne.rdG 4) false false 5 ∧ (killedOne.thr 5).killed = true ∧
    Selects (dmBase.putG 0 4 63) ((dmBase.putG 0 4 63).rdG 4) false false 63 := by
  unfold Selects; decide +kernel

theorem witness_skip :
    Ready skipping (.resume 4) ∧ skipping.rdG 4 = 5 + BitVec.ofNat 64 (2 ^ 63) ∧ Selects skipping 5 false false 5 ∧ (skipping.thr 5).noBundle = false := by
  unfold Ready Selects; decide +kernel

/-- A load of eight bytes from device memory by thread 0, and a store of them. -/
def acc (k : AccKind) (p : Place) (thr : Option Nat) : Access :=
  { id := 5, op := 5, part := 0, thr := thr, core := 0, tenant := 0, va := 0, place := p, kind := k, relaxed := false, ord := false, rel := none, sig := none
    routeAck := false, via := none, held := none, back := none, ans := none }
def issuedState (a : Access) : State := { base with issued := [a], subj := 5 }
def flightState (a : Access) : State := { base with flight := [a], subj := 5 }

/-- Port 0 leads to package 1, which is present. -/
def linkState (s : State) : State := { s.updPort 0 fun p => { p with st := .up, prow := 0, pcol := 1 } with present := [0, 1] }

theorem witness_stores :
    (issuedState (acc (.store [1]) (.dm 0) (some 0))).acceptable (acc (.store [1]) (.dm 0) (some 0)) = true ∧
    (let a := acc (.store [1]) (.remote (2 ^ 48)) (some 0)
     (linkState (issuedState a)).acceptable a = true ∧ (linkState base).isPresent (State.pkgOf (2 ^ 48)) = true ∧ ((linkState base).route a (2 ^ 48)).isSome = true) ∧
    (flightState (acc (.store [1]) (.dm 0) (some 0))).bankReady (acc (.store [1]) (.dm 0) (some 0)) = true ∧
    (flightState (acc (.store [1]) (.csr 0 0x220) (some 0))).bankReady (acc (.store [1]) (.csr 0 0x220) (some 0)) = true ∧
    (flightState (acc (.masked [some 1, none]) (.dm 0) (some 0))).bankReady (acc (.masked [some 1, none]) (.dm 0) (some 0)) = true ∧
    ((netState (flightState (acc (.store [1]) (.dm 0) (some 0))) (.routeAck ⟨0, 0, 0, 0⟩ 5)).netHere 7).isSome = true ∧
    ((netState (flightState (acc (.store [1]) (.dm 0) (some 0))) (.bankAck ⟨0, 0, 0, 0⟩ 5)).flight.find? (fun b => b.id == 7)) = none := by decide +kernel

theorem witness_loads :
    let a := acc (.load 8) (.dm 0) (some 0)
    let s : State := { flightState a with ops := [{ id := 5, thr := 0, what := .ld .i64 1, left := 1, got := [], relaxed := false, acqSys := false, badWord := none }] }
    s.flight.find? (fun b => b.id == s.subj) = some a ∧ s.bankReady a = true ∧ s.badMem a.place 8 = none ∧ s.ops.length = 1 ∧
    (s.thr 0).withheld = none ∧ (s.thr 0).holding = none ∧ (s.thr 0).halting = none ∧ (flightState { a with back := some (⟨1, 0, 0, 0⟩, 3) }).bankReady { a with back := some (⟨1, 0, 0, 0⟩, 3) } = true := by
  decide +kernel

theorem witness_atomics :
    let a := acc (.atomic (.amo .add true 1)) (.dm 0) (some 0)
    let e : State := { flightState a with subj := 0 }
    ((List.range 64).any fun n => ({ e with subj := n }.engineNext n).isSome) = true ∧ e.badMem (a.place.plus 0) 8 = none ∧
    (let w := { acc (.atomic (.waitgen 0)) (.dm 0) (some 0) with held := some 0 }
     (flightState w).flight.find? (fun b => b.id == 5) = some w ∧ 0 ≤ ((flightState w).die w.place.die).cyc) ∧
    (flightState { a with ans := some .ok }).flight.length = 1 ∧ FMap.find? (e.die 0).lastTake 0 ≠ some e.now ∧
    (let u := acc (.atomic (.amo .add true 1)) (.buf 0 .ulm 0) (some 0)
     (flightState u).bankReady u = true ∧ (((flightState u).performAtomic u (.amo .add true 1) 0).flight.find? (fun x => x.id == u.id)).any
       (fun b => b.ans.isSome && b.thr == some 0) = true) ∧
    (flightState (acc (.atomic .join) (.buf 0 .ulm 0) none)).bankReady (acc (.atomic .join) (.buf 0 .ulm 0) none) = true := by decide +kernel

theorem witness_thread_events :
    (let s := (base.updThr 0 fun h => { h with wait := [.line], st := .parked, fetch := some 1, line := none })
     s.lineReady 0 = true ∧ (s.lineData 0).map (·.2) = some none) ∧
    (((base.pend 0 (.g 1) (some 0)).thr 0).pend.any fun m => m.ready == some 0) = true ∧
    ((base.updThr 0 fun h => { h with wait := [.walk 0 0 0] }).thr 0).wait = [.walk 0 0 0] ∧ base.walksBefore 0 0 < 32 ∧
    (let i : DispItem := { tenant := 0, index := 3, prio := 0, light := false, comm := false, w := 1, v := 0, entry := 0x42, args := 0, fmt := 0, stage := none }
     let s := (base.updThr 0 fun h => { h with wait := [.dispatch] }).updDie 0 fun d => { d with starts := [{ thread := 0, item := i }] }
     s.startOf 0 = some i ∧ (s.dispatchReads i).toOption.isSome = true) ∧
    (let s := base.updThr 0 fun h => { h with forwarded := [(0, [.nop])], grole := 2, st := .run, lastIssue := none }
     (s.thr 0).wait = [] ∧ (s.thr 0).due = [] ∧ 0 ≤ s.cycOf 0 ∧ refreshHolds (s.cycOf 0) [.nop] = false) := by decide +kernel

/-- A ready node of tenant 0 whose record, all zeros, is a COMPUTE node for cluster 0; one of type 2; items and stages to place. -/
theorem witness_dispatch :
    let n : ReadyNode := { tenant := 0, index := 3, after := [] }
    let s := { dmBase with subj := 0 }.updDie 0 fun d => { d with walker := [n], copyNodes := [n] }
    let i : DispItem := { tenant := 0, index := 3, prio := 0, light := false, comm := false, w := 1, v := 0, entry := 0x42, args := 0, fmt := 0, stage := none }
    (s.die 0).walker.find? s.mayLaunch = some n ∧ nodeType (s.nodeRec 0 3) = 0 ∧ nodeSuccs (s.nodeRec 0 3) ≤ 8 ∧ nodeTenant (s.nodeRec 0 3) = 0 ∧
    s.badMem (s.nodePlace 0 3) 64 = none ∧ nodeAny (s.nodeRec 0 3) = false ∧ s.clusterOf 0 0 (nodeCluster (s.nodeRec 0 3)) = true ∧
    ((s.die 0).copyNodes.find? (s.copyNodeReady 0)) = some n ∧ (copyNodeBlock s 0 n).toOption = none ∧
    (let l : List Host.Cell := [(0x10000, 1), (0x10002, 2), (0x20000, 0x1F), (0x400C0, 2), (0x400CA, 5), (0x50010, 64), (0x50018, 1), (0x50020, 1), (0x50041, 7)]
     let u : State := { treeState.updDie 0 fun d => { d with walker := [n], copyNodes := [n] } with dm := { cells := l, bad := [] } }
     (copyNodeBlock u 0 n).toOption.isSome = true ∧ ((u.die 0).copyNodes.find? (u.copyNodeReady 0)) = some n ∧ nodeType (u.nodeRec 0 3) = 2 ∧
     (match copyNodeBlock { u with dm := { cells := l.take 6, bad := [] } } 0 n with | .error (_, none) => true | _ => false) = true) ∧
    (((withThread fun h => { h with st := .wfw, gbase := 200, wl := 2 }).dispense 0 0 i).nextPlacement 0 0) = some (i, 5) ∧
    (withThread fun h => { h with st := .wfw, gbase := 200, wl := 2 }).chooseThread 0 0 i = some 5 ∧
    State.mayRelease 0 { id := 1, tenant := 0, index := 3, prio := 0, light := false, fmt := 0
                         stages := [{ entry := 0x42, cluster := 0, mask := 1, w := 1, v := 0, args := 0 }], channels := [], toRelease := 1, placed := [], running := [] } = true ∧
    ((s.updDie 0 fun d => { d with cyc := 4096 }).die 0).occAt = 4096 := by decide +kernel

def segment : Segment :=
  { ctr := 4, nonce := 0, key := 0, first := false, tagOk := true, packets := [], part := none, again := none, confirm := [], credit := [] }

/-- A message in a cut-through segment, for a communicator that has free slots for it. -/
theorem witness_cut_message :
    let k : Packet := { src := 1, dst := 0, route := [], seq := 0, cls := .post, hops := 1, ord := false, msg := .cmsg cmsg }
    let s := (linkState (commOpen [] (some 0))).updPort 0 fun p => { p with cut := true }
    (s.port 0).cut = true ∧ (s.port 0).checking = [] ∧ (s.port 0).order = [] ∧ k.dst = s.pkg ∧ s.commFor cmsg = some (commReg []) ∧
    (State.freeSlotsOf (commReg []) cmsg.rank)[s.msgsAhead cmsg []]? = some 0 := by decide +kernel

theorem witness_link :
    ((linkState base).port 0).st = .up ∧ ((linkState base).port 0).cut = false ∧ ((linkState base).port 0).failures < 2 ∧ ((linkState base).port 0).resends < 2 ∧
    ((linkState base).port 0).checking = [] ∧ ((linkState base).port 0).order = [] ∧ ((linkState base).port 0).rekey = false ∧
    (((linkState base).updPort 0 fun p => { p with cut := true }).port 0).cut = true ∧
    (((linkState base).updPort 0 fun p => { p with unconfirmed := [segment] }).port 0).unconfirmed.find? (fun u => u.ctr == 4) = some segment ∧
    ((linkState base).port 0).segctr < 2 ^ 48 - 1 ∧
    2 ^ 48 - 2 ^ 40 ≤ (((linkState base).updPort 0 fun p => { p with segctr := 2 ^ 48 - 1 }).port 0).segctr ∧
    ((linkState base).port 1).st = .down ∧ (((linkState base).updPort 2 fun p => { p with st := .spare }).port 2).st = .spare ∧
    (let i : IngressItem := { id := 5, port := 0, pkt := { src := 1, dst := 0, route := [], seq := 0, cls := .post, hops := 1, ord := false, msg := .store ⟨1, 0, 0, 0⟩ 3 0 [1] false }, unchecked := none }
     let s : State := { linkState base with ingress := [i], subj := 5 }
     s.ingress.find? (fun i => i.id == s.subj) = some i ∧ s.ingressReady i = true ∧ i.pkt.dst = s.pkg ∧
     s.ingressReady { i with pkt := { i.pkt with msg := .receipt ⟨0, 0, 0, 0⟩ 1 0 } } = true ∧ s.ingressReady { i with pkt := { i.pkt with dst := 1 } } = true ∧
     (1 : Nat) ≠ s.pkg ∧ s.nextHop { i.pkt with dst := 1 } = some (0, []) ∧ s.hasRoom 0 i.pkt.msg = true) := by decide +kernel

/-- A thread of package 1 that migrates to memory of this package, one that comes home, and a recall. -/
def guest : MigPacket :=
  { pc := 0x42, wl := 1, home := ⟨1, 0, 0, 3⟩, tenant := 2, lc0 := 0, lc1 := 0, prog := 0, va := 0, fill := false, sub := 3, reg := 1, order := .plain, rx := false
    count := 0, npc := 0x44, regs := [], visit := 0 }
def guestState : State := { treeState with guests := { accept := [(1, 2, 0)], out := [], third := [], moved := [] } }

/-- The entry that maps address 0 of tenant 0. -/
def guestEntry : TlbEntry := { tenant := 0, base := 0, size := 2 ^ 35, phys := 0, at' := true, wr := true, rd := true }

/-- Every guest slot of the first cluster is taken. -/
def fullCluster (s : State) : State :=
  (List.range 16).foldl (fun s c => (List.range 7).foldl (fun s j => s.updThr (c * 64 + 56 + j) fun h => { h with st := .run }) s) s

theorem witness_guest_comes :
    let s := netState guestState (.mig 0 guest)
    GuestComesTo s guest 0 (some 56) ∧ s.queuedFor guest = false ∧ GuestComesTo (fullCluster s) guest 0 none :=
  ⟨⟨0, guestEntry, .dm 0, 0, by decide +kernel⟩, by decide +kernel, ⟨0, guestEntry, .dm 0, 0, by decide +kernel⟩⟩

theorem witness_migration :
    (let s := netState guestState (.mig 0 guest)
     let i : NetItem := { id := 7, msg := .mig 0 guest, ingress := none }
     s.netHere 7 = some i ∧ s.net.find? (fun j => j.id == 7) = some i ∧ base.guestTenant guest.home 2 = none) ∧
    (let p := { guest with home := ⟨0, 0, 0, 5⟩ }
     ∀ w ∈ [HomeWhy.refused, .home, .recall], let s := netState (withThread fun h => { h with st := .away }) (.goHome p w)
       (s.netHere 7).isSome = true ∧ p.home.pkg = s.pkg ∧ (s.thr (locKey p.home)).st = .away) ∧
    (let s := (guestState.updThr 56 fun h => { h with st := .run, home := some (⟨1, 0, 0, 3⟩, 2) })
     s.guestOf ⟨1, 0, 0, 3⟩ = some 56 ∧ s.guestMayGo 56 = true ∧ Ready { s with cur := 56 } .home ∧ { s with cur := 56 }.mayDepart = true ∧
     (netState s (.recall ⟨0, 0, 0, 56⟩ ⟨1, 0, 0, 3⟩ 0)).netHere 7 ≠ none) ∧
    Ready base .home ∧ (base.thr 0).home = none := by
  unfold Ready; decide +kernel

/-- The state with a tree, with the firmware ready, and queue 1 as q. -/
def fwState (q : Queue) : State := { treeState with fw := { treeState.fw with ready := true, qcbBase := 0x80000, queues := [(1, q)] } }
def queue1 (st : QState) : Queue := { Queue.reset with log2n := 1, st := st, tail := 1 }

/-- A queue hart that runs queue 1, and hart 32. -/
def hartState (k : Nat) (h : Hart) : State :=
  { fwState (queue1 .mapped) with
    subj := k, fw := { (fwState (queue1 .mapped)).fw with harts := [(k, { h with queue := some 1 })], curHart := k } }

theorem witness_tree : (treeState.walk 0 64).map (·.size) = some (2 ^ 35) ∧ (treeState.unitBytes 0 64 8).isSome = true := by decide +kernel

/-- The engine reads a tail word, and a ring entry, and writes a byte. -/
theorem witness_engine : EngineReads treeState 0 0x60000 [0, 0, 0, 0] ∧ EngineReads treeState 0 0x50000 (List.replicate 64 0) ∧
    ∃ w, EngineWrites treeState 0 0x50000 [1] w :=
  ⟨⟨[(0x60000, 4)], by decide +kernel⟩, ⟨[(0x50000, 64)], by decide +kernel⟩, _, [(0x50000, 1)], by decide +kernel, by decide +kernel, rfl⟩

theorem witness_host :
    treeState.powered = true ∧
    (State.parts (treeState.apertureBase 1 0xFFFF) 2).all (fun p => (treeState.apertureAddr 1 ((treeState.apertureBase 1 0xFFFF + p.1) % 2 ^ 64) .engineWr).toOption.isSome) = true ∧
    (State.parts (treeState.apertureBase 1 0xFFFF) 2).length = 2 ∧
    ((State.parts (base.apertureBase 1 0) 8).all fun p => (base.apertureAddr 1 ((base.apertureBase 1 0 + p.1) % 2 ^ 64) .engine).toOption.isNone) = true ∧
    (base.apertureAddr 1 0 .engineWr).toOption = none ∧ (base.qp 0).st ≠ .ready ∧
    ((base.updQp 0 fun q => { q with st := .ready, bytes := [] }).qp 0).st = .ready ∧ base.portBusy 3 = false ∧ base.fw.tcmdBusy = none ∧
    base.readsOut < 768 ∧ 768 ≤ ({ base with host := List.replicate 768 { fn := 1, op := .read 0 [] } }).readsOut ∧
    ({ treeState.updQp 0 fun q => { q with st := .ready, bytes := [0x80] } with subj := 0 }).portBusy 0 = true ∧
    leNat [0x12, 0, 0, 0, 0, 0, 0, 0] / 16 % 16 < 5 ∧ ({ base.fw with tcmdBusy := some 0 }).tcmdBusy ≠ none := by decide +kernel

/-- The oldest item of function 1, of each kind. -/
def hostState (s : State) (op : HostOp) : State := { s with host := [{ fn := 1, op := op }], subj := 1 }

theorem witness_meridian :
    ([HostOp.write 0 [1] false, .read 0 [(0, 8)], .regs 0x8000 8, .tlbinv, .qcmd 0x1001, .abort, .reg 0x8008 [1, 0, 0, 0, 0, 0, 0, 0]].all fun op =>
      (hostState base op).meridianReady 1 && (hostState base op).hostHead 1 == some { fn := 1, op := op }) = true ∧
    ([HostOp.reg 0x41000 [0, 0, 0, 0, 0, 0, 0, 0], .reg 0x40000 [1], .reg 0x41100 [1], .reg 0x60000 [1]].all fun op =>
      ({ base with host := [{ fn := 0, op := op }], subj := 0 }).meridianReady 0) = true ∧
    ((hostState (linkState base) (.write (2 ^ 48) [1] false)).meridianReady 1 && (State.blocks64 (2 ^ 48) 1).all fun b => (base.resolve b.1).isRemote) = true ∧
    ({ hostState base (.read 0 [(0, 8)]) with host := [{ fn := 1, op := .read 0 [(0, 8)], reads := some [] }] }).meridianReady 1 = true ∧
    (base.hostRead [] [(0, 8)]).isSome = true ∧ base.hostRead [9] [(2 ^ 48, 8)] = none ∧
    ([QState.disabled, .idle, .broken].all fun st => (hostState (fwState (queue1 st)) (.kick 1 1)).meridianReady 1) = true ∧
    (hostState (fwState (queue1 .idle)) (.kick 1 1)).fw.fatal = false ∧ ((fwState (queue1 .idle)).queue 1).tenant = 1 - 1 ∧
    (1 + 2 ^ 32 - 0) % 2 ^ 32 ≤ 2 ^ (queue1 .idle).log2n ∧ 2 ^ (queue1 .idle).log2n < (3 + 2 ^ 32 - 0) % 2 ^ 32 ∧
    (((fwState (queue1 .idle)).updFn 1 fun f => { f with inval := 1 }).fn 1).inval ≠ 0 ∧ (fwState (queue1 .idle)).fwAlive = true := by decide +kernel

/-- An enabled queue pair of tenant 0 over port 0, with a ring of two entries at 0x50000 and its tail at 0x60000; a ring entry of one byte. -/
def qpBytes : List Byte := splice (splice (splice (splice (List.replicate 64 0) 0 [0x80]) 3 [1]) 34 [5]) 42 [6]
def ringEntry (op : Nat) : List Byte := splice (splice (List.replicate 64 0) 0 [BitVec.ofNat 8 op]) 4 [1]
def qpWith (f : Qp → Qp) : State :=
  { treeState.updQp 0 fun q => f { q with bytes := qpBytes, st := .ready } with subj := 0, ethBytes := { cells := [(22, 3)], bad := [] } }

theorem witness_queue_pairs :
    (let s := qpWith fun q => { q with st := .reset }
     (s.qp 0).enabled = true ∧ (s.qp 0).stopping = false ∧ s.qpOk (s.qp 0) = true ∧ ({ s with ethBytes := Mem.empty }).qpOk (s.qp 0) = false) ∧
    ((qpWith fun q => { q with stopping := true }).qp 0).busy = none ∧
    (let q := (qpWith id).qp 0
     q.rx = [] ∧ q.txIo = none ∧ q.busy = none ∧ q.tail = q.head ∧ q.pollAt ≤ (qpWith id).now ∧ q.ring + 64 * (q.head % 2 ^ q.log2n) = 0x50000 ∧
     q.tailAddr = 0x60000) ∧
    ((qpWith fun q => { q with tail := 1 }).qp 0).tail ≠ ((qpWith fun q => { q with tail := 1 }).qp 0).head ∧
    State.ringEntryOk (ringEntry 0) = true ∧ State.ringEntryOk (ringEntry 3) = false ∧ ((qpWith id).ethParts 0 0 1 .engine).isSome = true ∧
    (let q := (qpWith fun q => { q with busy := some (0, ringEntry 0) }).qp 0
     q.sent < field (ringEntry 0) 4 4 ∧ q.sendAt ≤ treeState.now ∧ field (ringEntry 0) 0 1 ≠ 2 ∧ field (ringEntry 2) 0 1 = 2) := by decide +kernel

/-- Packets that are expected, ahead and behind, permitted by the region table and not, and answers to an entry in progress. -/
theorem witness_rdma :
    let r : RdmaReq := { psn := 0, first := true, ecn := false, op := 2, raddr := 0, rkey := 0, imm := 0, len := 4, data := [] }
    let s : State := { qpWith id with regions := { cells := [(0, 0xB0), (17, 1)], bad := [] } }
    (s.qp 0).enabled = true ∧ r.psn % 2 ^ 24 = (s.qp 0).rpsn ∧ (s.qp 0).rx = [] ∧ (s.qp 0).rxIo = none ∧ s.regionAllows 0 r = true ∧
    (qpWith id).regionAllows 0 r = false ∧ s.regionAllows 0 { r with op := 0, data := [1, 2, 3, 4] } = true ∧
    State.psnAhead 5 (s.qp 0).rpsn < 2 ^ 23 ∧ 2 ^ 23 ≤ State.psnAhead (2 ^ 24 - 1) (s.qp 0).rpsn ∧
    (0 : Word32).toNat < (s.tenant 0).nodeLen ∧ (s.nodePlace 0 0).isRemote = false ∧ ((qpWith fun q => { q with st := .error }).qp 0).st ≠ .ready ∧
    (let q := (qpWith fun q => { q with busy := some (0, ringEntry 0), sent := 1, spsn := 1 }).qp 0
     field (ringEntry 0) 4 4 ≤ q.sent ∧ State.psnAhead 0 ((q.spsn + (2 ^ 24 - 1)) % 2 ^ 24) < 2 ^ 23) := by decide +kernel

theorem witness_watches :
    (hartState 3 Hart.reset).fw.curHart = 3 ∧ (hartState 3 Hart.reset).hartTenant 3 = some 0 ∧ ((hartState 3 Hart.reset).hartX 3 10).toNat < 2 ^ 56 ∧
    (hartState 3 Hart.reset).readMem ((hartState 3 Hart.reset).resolve 0) 32 ≠ [] ∧
    ((hartState 3 Hart.reset).parseWatch 0 (List.replicate 32 0)).isSome = true ∧
    (hartState 3 Hart.reset).parseWatch 0 (splice (List.replicate 32 0) 8 [4]) = none ∧
    (hartState 3 { Hart.reset with blocked := some 5, watch := some { addr := 0, op := 0, wide := false, value := 0, mask := 0 } }).rereadDue 3 = true ∧
    (hartState 3 { Hart.reset with waitNode := some (0, 1, { addr := 0, op := 0, wide := false, value := 0, mask := 0 }) }).rereadDue 3 = true ∧
    ((hartState 3 { Hart.reset with kicked := true }).hart 3).kicked = true := by decide +kernel

theorem witness_queues :
    (let s := { fwState (queue1 .disabled) with fw := { (fwState (queue1 .disabled)).fw with qcmdBusy := some 1 } }
     s.qcmdNow = some (0, 1) ∧ (1 : Nat) / 2 ^ 16 % 2 ^ 40 = 0 ∧ (s.queue 1).st = .disabled ∧ s.parseBlock (s.blockOf 1) = none ∧
     (s.parseBlock (splice (List.replicate 64 0) 6 [0x80])).isSome = true ∧
     ({ s with dm := s.dm.write (0x80000 + 64 + 6) [0x80] }.parseBlock ({ s with dm := s.dm.write (0x80000 + 64 + 6) [0x80] }.blockOf 1)).isSome = true) ∧
    ([QState.idle, .broken, .disabled, .pending, .mapped].all fun st =>
      { fwState (queue1 st) with fw := { (fwState (queue1 st)).fw with qcmdBusy := some 0x1001 } }.qcmdNow == some (1, 1)) = true ∧
    (hartState 3 Hart.reset).fwAlive = true ∧ (hartState 3 Hart.reset).nextWait 3 = none ∧ (hartState 3 Hart.reset).hasSlot 3 = some 1 ∧
    (let n : ReadyNode := { tenant := 0, index := 0, after := [] }
     let s := { fwState { queue1 .mapped with taken := 1 } with fw := { (fwState { queue1 .mapped with taken := 1 }).fw with retiring := [n] } }
     s.nextRetired = some n ∧ (s.queue 1).slotOf 0 = some 0 ∧ (s.queue 1).st ≠ .disabled ∧ (s.queue 1).st ≠ .broken) ∧
    (queue1 .mapped).slotOf 0 = none ∧ 0 ∈ ({ queue1 .mapped with early := [0] }).early ∧ (queue1 .mapped).gone = [] ∧
    (let n : ReadyNode := { tenant := 0, index := 0, after := [] }
     let s := { fwState (queue1 .idle) with subj := 3, fw := { (fwState (queue1 .idle)).fw with waits := [n], harts := [(3, { Hart.reset with queue := some 1 })] } }
     s.nextWait 3 = some n ∧ (s.unitBytes 0 (nodePtr (s.nodeRec 0 0)) 32).isSome = true ∧ (s.parseWatch 0 (List.replicate 32 0)).isSome = true) ∧
    ((fwState (queue1 .pending)).updTenant 0 fun t => { t with quota := 1 }).managerChoice.map (·.1) = some 1 ∧
    (let s := { fwState (queue1 .pending) with now := 100000, subj := 1 }
     s.agesNow 1 = true ∧ s.fwAlive = true) := by decide +kernel

theorem witness_firmware_errors :
    let s := fun (l : List (Nat × Bool)) => ({ fwState (queue1 .mapped) with fw := { (fwState (queue1 .mapped)).fw with imemBad := l } } : State)
    (s [(8, false)]).fw.imemBad.find? (fun e => !(s [(8, false)]).imemLost e.1) = some (8, false) ∧
    (s [(8, false), (8, true)]).imemLost 8 = true ∧ (s []).fw.fatal = false ∧ ((s []).queue 1).st = .mapped ∧ (s []).fwAlive = true := by decide +kernel

/-- The command op for tenant n, of the state s. -/
def tcmd (s : State) (n op : Nat) : State := { s with subj := n, fw := { s.fw with tcmdBusy := some (BitVec.ofNat 64 (n + 16 * op)) } }

/-- The state of tenant commands. Activation is shown with cluster 1 of die 0, core 16 its supervisor core. -/
def idleState : State := fwState (queue1 .idle)

theorem witness_tenant_commands :
    (List.range 5).all (fun op => (tcmd idleState 0 op).tcmdNow == some (0, op)) = true ∧ (idleState.tenant 0).active = true ∧
    (idleState.tenant 1).active = false ∧ idleState.tenantOk 1 (List.replicate 256 0) = false := by decide +kernel

theorem witness_activate : idleState.tenantOk 1 (splice (splice (List.replicate 256 0) 21 [16]) 32 [2]) = true := by decide +kernel

theorem witness_restore : (tcmd idleState 0 1).preemptStep 0 = 1 ∧
    (tcmd (idleState.updTenant 0 fun t => { t with preempted := true }) 0 2).mayRestore = true ∧
    idleState.clustersTaken 0 (idleState.tenant 0).clusters = false ∧
    (idleState.updTenant 0 fun t => { t with preempted := true, byEvict := true }).restoresHere 0 = true ∧
    idleState.fwAlive = true := by decide +kernel

/-- A pre-emption's last two steps, with every thread of the tenant stopped. -/
theorem witness_preempt :
    let f := (fwState (queue1 .idle)).updThr 0 fun h => { h with st := .suspended, wl := 2 }
    ((tcmd f 0 1).updTenant 0 fun t => { t with stopping := 1 }).preemptStep 0 = 3 ∧
    ((tcmd f 0 1).updTenant 0 fun t => { t with stopping := 2 }).preemptStep 0 = 4 := by decide +kernel

/-- States of power, of the handshake and of security, as the clauses ask. What Config.sm2Verify answers stays open. -/
def platState (f : Platform → Platform) : State := { treeState with plat := f treeState.plat }

theorem witness_power :
    (base.fw.ready = false ∧ base.fw.fatal = false) ∧ base.powered = true ∧ (platState fun p => { p with changing := true }).plat.changing = true ∧
    (platState fun p => { p with power := .retention }).powered = true ∧ (platState fun p => { p with evict := .draining }).evictBusy = true ∧
    base.evictBusy = false ∧ (∃ n, n < 16 ∧ (treeState.tenant n).active = true ∧ (treeState.tenant n).preempted = false) ∧
    (∀ n, n < 16 → (State.reset.tenant n).active = false) ∧ ({ State.reset with now := 100000 }).mayIdle 0 = true ∧
    (let s := treeState.updDie 0 fun d => { d with gated := true, mig := [guest] }
     (s.die 0).gated = true ∧ s.dieCalled 0 = true) ∧
    (linkState base).linked ((linkState base).port 0) = true := by
  refine ⟨by decide +kernel, by decide +kernel, by decide +kernel, by decide +kernel, by decide +kernel, by decide +kernel, ⟨0, by decide +kernel⟩, ?_⟩
  decide +kernel

theorem witness_security :
    treeState.powered = true ∧ treeState.evictUnderWay = false ∧ treeState.plat.security = .open ∧
    (platState fun p => { p with evict := .draining }).evictUnderWay = true ∧ (platState fun p => { p with security := .secure }).plat.security ≠ .open ∧
    (platState fun p => { p with security := .secure }).authorised 0 [] [] [] = false ∧ (treeState.tenant 0).active = true ∧
    (platState fun p => { p with security := .secure }).plat.debug ≠ .control ∧
    (platState fun p => { p with debug := .control }).debugMay 0 = true ∧ treeState.debugMay 0 = false ∧
    ((platState fun p => { p with debug := .control }).debugDo (.gReg 0 0 1) none).isSome = true ∧
    ((platState fun p => { p with debug := .control }).debugDo (.gReg 0 0 1) (some 5)).isSome = true := by decide +kernel

theorem witness_eviction :
    base.plat.power = .active ∧ base.plat.evict = .normal ∧ base.plat.debug ≠ .control ∧ (1 : Nat) ≠ base.pkg ∧ 1 / 16 = base.pkg / 16 ∧
    ((17 : Nat) / 16 ≠ base.pkg / 16 ∧ 17 % 16 ≠ base.pkg % 16) ∧
    (let s : State := { State.reset with plat := { State.reset.plat with evict := .draining } }
     s.evictDrained = true ∧ s.evictBusy = true) ∧
    (let s : State := { State.reset with plat := { State.reset.plat with evict := .routesDrained, evictAt := 5 } }
     s.portsQuiet = true ∧ s.evictBusy = true ∧ s.now < s.plat.evictAt ∧ ({ s with now := 5 }).plat.evictAt ≤ 5) ∧
    (platState fun p => { p with evict := .failed }).powered = true := by decide +kernel

/-- A neighbour in NORMAL with room, and a tenant of one cluster that crosses to it, still to be restored or restored. -/
def crossingTenant : EvictTenant := { desc := splice (List.replicate 256 0) 32 [1], dm := [], queues := [] }
def crossed (away : Bool) : State := State.reset.updTenant 2 fun t => { t with active := true, preempted := away, movedFrom := some 1 }

theorem witness_neighbour :
    (let s : State := { State.reset with fw := { State.reset.fw with ready := true } }
     s.plat.evict = .normal ∧ s.plat.power = .active ∧ s.fwAlive = true ∧ s.plat.incoming = none ∧ s.roomFor [(1, 1, 65536)] = true ∧
     s.roomFor [(257, 1, 0)] = false) ∧
    (State.reset.takeTenant 1 crossingTenant).isSome = true ∧ 2 ∈ (crossed true).crossedFrom 1 ∧
    (∃ k ∈ (crossed true).crossedFrom 1, ((crossed true).tenant k).preempted = true) ∧
    (∀ k ∈ (crossed false).crossedFrom 1, ((crossed false).tenant k).preempted = false) ∧ (crossed true).evictBusy = false := by
  decide +kernel

/-- Every case of the step: an input; an event due; a single head; a pair; a hart; and the clock alone. -/
theorem witness_step :
    isInput .powerOn = true ∧ base.dueWork = none ∧ base.nextEvent = none ∧
    (let u : State := { base with sched := base.sched.drop 1 }
     u.nextTurn = some (.thread 0) ∧ ((base.thr 0).line.map fun l => (bundleHeads l (base.thr 0).pc.toNat).map (·.2)) = some [0] ∧
     (base.thr 0).wait = []) ∧
    State.reset.dueWork = none ∧ State.reset.nextEvent = none ∧
    ({ base with inbox := [(0, .powerOn)] }).nextInput = some (0, .powerOn) ∧ base.nextInput = none ∧ State.reset.nextInput = none ∧
    { State.reset with sched := State.reset.sched.drop 1 }.nextTurn = none ∧ { State.reset with sched := State.reset.sched.drop 1 }.nextHart = none ∧
    (decodeHart 0x0005000B).isSome = true := by decide +kernel

/-- A pair of two operations that both go on; one whose first half faults, and its mirror; and a line with heads left and with none. -/
theorem witness_pair :
    let a : Instr := .movi 1 5
    let b : Instr := .vmov none (.v 1) (.v 2)
    let sa := base.after' (half a b base)
    let sb := base.after' (half b a base)
    base.snap = none ∧ base.began = none ∧ bundleUnissued sa = false ∧ bundleUnissued sb = false ∧ halfFaults base sa a = false ∧
    halfFaults base sb b = false ∧ bundleWalks sa = false ∧ bundleWalks sb = false ∧ bundleAgain sa = false ∧ bundleAgain sb = false ∧
    bundleDeparts sa = false ∧ bundleDeparts sb = false ∧ isLate sa a = false ∧ isLate sb b = false ∧ base.readsAb sa = false ∧ base.readsAb sb = false ∧
    sa.cur = base.cur ∧ sb.cur = base.cur ∧ halfFaults base (base.after' (half (.trap 1) b base)) (.trap 1) = true ∧
    (let l : Line := { base := 0, bytes := 0x1000 }
     l.hc = 2 ∧ l.nextPc 2 = 4 ∧ l.nextPc 4 = 66) := by decide +kernel

/-- In cycle 63 a thread whose bundle reads a general register is held, and keeps its place; in cycle 31 one that reads a vector register. -/
theorem witness_refresh :
    let s := fun (c : Nat) (h t : Nat) => (State.reset.withFetchWord 32 (h * 2 ^ 16 + t)).updDie 0 fun d => { d with cyc := c }
    (s 63 0x4421 0x0004).cycOf 0 % 64 = 63 ∧ (s 63 0x4421 0x0004).eligible 0 = false ∧ (s 62 0x4421 0x0004).eligible 0 = true ∧
    (s 63 0x4421 0x0004).placeKept 0 = some 0 ∧ ((s 62 0x4421 0x0004).die (0 / 512)).gated = false ∧ (s 62 0x4421 0x0004).hasIssued 0 = false ∧
    (s 0 0x4421 0x0004).plat.power = .active ∧ sources (.movToLc 0 1) = [.g 1] := by decide +kernel

theorem witness_windows : Ready (base.putG 0 4 63) (.cfgt 4 1) ∧ (base.putG 0 4 63).rd.sv = true ∧ ((base.putG 0 4 63).rdG 4).toNat < 2 ^ 18 ∧
    55 < ((base.putG 0 4 63).rdG 4).toNat % 64 := by
  unfold Ready; decide +kernel

/-- Premises of the invariants: a state with canonical memories, and a package that is no longer OPEN. -/
theorem witness_invariants : State.reset.memOk = true ∧ treeState.memOk = true ∧ (platState fun p => { p with security := .secure }).plat.security ≠ .open ∧
    State.reset.pkg ∈ State.reset.present := by decide +kernel

theorem witness_encode : (Instr.add .i64 false 3 4 5).wf = true ∧ (encode (.add .i64 false 3 4 5)).isSome = true := by decide

/-! ## Further witnesses -/

/-- A full and an empty word of ULM that nobody waits for; and a fence with nothing outstanding. -/
theorem witness_full_empty : base.relaxedBefore base.cur base.issuePlace = 0 ∧ base.portClear base.ck .ulm base.issuePlace = true ∧
    (base.core 0).feWait = [] ∧ (base.thr 0).withheld = none ∧ (base.core 0).ulm.badIn 0x27FF8 8 = none ∧ FMap.get false (base.core 0).full 0 = false ∧
    Ready (base.updCore 0 fun c => { c with full := [(0, true)] }) (.ldfe 1 2 0) ∧ base.relaxedOps base.cur = 0 ∧
    base.storesAcked base.cur base.issuePlace .sys = true := by unfold Ready; decide +kernel

/-- A tile that was saved with its pre-empted tenant. -/
theorem witness_saved_tile :
    let s := ({ netState base (.contribution (contrib 0 16)) with
      saved := [{ tenant := 0, cores := [(0, (base.core 0))], strips := [] }] }.updCore 0 fun c => { c with assigned := false }).updTenant 0 fun t =>
        { t with preempted := true }
    (s.core 0).assigned = false ∧ (FMap.find? [(0, base.core 0)] 0).map (fun k => (k.slot 0).tenant) = some 0 ∧ (s.tenant 0).preempted = true ∧
    s.contributionBehind s.subj (contrib 0 16) = false := by decide +kernel

/-- Copies to another package and within this one, as CPSTAT and CPWAIT find them; and one that runs, as CPCAN does. -/
theorem witness_far_copies : (let e : CopyStat := { xid := 3, offset := 64, cause := 0, queue := 0, st := .done, far := true }
    acquiresFar (some e) = true ∧ acquiresFar (some { e with far := false }) = false ∧ outstanding (some e) = false) ∧
    ((copyState (copyOp 0 0 false) .running).cpStat 0 3).map (·.st) = some .running := by decide +kernel

/-- A masked vector, as after reset, and one that the host has unmasked. -/
theorem witness_vectors : State.msixMasked (base.fn 1) 5 = true ∧ State.msixMasked ((base.writeMsix 1 (16 * 5 + 12) [0]).fn 1) 5 = false := by decide +kernel

/-- The other cases of the step: work that is due, an event, and a hart with a custom instruction and with a base one. -/
theorem witness_other_steps :
    ({ base with bar0Reads := [(0, 0x8000, 8)] }).dueWork.isSome = true ∧ (hostState base .tlbinv).dueWork.isNone = true ∧
    (hostState base .tlbinv).nextEvent = some (1, .meridianSend) ∧ (State.reset.placeHart 0x0005000B).nextTurn = none ∧
    (State.reset.placeHart 0x0005000B).nextHart = some 0 ∧ decodeHart ((State.reset.placeHart 0x0005000B).fw.imem.nat 0 4) = some (.warm 10) ∧
    decodeHart ((State.reset.placeHart 0x00150513).fw.imem.nat 0 4) = none := by decide +kernel

/-! ## The base instructions of the harts, as the base architecture has them -/

/-- Hart 0 after the instruction w, with the given registers. -/
def hartOut (w : Nat) (x : List (Nat × Word)) : State := (x.foldl (fun s e => s.putX 0 e.1 e.2) (State.reset.placeHart w)).hartBase 0

theorem test_hart_addi : (hartOut 0x00150513 [(10, 5)]).hartX 0 10 = 6 ∧ ((hartOut 0x00150513 []).hart 0).pc = 4 := by decide +kernel
/-- C.ADDI a0, 1 takes two bytes. -/
theorem test_hart_c_addi : (hartOut 0x0505 [(10, 5)]).hartX 0 10 = 6 ∧ ((hartOut 0x0505 []).hart 0).pc = 2 := by decide +kernel
/-- DIV a0, a1, a2 by zero gives -1. -/
theorem test_hart_div_by_zero : (hartOut 0x02C5C533 [(11, 7)]).hartX 0 10 = -1 := by decide +kernel
/-- BEQ a0, a0, 8. -/
theorem test_hart_branch : ((hartOut 0x00A50463 []).hart 0).pc = 8 := by decide +kernel
/-- ECALL in machine mode: cause 11. -/
theorem test_hart_ecall : ((hartOut 0x00000073 []).hart 0).mcause = 11 ∧ ((hartOut 0x00000073 []).hart 0).mepc = 0 := by decide +kernel
/-- SW a1, 4(a0) to device memory, and LW back. -/
theorem test_hart_store : ((hartOut 0x00B52223 [(10, 8), (11, 0x1234)]).readMem (.dm 12) 4) = [0x34, 0x12, 0, 0] := by decide +kernel

end Sys2Proof.Tests
end

section
/-! PROOFS. Sparse tables after a map, cleared memory, and what the event trace and the training of the links leave as it was. -/

namespace Sys2Proof.Machine

open Sys2Proof

/-! ## Sparse tables -/

namespace FMap
variable {α β : Type}

/-- A key of a table whose entries are all mapped holds the mapped entry. -/
theorem find?_map (m : FMap α) (f : α → β) (k : Nat) : find? (m.map fun e => (e.1, f e.2)) k = (find? m k).map f := by
  induction m with
  | nil => rfl
  | cons e r ih =>
    simp only [List.map_cons, find?]
    split
    · rfl
    · exact ih

/-- What every mapped entry satisfies, and the default too, holds of each key. -/
theorem get_map_of_forall (m : FMap α) (f : α → β) (d : β) (k : Nat) {P : β → Prop} (hd : P d) (hf : ∀ a, P (f a)) :
    P (get d (m.map fun e => (e.1, f e.2)) k) := by
  rw [get, find?_map]
  cases find? m k with
  | none => exact hd
  | some a => exact hf a

/-- The entry of a table that lists the keys from a on, each with its value. -/
theorem find?_map_range' (f : Nat → α) (a n k : Nat) (hk : a ≤ k) (hn : k < a + n) :
    find? ((List.range' a n).map fun i => (i, f i)) k = some (f k) := by
  induction n generalizing a with
  | zero => omega
  | succ n ih =>
    simp only [List.range'_succ, List.map_cons, find?]
    split
    · next h => rw [h]
    · exact ih (a + 1) (by omega) (by omega)

theorem get_map_range (d : α) (f : Nat → α) {n k : Nat} (hk : k < n) : get d ((List.range n).map fun i => (i, f i)) k = f k := by
  rw [get, List.range_eq_range', find?_map_range' f 0 n k (Nat.zero_le k) (by omega)]
  rfl

end FMap

/-! ## Cleared memory -/

theorem Mem.getCell_filter_excluded (l : List Host.Cell) (p : Host.Cell → Bool) (a : Nat) (h : ∀ b, p (a, b) = false) :
    Mem.getCell (l.filter p) a = 0 := by
  induction l with
  | nil => rfl
  | cons e r ih =>
    obtain ⟨c, b⟩ := e
    rw [List.filter_cons]
    split
    · next hp =>
      have hne : a ≠ c := by rintro rfl; simp [h b] at hp
      simpa [Mem.getCell, hne] using ih
    · exact ih

/-- A byte within the zeroed bytes reads 0. -/
theorem Mem.byte_clear_inside (m : Mem) (a n o : Nat) (ho : o < n) : (m.clear a n).byte (a + o) = 0 :=
  Mem.getCell_filter_excluded _ _ _ fun b => by simp [ho]

namespace State

variable (s : State)

/-! ## The event trace -/

/-- Recording an item changes the outputs alone. -/
theorem trace_eq (x : TraceItem) : s.trace x = { s with out := (s.trace x).out } := by
  unfold trace
  split <;> rfl

theorem foldl_out_only {α : Type} (l : List α) (f : State → α → State) (hf : ∀ u a, f u a = { u with out := (f u a).out }) :
    l.foldl f s = { s with out := (l.foldl f s).out } := by
  induction l generalizing s with
  | nil => rfl
  | cons a r ih =>
    rw [List.foldl_cons, ih (f s a), hf s a]

/-- Recording the ports changes the outputs alone. -/
theorem tracePorts_eq (old : State) : s.tracePorts old = { s with out := (s.tracePorts old).out } :=
  foldl_out_only s s.ports _ fun u p => by
    split
    · rfl
    · exact trace_eq u _

@[simp] theorem trace_pkg (x : TraceItem) : (s.trace x).pkg = s.pkg := by rw [trace_eq]
@[simp] theorem trace_present (x : TraceItem) : (s.trace x).present = s.present := by rw [trace_eq]
@[simp] theorem trace_plat (x : TraceItem) : (s.trace x).plat = s.plat := by rw [trace_eq]
@[simp] theorem trace_ports (x : TraceItem) : (s.trace x).ports = s.ports := by rw [trace_eq]
@[simp] theorem trace_cores (x : TraceItem) : (s.trace x).cores = s.cores := by rw [trace_eq]
@[simp] theorem trace_dm (x : TraceItem) : (s.trace x).dm = s.dm := by rw [trace_eq]

@[simp] theorem tracePorts_pkg (old : State) : (s.tracePorts old).pkg = s.pkg := by rw [tracePorts_eq]
@[simp] theorem tracePorts_present (old : State) : (s.tracePorts old).present = s.present := by rw [tracePorts_eq]
@[simp] theorem tracePorts_plat (old : State) : (s.tracePorts old).plat = s.plat := by rw [tracePorts_eq]
@[simp] theorem tracePorts_ports (old : State) : (s.tracePorts old).ports = s.ports := by rw [tracePorts_eq]
@[simp] theorem tracePorts_cores (old : State) : (s.tracePorts old).cores = s.cores := by rw [tracePorts_eq]
@[simp] theorem tracePorts_dm (old : State) : (s.tracePorts old).dm = s.dm := by rw [tracePorts_eq]
@[simp] theorem tracePorts_fw (old : State) : (s.tracePorts old).fw = s.fw := by rw [tracePorts_eq]

/-! ## Training the links (R301, R390) -/

/-- A port as the training of the links leaves it. -/
def trainedPort (p : Port) : Port :=
  if s.linked p then { p with st := .up, segctr := 0, key := p.key + 1, first := true } else p

@[simp] theorem trainLinks_ports : s.trainLinks.ports = s.ports.map fun e => (e.1, s.trainedPort e.2) := tracePorts_ports ..
@[simp] theorem trainLinks_present : s.trainLinks.present = s.present := tracePorts_present ..
@[simp] theorem trainLinks_plat : s.trainLinks.plat = s.plat := tracePorts_plat ..
@[simp] theorem trainLinks_cores : s.trainLinks.cores = s.cores := tracePorts_cores ..
@[simp] theorem trainLinks_dm : s.trainLinks.dm = s.dm := tracePorts_dm ..
@[simp] theorem trainLinks_fw : s.trainLinks.fw = s.fw := tracePorts_fw ..

/-- A listed port whose peer is present is UP once the links are trained. -/
theorem trainLinks_up {e : Nat × Port} (he : e ∈ s.ports) (hl : s.linked e.2 = true) :
    ∃ e' ∈ s.trainLinks.ports, e'.1 = e.1 ∧ e'.2.st = .up := by
  refine ⟨(e.1, s.trainedPort e.2), ?_, rfl, by simp [trainedPort, hl]⟩
  rw [trainLinks_ports]
  exact List.mem_map.2 ⟨e, he, rfl⟩

theorem trainedPort_prow (p : Port) : (s.trainedPort p).prow = p.prow := by unfold trainedPort; split <;> rfl

theorem trainedPort_pcol (p : Port) : (s.trainedPort p).pcol = p.pcol := by unfold trainedPort; split <;> rfl

theorem trainedPort_spare {p : Port} (h : p.st = .spare) : s.trainedPort p = p := by simp [trainedPort, linked, h]

/-- A port that is DOWN and leads to another package is UP after the training exactly where that package is present. -/
theorem trainedPort_down {p : Port} (h : p.st = .down) (hp : p.prow * 16 + p.pcol ≠ s.pkg) :
    (s.trainedPort p).st = if s.present.contains (p.prow * 16 + p.pcol) then .up else .down := by
  unfold trainedPort linked
  cases s.present.contains (p.prow * 16 + p.pcol) <;> simp [h, hp]

end State

end Sys2Proof.Machine
end

section
/-! PROOFS. The changes of power (R19, R301, R372, R384, R390, R391, R393). -/

namespace Sys2Proof.Machine

open Sys2Proof

namespace State

variable (s : State)

/-! ## Bring-up (R301; DESIGN CHOICE, log entry 34) -/

/-- The packages that ports 0 to 29 lead to: the others of the row, then those of the column. -/
def linkPeers : List (Nat × Nat) :=
  (((List.range 16).filter (· != s.pkg % 16)).map fun c => (s.pkg / 16, c)) ++
    ((List.range 16).filter (· != s.pkg / 16)).map fun r => (r, s.pkg % 16)

/-- A port as bring-up leaves it. -/
def assignedPort (n : Nat) : Port :=
  match s.linkPeers[n]? with
  | some (r, c) => { s.port n with prow := r, pcol := c, cut := Config.cutThrough n, st := .down }
  | none => { s.port n with st := .spare }

theorem bringUp_ports : s.bringUp.ports = (List.range 32).map fun n => (n, s.assignedPort n) := rfl

/-- A port once the package is brought up and its links are trained. -/
theorem bringUp_trainLinks_port {n : Nat} (hn : n < 32) : s.bringUp.trainLinks.port n = s.bringUp.trainedPort (s.assignedPort n) := by
  rw [port, trainLinks_ports, bringUp_ports, List.map_map]
  exact FMap.get_map_range Port.reset (fun i => s.bringUp.trainedPort (s.assignedPort i)) hn

/-- A port with a peer leads to it, and is UP exactly where it is present. -/
theorem bringUp_trainLinks_leads {n r c : Nat} (hn : n < 32) (h : s.linkPeers[n]? = some (r, c)) (hne : r * 16 + c ≠ s.pkg) :
    s.bringUp.trainLinks.peer n = r * 16 + c ∧ (s.bringUp.trainLinks.port n).st =
      if s.bringUp.trainLinks.present.contains (s.bringUp.trainLinks.peer n) then .up else .down := by
  have ha : s.assignedPort n = { s.port n with prow := r, pcol := c, cut := Config.cutThrough n, st := .down } := by
    simp only [assignedPort, h]
  have hp : s.bringUp.trainLinks.peer n = r * 16 + c := by
    rw [peer, bringUp_trainLinks_port s hn, trainedPort_prow, trainedPort_pcol, ha]
  refine ⟨hp, ?_⟩
  rw [hp, bringUp_trainLinks_port s hn, ha, trainLinks_present]
  exact trainedPort_down s.bringUp rfl hne

/-- A port without a peer is a spare. -/
theorem bringUp_trainLinks_spare {n : Nat} (hn : n < 32) (h : s.linkPeers[n]? = none) : (s.bringUp.trainLinks.port n).st = .spare := by
  have ha : s.assignedPort n = { s.port n with st := .spare } := by simp only [assignedPort, h]
  rw [bringUp_trainLinks_port s hn, ha, trainedPort_spare s.bringUp rfl]

/-- The other positions of a row or column of 16, in order. -/
theorem others_getElem? : ∀ x < 16, ∀ n < 15, ((List.range 16).filter (· != x))[n]? = some (if n < x then n else n + 1) := by decide

theorem others_length : ∀ x < 16, ((List.range 16).filter (· != x)).length = 15 := by decide

theorem linkPeers_row {n : Nat} (hn : n < 15) :
    s.linkPeers[n]? = some (s.pkg / 16, if n < s.pkg % 16 then n else n + 1) := by
  have hx : s.pkg % 16 < 16 := Nat.mod_lt _ (by decide)
  rw [linkPeers, List.getElem?_append_left (by simpa [others_length _ hx] using hn), List.getElem?_map, others_getElem? _ hx n hn]
  rfl

theorem linkPeers_column (hs : s.pkg < 256) {n : Nat} (hn : n < 15) :
    s.linkPeers[n + 15]? = some (if n < s.pkg / 16 then n else n + 1, s.pkg % 16) := by
  have hx : s.pkg % 16 < 16 := Nat.mod_lt _ (by decide)
  have hy : s.pkg / 16 < 16 := by omega
  rw [linkPeers, List.getElem?_append_right (by simp [others_length _ hx]), List.length_map, others_length _ hx, Nat.add_sub_cancel,
    List.getElem?_map, others_getElem? _ hy n hn]
  rfl

theorem linkPeers_beyond (hs : s.pkg < 256) {n : Nat} (hn : 30 ≤ n) : s.linkPeers[n]? = none := by
  have hx : s.pkg % 16 < 16 := Nat.mod_lt _ (by decide)
  have hy : s.pkg / 16 < 16 := by omega
  rw [List.getElem?_eq_none_iff, linkPeers, List.length_append, List.length_map, List.length_map, others_length _ hx, others_length _ hy]
  exact hn

/-! ## Main power applied (R372, R385, R393) -/

/-- Power is ACTIVE, and the keys are held. -/
def poweredUp : State := s.updPlat fun p => { p with power := .active, debug := .off, linkKeys := true, idKey := true }

/-- Where the queues' control blocks begin in device memory. -/
def qcbOffset : Nat := Config.qcbBlock % (dmSize / 4096 - 64) * 4096

/-- Finsin runs image i on the harts. -/
def finsinRuns (i : FwImage) : State :=
  { s.poweredUp.updPlat fun p => { p with running := some i } with
    dm := s.dm.clear qcbOffset 0x40000
    fw := { s.fw with ready := true, qcbBase := s.pkg * 2 ^ 48 + qcbOffset, imem := Mem.empty.write 0 (i.body.take 0x40000)
                      harts := (List.range 33).map fun k => (k, { Hart.reset with running := true }) } }

/-- The package booted from image i. -/
def booted (i : FwImage) : State := (s.finsinRuns i).bringUp.trainLinks

theorem qcbOffset_mod : qcbOffset % 4096 = 0 := by
  unfold qcbOffset
  exact Nat.mul_mod_left _ _

theorem qcbOffset_lt : qcbOffset < 2 ^ 48 := by
  unfold qcbOffset dmSize
  omega

variable {s}

/-- POWER_ON takes place where the package is off or has been reset, and its firmware has not halted. -/
theorem not_powerOn_excluded (h : s.plat.power = .off ∨ s.fw.ready = false) (hf : s.fw.fatal = false) :
    ¬((s.plat.power ≠ .off ∧ s.fw.ready = true) ∨ s.fw.fatal = true) := by
  rcases h with h | h <;> simp [h, hf]

theorem exec_powerOn {t : State} (h : occPowerOn s = some t) : exec .powerOn s = .next t := by
  change s.happen (occPowerOn s) = _
  rw [h]
  rfl

theorem exec_powerOn_accepted (h : s.plat.power = .off ∨ s.fw.ready = false) (hf : s.fw.fatal = false) {i : FwImage}
    (hi : s.plat.image = some i) (hok : imageOk s.plat.minVersion i = true) : exec .powerOn s = .next (s.booted i) := by
  refine exec_powerOn ?_
  rw [occPowerOn, if_neg (not_powerOn_excluded h hf)]
  dsimp only
  split
  · next j hj =>
    obtain rfl : i = j := Option.some.inj (hi.symm.trans hj)
    split
    · next hb => exact absurd (show (!imageOk s.plat.minVersion i) = true from hb) (by simp [hok])
    · rfl
  · next hn => exact absurd (hi.symm.trans hn) (by simp)

theorem exec_powerOn_unaccepted (h : s.plat.power = .off ∨ s.fw.ready = false) (hf : s.fw.fatal = false)
    (hi : ∀ i, s.plat.image = some i → imageOk s.plat.minVersion i = false) : exec .powerOn s = .next s.poweredUp := by
  refine exec_powerOn ?_
  rw [occPowerOn, if_neg (not_powerOn_excluded h hf)]
  dsimp only
  split
  · next j hj =>
    split
    · rfl
    · next hb => exact absurd (show ¬(!imageOk s.plat.minVersion j) = true from hb) (by simp [hi j hj])
  · rfl

theorem booted_plat (i : FwImage) : (s.booted i).plat = { s.poweredUp.plat with running := some i } := trainLinks_plat ..

theorem booted_fw (i : FwImage) : (s.booted i).fw = (s.finsinRuns i).fw := trainLinks_fw ..

theorem booted_dm (i : FwImage) : (s.booted i).dm = s.dm.clear qcbOffset 0x40000 := trainLinks_dm ..

/-- The control blocks of the queues are zero. -/
theorem booted_qcb (i : FwImage) {o : Nat} (ho : o < 0x40000) : (s.booted i).dm.byte ((s.booted i).fw.qcbBase % 2 ^ 48 + o) = 0 := by
  have hb : (s.booted i).fw.qcbBase = s.pkg * 2 ^ 48 + qcbOffset := by rw [booted_fw]; rfl
  rw [hb, booted_dm, Nat.mul_add_mod_self_right, Nat.mod_eq_of_lt qcbOffset_lt]
  exact Mem.byte_clear_inside _ _ _ _ ho

theorem booted_hart (i : FwImage) {k : Nat} (hk : k < 33) : (s.booted i).hart k = { Hart.reset with running := true } := by
  rw [hart, booted_fw]
  exact FMap.get_map_range _ _ hk

/-- The n-th port of the row and of the column lead to the package's neighbours (R301). -/
theorem booted_row (i : FwImage) {n : Nat} (hn : n < 15) :
    (s.booted i).peer n = s.pkg / 16 * 16 + (if n < s.pkg % 16 then n else n + 1) ∧
    ((s.booted i).port n).st = if (s.booted i).present.contains ((s.booted i).peer n) then .up else .down :=
  bringUp_trainLinks_leads (s.finsinRuns i) (by omega) (linkPeers_row (s.finsinRuns i) hn) (by
    change s.pkg / 16 * 16 + (if n < s.pkg % 16 then n else n + 1) ≠ s.pkg
    split <;> omega)

theorem booted_column (i : FwImage) (hs : s.pkg < 256) {n : Nat} (hn : n < 15) :
    (s.booted i).peer (n + 15) = (if n < s.pkg / 16 then n else n + 1) * 16 + s.pkg % 16 ∧
    ((s.booted i).port (n + 15)).st = if (s.booted i).present.contains ((s.booted i).peer (n + 15)) then .up else .down :=
  bringUp_trainLinks_leads (s.finsinRuns i) (by omega) (linkPeers_column (s.finsinRuns i) hs hn) (by
    change (if n < s.pkg / 16 then n else n + 1) * 16 + s.pkg % 16 ≠ s.pkg
    split <;> omega)

theorem booted_spare (i : FwImage) (hs : s.pkg < 256) {n : Nat} (h30 : 30 ≤ n) (hn : n < 32) : ((s.booted i).port n).st = .spare :=
  bringUp_trainLinks_spare (s.finsinRuns i) hn (linkPeers_beyond (s.finsinRuns i) hs h30)

/-! ## Reset of the units (R384, R391) -/

variable (s)

/-- A core as the reset leaves it: only its defects stay. -/
def coreAtReset (c : Core) : Core := { Core.reset with defects := { c.defects with regs := [] } }

theorem unitsReset_cores (p : Power) (dm : Mem) : (s.unitsReset p dm).cores = s.cores.map fun e => (e.1, coreAtReset e.2) := rfl

/-- After the reset of the units no core holds anything or belongs to a tenant. -/
theorem unitsReset_core (p : Power) (dm : Mem) (k : Nat) :
    ((s.unitsReset p dm).core k).ulm = Mem.empty ∧ ((s.unitsReset p dm).core k).gfile = [] ∧
      ((s.unitsReset p dm).core k).assigned = false := by
  rw [core, unitsReset_cores]
  exact FMap.get_map_of_forall s.cores coreAtReset Core.reset k
    (P := fun c => c.ulm = Mem.empty ∧ c.gfile = [] ∧ c.assigned = false) ⟨rfl, rfl, rfl⟩ fun c => ⟨rfl, rfl, rfl⟩

end State

end Sys2Proof.Machine
end

section
/-! PROOFS. SETPOWER, and the clauses of Claim.PowerChanges (R245, R384, R385, R389 to R391). -/

namespace Sys2Proof.Machine

open Sys2Proof

namespace State

variable {s : State}

/-! ## SETPOWER (R390) -/

/-- The change to RETENTION begins. -/
def retentionBegun (s : State) : State := s.updPlat fun p => { p with changing := true }

theorem exec_setpowerRetention (h : s.powered = true) : exec .setpowerRetention s = .next (
    if s.plat.changing then s.reply 1 else if s.plat.power = .retention then s.reply 0 else if s.evictBusy then s.reply 2
    else s.retentionBegun.enterRetention) := congrArg Host.Outcome.next (if_pos h)

theorem exec_setpowerActive (h : s.powered = true) : exec .setpowerActive s = .next (
    if s.plat.changing then s.reply 1 else if s.plat.power = .active then s.reply 0
    else (((s.updPlat fun p => { p with power := .active }).trace (.power none 0)).trainLinks).reply 0) := congrArg Host.Outcome.next (if_pos h)

theorem exec_setpowerOff (h : s.powered = true) : exec .setpowerOff s = .next (
    if s.plat.changing then s.reply 1 else if s.evictBusy then s.reply 2 else (s.reply 0).railsDown) := congrArg Host.Outcome.next (if_pos h)

/-- The ports but the spares are DOWN. -/
def portsDown (s : State) : State :=
  { s with ports := s.ports.map fun (p : Nat × Port) => (p.1, if p.2.st = PortState.spare then p.2 else { p.2 with st := PortState.down }) }

theorem portsDown_st {e : Nat × Port} (he : e ∈ s.portsDown.ports) : e.2.st = .spare ∨ e.2.st = .down := by
  obtain ⟨p, -, rfl⟩ := List.mem_map.1 he
  dsimp only
  split
  · next h => exact .inl h
  · exact .inr rfl

/-- A change to RETENTION waits while a tenant runs. -/
theorem enterRetention_waits {n : Nat} (hn : n < 16) (ha : (s.tenant n).active = true) (hp : (s.tenant n).preempted = false) :
    s.enterRetention = s := by
  refine if_neg fun h => ?_
  have := List.all_eq_true.1 h.2 n (List.mem_range.2 hn)
  simp [ha, hp] at this

/-- It completes once no tenant runs. -/
theorem enterRetention_completes (hc : s.plat.changing = true)
    (h : ∀ n, n < 16 → (s.tenant n).active = false ∨ (s.tenant n).preempted = true) :
    s.enterRetention = (({ (s.portsDown.tracePorts s).trace (.power none 2) with
      plat := { s.plat with power := .retention, changing := false } } : State).addOut (.reply 0 [])) := by
  have hall : (List.range 16).all (fun m => !(s.tenant m).active || (s.tenant m).preempted) = true :=
    List.all_eq_true.2 fun m hm => by rcases h m (List.mem_range.1 hm) with h | h <;> simp [h]
  have hplat : ((s.portsDown.tracePorts s).trace (.power none 2)).plat = s.plat := by
    rw [trace_plat, tracePorts_plat]
    rfl
  rw [← hplat]
  exact if_pos ⟨hc, hall⟩

end State

end Sys2Proof.Machine

namespace Sys2Proof.Claim.PowerChange

open Sys2Proof Sys2Proof.Machine Sys2Proof.Machine.State

variable {s : State}

/-! ## The clauses -/

theorem powerOn_boots (h : s.plat.power = .off ∨ s.fw.ready = false) (hf : s.fw.fatal = false) :
    ∃ t : State, exec .powerOn s = .next t ∧ t.plat.power = .active ∧ t.plat.debug = .off ∧
      (∀ i, s.plat.image = some i → imageOk s.plat.minVersion i = true → s.pkg < 256 → t.fw.ready = true ∧ t.plat.running = some i ∧
        t.fw.qcbBase % 4096 = 0 ∧ (∀ o, o < 0x40000 → t.dm.byte (t.fw.qcbBase % 2 ^ 48 + o) = 0) ∧
        (∀ k, k < 33 → (t.hart k).running = true ∧ (t.hart k).pc = 0) ∧ (t.port 30).st = .spare ∧ (t.port 31).st = .spare ∧
        ∀ n, n < 15 →
          let c := if n < s.pkg % 16 then n else n + 1
          let r := if n < s.pkg / 16 then n else n + 1
          t.peer n = s.pkg / 16 * 16 + c ∧ t.peer (n + 15) = r * 16 + s.pkg % 16 ∧
          ∀ m, m = n ∨ m = n + 15 → (t.port m).st = (if t.present.contains (t.peer m) then .up else .down)) ∧
      ((∀ i, s.plat.image = some i → imageOk s.plat.minVersion i = false) → t.fw = s.fw ∧ t.ports = s.ports) := by
  by_cases hacc : ∃ i, s.plat.image = some i ∧ imageOk s.plat.minVersion i = true
  · obtain ⟨i, hi, hok⟩ := hacc
    refine ⟨s.booted i, exec_powerOn_accepted h hf hi hok, by rw [booted_plat]; rfl, by rw [booted_plat]; rfl, ?_, ?_⟩
    · intro j hj _ hpkg
      obtain rfl : i = j := Option.some.inj (hi.symm.trans hj)
      refine ⟨by rw [booted_fw]; rfl, by rw [booted_plat], ?_, fun o => booted_qcb i, fun k hk => ?_,
        booted_spare i hpkg (by decide) (by decide), booted_spare i hpkg (by decide) (by decide), fun n hn => ?_⟩
      · have hb : (s.booted i).fw.qcbBase = s.pkg * 2 ^ 48 + qcbOffset := by rw [booted_fw]; rfl
        have hm := qcbOffset_mod
        omega
      · rw [booted_hart i hk]
        exact ⟨rfl, rfl⟩
      · obtain ⟨hrow, hrowUp⟩ := booted_row (s := s) i hn
        obtain ⟨hcol, hcolUp⟩ := booted_column i hpkg hn
        refine ⟨hrow, hcol, ?_⟩
        rintro m (rfl | rfl)
        · exact hrowUp
        · exact hcolUp
    · intro hno
      exact absurd hok (by simp [hno i hi])
  · have hno : ∀ i, s.plat.image = some i → imageOk s.plat.minVersion i = false := fun i hi =>
      Bool.eq_false_iff.2 fun hok => hacc ⟨i, hi, hok⟩
    exact ⟨s.poweredUp, exec_powerOn_unaccepted h hf hno, rfl, rfl, fun i hi hok => absurd ⟨i, hi, hok⟩ hacc, fun _ => ⟨rfl, rfl⟩⟩

theorem railsDown_core (k : Nat) : (s.railsDown.core k).ulm = Mem.empty ∧ (s.railsDown.core k).gfile = [] := by
  obtain ⟨hu, hg, -⟩ := s.unitsReset_core .off Mem.empty k
  exact ⟨hu, hg⟩

theorem lossOfMainPower_clears : ∃ t : State, exec .lossOfMainPower s = .next t ∧ t.plat.power = .off ∧ t.plat.debug = .off ∧
    t.plat.linkKeys = false ∧ t.plat.idKey = false ∧ t.dm = Mem.empty ∧ t.plat.minVersion = s.plat.minVersion ∧
    t.plat.image = s.plat.image ∧ t.present = s.present ∧ (∀ k, (t.core k).ulm = Mem.empty ∧ (t.core k).gfile = []) ∧
    t.fw.ready = false :=
  ⟨s.railsDown, rfl, rfl, rfl, rfl, rfl, rfl, rfl, rfl, rfl, railsDown_core, rfl⟩

theorem packageReset_keepsDm (h : s.powered = true) : ∃ t : State, exec .packageReset s = .next t ∧ t.dm = s.dm ∧
    t.fw.ready = false ∧ t.fw.fatal = false ∧ t.plat.power = .active ∧ t.plat.minVersion = s.plat.minVersion ∧
    ∀ k, (t.core k).gfile = [] ∧ (t.core k).assigned = false := by
  refine ⟨_, congrArg Host.Outcome.next (if_pos h), rfl, rfl, rfl, rfl, rfl, fun k => ?_⟩
  obtain ⟨-, hg, ha⟩ := s.unitsReset_core .active s.dm k
  exact ⟨hg, ha⟩

theorem setpower_busy (h : s.powered = true) (hc : s.plat.changing = true) : exec .setpowerRetention s = .next (s.reply 1) ∧
    exec .setpowerActive s = .next (s.reply 1) ∧ exec .setpowerOff s = .next (s.reply 1) := by
  rw [exec_setpowerRetention h, exec_setpowerActive h, exec_setpowerOff h, if_pos hc, if_pos hc, if_pos hc]
  exact ⟨rfl, rfl, rfl⟩

section
variable (h : s.powered = true) (hc : s.plat.changing = false)
include h hc

theorem setpowerRetention_again (hp : s.plat.power = .retention) : exec .setpowerRetention s = .next (s.reply 0) := by
  rw [exec_setpowerRetention h, if_neg (by simp [hc]), if_pos hp]

theorem setpower_duringHandshake (hp : s.plat.power = .active) (he : s.evictBusy = true) :
    exec .setpowerRetention s = .next (s.reply 2) ∧ exec .setpowerOff s = .next (s.reply 2) := by
  rw [exec_setpowerRetention h, exec_setpowerOff h]
  simp [hc, hp, he]

/-- SETPOWER RETENTION that is not refused begins the change. -/
theorem setpowerRetention_begins (hp : s.plat.power = .active) (he : s.evictBusy = false) :
    exec .setpowerRetention s = .next s.retentionBegun.enterRetention := by
  rw [exec_setpowerRetention h]
  simp [hc, hp, he]

theorem setpowerRetention_waits (hp : s.plat.power = .active) (he : s.evictBusy = false)
    (hn : ∃ n, n < 16 ∧ (s.tenant n).active = true ∧ (s.tenant n).preempted = false) :
    exec .setpowerRetention s = .next { s with plat := { s.plat with changing := true } } := by
  obtain ⟨n, hn, ha, hr⟩ := hn
  rw [setpowerRetention_begins h hc hp he, enterRetention_waits (s := s.retentionBegun) hn ha hr]
  rfl

theorem setpowerRetention_completes (hp : s.plat.power = .active) (he : s.evictBusy = false)
    (hn : ∀ n, n < 16 → (s.tenant n).active = false ∨ (s.tenant n).preempted = true) :
    ∃ t : State, exec .setpowerRetention s = .next t ∧ t.plat = { s.plat with power := .retention } ∧
      t.out.getLast? = some (.reply 0 []) ∧ (∀ e ∈ t.ports, e.2.st = .spare ∨ e.2.st = .down) ∧ t.cores = s.cores ∧ t.dm = s.dm := by
  rw [setpowerRetention_begins h hc hp he, enterRetention_completes (s := s.retentionBegun) rfl hn]
  refine ⟨_, rfl, ?_, List.getLast?_concat, fun e hm => ?_, ?_, ?_⟩
  · simp [retentionBegun, updPlat, hc]
  · refine portsDown_st (s := s.retentionBegun) ?_
    simpa using hm
  · simp [portsDown, retentionBegun, updPlat]
  · simp [portsDown, retentionBegun, updPlat]

theorem setpowerActive_again (hp : s.plat.power = .active) : exec .setpowerActive s = .next (s.reply 0) := by
  rw [exec_setpowerActive h, if_neg (by simp [hc]), if_pos hp]

theorem setpowerActive_wakes (hp : s.plat.power = .retention) :
    ∃ t : State, exec .setpowerActive s = .next t ∧ t.plat = { s.plat with power := .active } ∧
      (∀ e ∈ s.ports, s.linked e.2 = true → ∃ e' ∈ t.ports, e'.1 = e.1 ∧ e'.2.st = .up) ∧ t.cores = s.cores ∧ t.dm = s.dm := by
  rw [exec_setpowerActive h, if_neg (by simp [hc]), if_neg (by simp [hp])]
  refine ⟨_, rfl, ?_, fun e he hl => ?_, ?_, ?_⟩
  · simp [reply, updPlat]
  · refine trainLinks_up ((s.updPlat fun p => { p with power := .active }).trace (.power none 0)) (e := e) ?_ ?_
    · simpa [updPlat] using he
    · simpa [linked, updPlat] using hl
  · simp [reply, updPlat]
  · simp [reply, updPlat]

theorem setpowerOff_clears (he : s.evictBusy = false) : ∃ t : State, exec .setpowerOff s = .next t ∧ t.plat.power = .off ∧
    t.plat.linkKeys = false ∧ t.plat.idKey = false ∧ t.dm = Mem.empty ∧ (∀ k, (t.core k).ulm = Mem.empty ∧ (t.core k).gfile = []) := by
  rw [exec_setpowerOff h, if_neg (by simp [hc]), if_neg (by simp [he])]
  exact ⟨_, rfl, rfl, rfl, rfl, rfl, railsDown_core⟩

end

theorem dieIdleEntry_gates (h : s.mayIdle s.subj = true) : exec .dieIdleEntry s =
    .next ((s.updDie s.subj fun d => { d with gated := true }).trace (.power (some s.subj) 1)) := by
  change s.happen (occDieIdleEntry s) = _
  rw [occDieIdleEntry, if_pos h]
  rfl

theorem dieWake_ungates (hg : (s.die s.subj).gated = true) (hd : s.dieCalled s.subj = true) : exec .dieWake s =
    .next ((s.updDie s.subj fun d => { d with gated := false }).trace (.power (some s.subj) 0)) := by
  change s.happen (occDieWake s) = _
  rw [occDieWake, if_pos ⟨hg, hd⟩, wakeDie, if_pos hg]
  rfl

theorem slotUncorrectableError_poisons : ∃ t : State, exec .slotUncorrectableError s = .next t ∧
    (let slot := FMap.get TileSlot.reset (s.core (s.subj / 32)).tiles.slots (s.subj % 32)
     FMap.get TileSlot.reset (t.core (s.subj / 32)).tiles.slots (s.subj % 32) = { slot with poison := true }) ∧
    ∀ k, k ≠ s.subj / 32 → t.core k = s.core k := by
  refine ⟨_, rfl, ?_, fun k hk => core_updCore_other _ _ hk⟩
  rw [core_updCore_same]
  exact FMap.get_set_same ..

end Sys2Proof.Claim.PowerChange

namespace Sys2Proof.Claim

open Sys2Proof Sys2Proof.Machine Sys2Proof.Machine.State

theorem powerChanges : Claim.PowerChanges := fun _ =>
  ⟨PowerChange.powerOn_boots, PowerChange.lossOfMainPower_clears, PowerChange.packageReset_keepsDm, PowerChange.setpower_busy,
    fun h hc =>
      ⟨PowerChange.setpowerRetention_again h hc, PowerChange.setpower_duringHandshake h hc,
        PowerChange.setpowerRetention_waits h hc, PowerChange.setpowerRetention_completes h hc,
        PowerChange.setpowerActive_again h hc, PowerChange.setpowerActive_wakes h hc, PowerChange.setpowerOff_clears h hc⟩,
    PowerChange.dieIdleEntry_gates, PowerChange.dieWake_ungates, PowerChange.slotUncorrectableError_poisons⟩

end Sys2Proof.Claim
end

section
/-! PROOFS. What the destruction of tenants leaves of the platform's state and of the other tenants (R381, R386, R387). -/

namespace Sys2Proof.Machine

open Sys2Proof

namespace State

/-- The state of the platform and the tenants' registers are the same. -/
structure SameTenants (s t : State) : Prop where
  plat : t.plat = s.plat
  tenants : t.tenants = s.tenants

namespace SameTenants

theorem refl (s : State) : SameTenants s s := ⟨rfl, rfl⟩

theorem trans {s t u : State} (h : SameTenants s t) (h' : SameTenants t u) : SameTenants s u :=
  ⟨h'.plat.trans h.plat, h'.tenants.trans h.tenants⟩

/-- What precedes a step that keeps both may change other fields. -/
theorem after {s t u : State} (h : SameTenants t u) (hp : t.plat = s.plat) (ht : t.tenants = s.tenants) : SameTenants s u :=
  ⟨h.plat.trans hp, h.tenants.trans ht⟩

theorem foldl {α : Type} {f : State → α → State} (hf : ∀ s a, SameTenants s (f s a)) (l : List α) (s : State) :
    SameTenants s (l.foldl f s) := by
  induction l generalizing s with
  | nil => exact refl s
  | cons a r ih => exact (hf s a).trans (ih (f s a))

theorem tenant {s t : State} (h : SameTenants s t) (n : Nat) : t.tenant n = s.tenant n := by
  rw [State.tenant, State.tenant, h.tenants]

end SameTenants

/-! ## Guests and work of a tenant leave -/

theorem leave_sameTenants (s : State) (i : NetItem) : SameTenants s (s.leave i) := by
  unfold leave
  dsimp only
  split
  · exact ⟨rfl, rfl⟩
  · split
    · split <;> exact ⟨rfl, rfl⟩
    · exact ⟨rfl, rfl⟩

theorem post_sameTenants (s : State) (dst : Nat) (m : NetMsg) : SameTenants s (s.post dst m) := by
  have hs : SameTenants s (s.send m) := ⟨rfl, rfl⟩
  unfold post
  dsimp only
  split
  · exact hs
  · exact hs.trans (leave_sameTenants _ _)

theorem goHome_sameTenants (s : State) (p : MigPacket) (why : HomeWhy) : SameTenants s (s.goHome p why) :=
  (post_sameTenants (s.guestLeft p.home p.home.pkg p.visit) _ _).after rfl rfl

theorem expel_sameTenants (s : State) (t : Nat) : SameTenants s (s.expel t) := by
  unfold expel
  dsimp only
  split <;> exact (goHome_sameTenants _ _ _).after rfl rfl

theorem sendGuestsHome_sameTenants (s : State) (n : Nat) : SameTenants s (s.sendGuestsHome n) := by
  unfold sendGuestsHome
  refine (SameTenants.foldl (fun s t => ?_) (s.guestsOf n) s).trans (SameTenants.foldl (fun s d => ?_) (List.range 8) _)
  · split
    · exact expel_sameTenants s t
    · exact SameTenants.refl s
  · refine SameTenants.foldl (fun s p => ?_) (s.queuedGuests n d) s
    exact (goHome_sameTenants _ p _).after rfl rfl

theorem dropGuests_sameTenants (s : State) (n : Nat) : SameTenants s (s.dropGuests n) := by
  unfold dropGuests
  refine (SameTenants.foldl (fun s t => ?_) (s.guestsOf n) s).trans (sendGuestsHome_sameTenants _ n)
  exact (goHome_sameTenants _ _ _).after rfl rfl

theorem farStoreDone_sameTenants (s : State) (a : Access) : SameTenants s (s.farStoreDone a) := by
  unfold farStoreDone
  dsimp only
  split
  · exact (post_sameTenants _ _ _).after rfl rfl
  · exact ⟨rfl, rfl⟩

theorem dropFarStores_sameTenants (s : State) (n : Nat) : SameTenants s (s.dropFarStores n) :=
  SameTenants.foldl farStoreDone_sameTenants _ s

/-! ## DESTROY -/

/-- A tenant's guests, work, cores and translations have left, and its registers are still there. -/
def emptied (s : State) (n : Nat) : State :=
  ((((s.coresOf n).foldl (fun s k => s.updCore k releasedCore)
    (((s.dropGuests n).dropWork n (s.coresOf n)).dropFarStores n)).dropTlb n).dropGuestEntries n)

theorem destroyTenant_eq (s : State) (n : Nat) :
    s.destroyTenant n = ((s.emptied n).updTenant n fun _ => Tenant.reset).settleSecurity := rfl

theorem dropWork_sameTenants (s : State) (n : Nat) (l : List Nat) : SameTenants s (s.dropWork n l) := ⟨rfl, rfl⟩

theorem dropTlb_sameTenants (s : State) (n : Nat) : SameTenants s (s.dropTlb n) := ⟨rfl, rfl⟩

theorem dropGuestEntries_sameTenants (s : State) (n : Nat) : SameTenants s (s.dropGuestEntries n) := ⟨rfl, rfl⟩

theorem releaseCores_sameTenants (s : State) (l : List Nat) : SameTenants s (l.foldl (fun s k => s.updCore k releasedCore) s) := by
  refine SameTenants.foldl (fun s k => ?_) l s
  exact ⟨rfl, rfl⟩

theorem emptied_sameTenants (s : State) (n : Nat) : SameTenants s (s.emptied n) :=
  (dropGuests_sameTenants s n).trans <| (dropWork_sameTenants _ n (s.coresOf n)).trans <| (dropFarStores_sameTenants _ n).trans <|
    (releaseCores_sameTenants _ (s.coresOf n)).trans <| (dropTlb_sameTenants _ n).trans (dropGuestEntries_sameTenants _ n)

/-- Where a package is ATTESTED, a tenant of it is (R386). -/
def AttestedHasTenant (s : State) : Prop := s.plat.security = .attested → ∃ m < 16, (s.tenant m).attestKey.isSome = true

theorem settleSecurity_tenants (s : State) : s.settleSecurity.tenants = s.tenants := by
  unfold settleSecurity
  split <;> rfl

theorem settleSecurity_plat (s : State) : s.settleSecurity.plat = s.plat ∨ s.settleSecurity.plat = { s.plat with security := .secure } := by
  unfold settleSecurity
  split
  · exact .inr rfl
  · exact .inl rfl

theorem settleSecurity_attested (s : State) : AttestedHasTenant s.settleSecurity := by
  intro h
  by_cases hc : s.plat.security = .attested ∧ (!(List.range 16).any fun m => (s.tenant m).attestKey.isSome) = true
  · rw [settleSecurity, if_pos hc] at h
    exact absurd h (by simp)
  · rw [settleSecurity, if_neg hc] at h ⊢
    have hany : ((List.range 16).any fun m => (s.tenant m).attestKey.isSome) = true := by
      cases hx : (List.range 16).any fun m => (s.tenant m).attestKey.isSome with
      | true => rfl
      | false => exact absurd ⟨h, by rw [hx]; rfl⟩ hc
    obtain ⟨m, hm, hk⟩ := List.any_eq_true.1 hany
    exact ⟨m, List.mem_range.1 hm, hk⟩

/-! ## The attested tenants are destroyed (R387) -/

/-- DESTROY of a tenant, and the device memory of its windows is zeroed. -/
def eraseTenant (s : State) (n : Nat) : State := (s.destroyTenant n).zeroWindows (s.tenant n).windows

theorem destroyAttested_eq (s : State) : s.destroyAttested = s.attested.foldl eraseTenant s := rfl

/-- The tenants of list l are destroyed: the others are as they were, and of the platform's state at most security has changed, to SECURE. -/
structure Erased (l : List Nat) (s t : State) : Prop where
  gone : ∀ n ∈ l, t.tenant n = Tenant.reset
  others : ∀ n, n ∉ l → t.tenant n = s.tenant n
  plat : t.plat = s.plat ∨ t.plat = { s.plat with security := .secure }

theorem eraseTenant_erased (s : State) (n : Nat) : Erased [n] s (s.eraseTenant n) := by
  have hsame := s.emptied_sameTenants n
  have htenant : ∀ m, (s.eraseTenant n).tenant m = ((s.emptied n).updTenant n fun _ => Tenant.reset).tenant m := fun m =>
    congrArg (FMap.get Tenant.reset · m) (settleSecurity_tenants _)
  refine ⟨fun m hm => ?_, fun m hm => ?_, ?_⟩
  · rw [htenant, List.mem_singleton.1 hm, tenant_updTenant_same]
  · rw [htenant, tenant_updTenant_other _ _ (by simpa using hm), hsame.tenant]
  · rw [← hsame.plat]
    exact settleSecurity_plat ((s.emptied n).updTenant n fun _ => Tenant.reset)

theorem eraseTenant_attested (s : State) (n : Nat) : AttestedHasTenant (s.eraseTenant n) :=
  settleSecurity_attested ((s.emptied n).updTenant n fun _ => Tenant.reset)

theorem Erased.cons {n : Nat} {l : List Nat} {s t u : State} (h : Erased [n] s t) (h' : Erased l t u) : Erased (n :: l) s u := by
  refine ⟨fun m hm => ?_, fun m hm => ?_, ?_⟩
  · by_cases hl : m ∈ l
    · exact h'.gone m hl
    · rw [h'.others m hl]
      exact h.gone m (by simpa [hl] using hm)
  · obtain ⟨hn, hl⟩ := not_or.1 (mt List.mem_cons.2 hm)
    rw [h'.others m hl, h.others m (by simpa using hn)]
  · rcases h.plat with e | e <;> rcases h'.plat with e' | e' <;> simp [e', e]

theorem foldl_eraseTenant (l : List Nat) (s : State) : Erased l s (l.foldl eraseTenant s) := by
  induction l generalizing s with
  | nil => exact ⟨by simp, fun _ _ => rfl, .inl rfl⟩
  | cons n l ih => exact (s.eraseTenant_erased n).cons (ih (s.eraseTenant n))

/-- Once a tenant has been destroyed, security agrees with those that are left. -/
theorem foldl_eraseTenant_attested (l : List Nat) (s : State) (h : l ≠ []) : AttestedHasTenant (l.foldl eraseTenant s) := by
  obtain ⟨r, n, rfl⟩ := List.eq_nil_or_concat l |>.resolve_left h
  rw [List.concat_eq_append, List.foldl_append]
  exact eraseTenant_attested _ n

theorem destroyAttested_erased (s : State) : Erased s.attested s s.destroyAttested := foldl_eraseTenant _ _

/-- No attested tenant is left. -/
theorem destroyAttested_none (s : State) {m : Nat} (hm : m < 16) : (s.destroyAttested.tenant m).attestKey.isSome = false := by
  by_cases h : m ∈ s.attested
  · rw [s.destroyAttested_erased.gone m h]
    rfl
  · rw [s.destroyAttested_erased.others m h]
    simpa [attested, hm] using h

theorem security_eq_secure {x : Security} (ho : x ≠ .open) (ha : x ≠ .attested) : x = .secure := by
  cases x with
  | secure => rfl
  | attested => exact absurd rfl ha
  | _ => exact absurd rfl ho

/-- ATTESTED becomes SECURE with the last of them (R386). -/
theorem destroyAttested_secure (s : State) (ho : s.plat.security ≠ .open) (h : s.plat.security = .secure ∨ s.attested ≠ []) :
    s.destroyAttested.plat.security = .secure := by
  rcases s.destroyAttested_erased.plat with e | e
  · rw [e]
    rcases h with h | h
    · exact h
    · have hno : s.plat.security ≠ .attested := fun ha => by
        obtain ⟨m, hm, hk⟩ := foldl_eraseTenant_attested s.attested s h ((congrArg Platform.security e).trans ha)
        exact absurd hk (by rw [← destroyAttested_eq, s.destroyAttested_none hm]; decide)
      exact security_eq_secure ho hno
  · rw [e]

theorem destroyAttested_challenges (s : State) : s.destroyAttested.plat.challenges = s.plat.challenges := by
  rcases s.destroyAttested_erased.plat with e | e <;> rw [e]

end State

end Sys2Proof.Machine
end

section
/-! PROOFS. The management messages (R386 to R389, R392 to R394) and the debug commands (R385, R387, R389). -/

namespace Sys2Proof.Claim.Messages

open Sys2Proof Sys2Proof.Machine Sys2Proof.Machine.State

variable {s : State}

/-- The identity store answers whatever the state of power. -/
theorem identityStoreRead_answers {o : Nat} (ho : o < 512) : exec (.identityStoreRead o) s = .next (s.addOut (.reply 0 [identity o])) := by
  change Host.Outcome.next (s.reply 0 (if o < 512 then [identity o] else [])) = _
  rw [if_pos ho]
  rfl

section
variable (h : s.powered = true)
include h

theorem idread_answers : exec .idread s = .next (s.addOut (.reply 0 ((List.range 512).map identity))) :=
  congrArg Host.Outcome.next (if_pos h)

theorem idchal_answers (chal : List Byte) : exec (.idchal chal) s = .next (
    if s.plat.idKey then s.addOut (.reply 0 (Config.sm2Sign (Config.sm3 (chal ++ serial)))) else s.addOut (.reply 2 [])) :=
  congrArg Host.Outcome.next (if_pos h)

theorem getstate_answers : exec .getstate s = .next (s.addOut (.reply 0 (s.stateBytes ++ s.evictBytes))) :=
  congrArg Host.Outcome.next (if_pos h)

theorem evstat_answers : exec .evstat s = .next (s.addOut (.reply 0 s.evictBytes)) := congrArg Host.Outcome.next (if_pos h)

theorem pldmMonitor_answers : ∃ r, exec .pldmMonitor s =
    .next (({ s with freeCount := s.freeCount + 1 } : State).addOut (.reply 0 (r ++ s.stateBytes))) :=
  ⟨_, congrArg Host.Outcome.next (if_pos h)⟩

theorem provision_answers : exec .provision s = .next (
    if s.plat.security = .open then ({ s with plat := { s.plat with security := .secure } } : State).addOut (.reply 0 [])
    else s.addOut (.reply 2 [])) := congrArg Host.Outcome.next (if_pos h)

theorem debugchal_answers : exec .debugchal s = .next (({ s with plat := { s.plat with
    issued := s.plat.issued + 1, challenges := s.plat.challenges ++ [Config.challenge s.plat.issued] } } : State).addOut
    (.reply 0 (Config.challenge s.plat.issued))) := congrArg Host.Outcome.next (if_pos h)

theorem pldmFirmwareUpdate_answers (im : FwImage) : exec (.pldmFirmwareUpdate im) s = .next (
    if imageOk s.plat.minVersion im then ({ s with plat := { s.plat with image := some im } } : State).addOut (.reply 0 [])
    else s.addOut (.reply 3 [])) := congrArg Host.Outcome.next (if_pos h)

theorem acceptmin_answers (n : Nat) : exec (.acceptmin n) s =
    .next (({ s with plat := { s.plat with minVersion := max s.plat.minVersion n } } : State).addOut (.reply 0 [])) :=
  congrArg Host.Outcome.next (if_pos h)

/-! ## DEBUGAUTH (R387, R397; DEDUCED, log entry 87) -/

theorem debugauth_other {tg : DebugState} (ht : tg ≠ .control) (mask : BitVec 16) (chal sig : List Byte)
    (sigs : List (Nat × List Byte)) : exec (.debugauth tg mask chal sig sigs) s =
    .next (({ s with plat := { s.plat with debug := tg } } : State).addOut (.reply 0 [])) := by
  cases tg with
  | off => exact congrArg Host.Outcome.next (if_pos h)
  | observe => exact congrArg Host.Outcome.next (if_pos h)
  | control => exact absurd rfl ht

variable (mask : BitVec 16) (chal sig : List Byte) (sigs : List (Nat × List Byte))

/-- The branches of an authorisation of CONTROL. -/
theorem debugauth_control : exec (.debugauth .control mask chal sig sigs) s = .next (
    if s.evictUnderWay then s.reply 2
    else if s.plat.security = .open then (s.updPlat fun p => { p with debug := .control, debugMask := mask }).reply 0
    else if !s.authorised mask chal sig sigs then s.reply 3
    else (s.destroyAttested.updPlat fun p =>
      { p with debug := .control, debugMask := mask, challenges := p.challenges.erase chal }).reply 0) :=
  congrArg Host.Outcome.next (if_pos h)

theorem debugauth_underWay (he : s.evictUnderWay = true) :
    exec (.debugauth .control mask chal sig sigs) s = .next (s.addOut (.reply 2 [])) := by
  rw [debugauth_control h, if_pos he]
  rfl

theorem debugauth_open (he : s.evictUnderWay = false) (ho : s.plat.security = .open) :
    exec (.debugauth .control mask chal sig sigs) s =
      .next (({ s with plat := { s.plat with debug := .control, debugMask := mask } } : State).addOut (.reply 0 [])) := by
  rw [debugauth_control h, if_neg (by simp [he]), if_pos ho]
  rfl

theorem debugauth_unauthorised (he : s.evictUnderWay = false) (ho : s.plat.security ≠ .open)
    (ha : s.authorised mask chal sig sigs = false) :
    exec (.debugauth .control mask chal sig sigs) s = .next (s.addOut (.reply 3 [])) := by
  rw [debugauth_control h, if_neg (by simp [he]), if_neg ho, if_pos (by simp [ha])]
  rfl

theorem debugauth_authorised (he : s.evictUnderWay = false) (ho : s.plat.security ≠ .open)
    (ha : s.authorised mask chal sig sigs = true) : ∃ t : State, exec (.debugauth .control mask chal sig sigs) s = .next t ∧
      t.plat.debug = .control ∧ t.plat.debugMask = mask ∧
      (s.plat.security = .secure ∨ s.attested ≠ [] → t.plat.security = .secure) ∧
      t.plat.challenges = s.plat.challenges.erase chal ∧ ∀ m ∈ s.attested, (t.tenant m).active = false := by
  rw [debugauth_control h, if_neg (by simp [he]), if_neg ho, if_neg (by simp [ha])]
  refine ⟨_, rfl, rfl, rfl, s.destroyAttested_secure ho, ?_, fun m hm => ?_⟩
  · exact congrArg (List.erase · chal) s.destroyAttested_challenges
  · exact congrArg Tenant.active (s.destroyAttested_erased.gone m hm)

/-! ## ATTEST (R388) -/

theorem attest_refused {n : Nat} (key : List Byte) (hn : s.plat.security = .open ∨ s.plat.debug = .control ∨
    (s.tenant n).active = false ∨ s.plat.idKey = false) : exec (.attest n key chal) s = .next (s.addOut (.reply 2 [])) := by
  refine congrArg Host.Outcome.next ((if_pos h).trans (if_pos ?_))
  simpa using hn

theorem attest_reports {n : Nat} (key : List Byte) (ho : s.plat.security ≠ .open) (hd : s.plat.debug ≠ .control)
    (ha : (s.tenant n).active = true) (hk : s.plat.idKey = true) : ∃ t : State, exec (.attest n key chal) s = .next t ∧
      t.plat.security = .attested ∧ (t.tenant n).attestKey = some key ∧ t.cores = s.cores ∧
      (let d := Config.sm3 ((s.plat.running.map (·.body)).getD []) ++ Config.sm3 (s.tdesc.read (256 * n) 256) ++ Config.sm3 chal
       t.out = s.out ++ [.reply 0 (d ++ Config.sm2Sign d)]) := by
  refine ⟨_, congrArg Host.Outcome.next ((if_pos h).trans (if_neg ?_)), rfl, ?_, rfl, rfl⟩
  · simp [ho, hd, ha, hk]
  · exact congrArg Tenant.attestKey (tenant_updTenant_same s n fun t => { t with attestKey := some key })

end

end Sys2Proof.Claim.Messages

namespace Sys2Proof.Claim.DebugCommand

open Sys2Proof Sys2Proof.Machine Sys2Proof.Machine.State

variable {s : State}

section
variable (h : s.powered = true)
include h

/-! ## The debug commands -/

theorem debugAccess_refused {tg : DebugTarget} (hc : isCounter tg = false) (hm : s.debugMay (debugCore tg) = false)
    (x : Option Word) : exec (.debugAccess tg x) s = .next (s.reply 2) :=
  congrArg Host.Outcome.next ((if_pos h).trans ((if_neg (by simp [hc])).trans (if_pos (by simp [hm]))))

/-- An access of a register or a word that debug may touch, of one that is there. -/
theorem debugAccess_performs {tg : DebugTarget} (hc : isCounter tg = false) (hm : s.debugMay (debugCore tg) = true) (x : Option Word)
    (t : State) (v : Word) (hd : (s.ungate (debugCore tg)).debugDo tg x = some (t, v)) :
    exec (.debugAccess tg x) s = .next (if x.isSome then t else t.addOut (.debugData v)) := by
  refine congrArg Host.Outcome.next ((if_pos h).trans ((if_neg (by simp [hc])).trans ((if_neg (by simp [hm])).trans ?_)))
  rw [hd]

/-- A read of a counter that debug may observe, of one that is there. -/
theorem debugAccess_counter {tg : DebugTarget} (hc : isCounter tg = true) (hd : s.plat.debug ≠ .off) {v : Word}
    (hv : s.counter tg = some v) : exec (.debugAccess tg none) s = .next (s.addOut (.debugData v)) := by
  have hm : s.mayObserve = true := by simp [mayObserve, h, hd]
  refine congrArg Host.Outcome.next ((if_pos h).trans ((if_pos hc).trans ?_))
  rw [if_pos ⟨hm, rfl⟩, hv]

theorem debugAccess_off (k : Nat) (hd : s.plat.debug = .off) : exec (.debugAccess (.cycles k) none) s = .next (s.reply 2) := by
  have hm : s.mayObserve = false := by simp [mayObserve, hd]
  refine congrArg Host.Outcome.next ((if_pos h).trans ((if_pos rfl).trans ?_))
  rw [if_neg (by simp [hm])]

theorem debugAccess_cycles {k : Nat} (hd : s.plat.debug ≠ .off) (hk : k < 4096) : exec (.debugAccess (.cycles k) none) s =
    .next (s.addOut (.debugData
      (if (s.core k).assigned ∧ (s.tenant (s.core k).tenant).attestKey.isSome then 0 else BitVec.ofNat 64 (s.cycOf k)))) :=
  debugAccess_counter h rfl hd (if_neg (Nat.not_le.2 hk))

theorem debugAccess_segments {k : Nat} (hd : s.plat.debug ≠ .off) (hk : k < 32) : exec (.debugAccess (.segments k) none) s =
    .next (s.addOut (.debugData (BitVec.ofNat 64 (s.port k).segctr))) :=
  debugAccess_counter h rfl hd (if_neg (Nat.not_le.2 hk))

theorem debugHalt_refused (hm : s.debugMay s.subj = false) : exec .debugHalt s = .next (s.reply 2) :=
  congrArg Host.Outcome.next ((if_pos h).trans (if_pos (by simp [hm])))

/-- DEBUG_HALT stops the threads that run or are parked, and no other. -/
theorem debugHalt_stops (hm : s.debugMay s.subj = true) : exec .debugHalt s = .next ((List.range 64).foldl (fun u i =>
      if (u.thr (s.subj * 64 + i)).st = .run ∨ (u.thr (s.subj * 64 + i)).st = .parked then
        (if u.atBoundary (s.subj * 64 + i) then u.suspend (s.subj * 64 + i) else u.askStop (s.subj * 64 + i) false)
      else u) (s.ungate s.subj)) := by
  refine congrArg Host.Outcome.next ((if_pos h).trans ((if_neg (by simp [hm])).trans ?_))
  congr 1
  funext u i
  dsimp only
  cases (u.thr (s.subj * 64 + i)).st <;> simp

end

end Sys2Proof.Claim.DebugCommand

namespace Sys2Proof.Claim

open Sys2Proof Sys2Proof.Machine Sys2Proof.Machine.State

theorem securityMessagesAnswered : Claim.SecurityMessagesAnswered := fun _ _ n _ mask chal sig key sigs im =>
  ⟨Messages.identityStoreRead_answers, fun h =>
    ⟨Messages.idread_answers h, Messages.idchal_answers h chal, Messages.getstate_answers h, Messages.evstat_answers h,
      Messages.pldmMonitor_answers h, Messages.provision_answers h, Messages.debugchal_answers h,
      fun ht => Messages.debugauth_other h ht mask chal sig sigs, Messages.debugauth_underWay h mask chal sig sigs,
      Messages.debugauth_open h mask chal sig sigs, Messages.debugauth_unauthorised h mask chal sig sigs,
      Messages.debugauth_authorised h mask chal sig sigs, Messages.attest_refused h chal key, Messages.attest_reports h chal key,
      Messages.pldmFirmwareUpdate_answers h im, Messages.acceptmin_answers h n⟩⟩

theorem debugCommands : Claim.DebugCommands := fun _ _ w k h =>
  ⟨DebugCommand.debugAccess_refused h,
    fun hc hm => ⟨DebugCommand.debugAccess_performs h hc hm none, DebugCommand.debugAccess_performs h hc hm (some w)⟩,
    DebugCommand.debugAccess_off h k, DebugCommand.debugAccess_cycles h, DebugCommand.debugAccess_segments h,
    DebugCommand.debugHalt_refused h, DebugCommand.debugHalt_stops h⟩

/-- Settles O50: the changes of power, the management messages and the debug commands, clause by clause. -/
theorem powerAndSecurityComplete : Obligations.PowerAndSecurityComplete :=
  ⟨powerChanges, securityMessagesAnswered, debugCommands⟩

end Sys2Proof.Claim
end

section
/-! PROOFS. Full/empty operations on words that nobody waits for (R24, R108, R109). -/

namespace Sys2Proof.Machine

open Sys2Proof

theorem FMap.find?_erase_same {α : Type} (m : FMap α) (k : Nat) : FMap.find? (FMap.erase m k) k = none := by
  induction m with
  | nil => rfl
  | cons e r ih =>
    obtain ⟨k', w⟩ := e
    by_cases h : k' = k
    · simpa [FMap.erase, h] using ih
    · simpa [FMap.erase, h, FMap.find?, Ne.symm h] using ih

namespace State

variable (s : State)

/-! ## A general register as a destination -/

/-- An update of a core that keeps its threads' records leaves every thread. -/
theorem thr_updCore (k t : Nat) (f : Core → Core) (h : ∀ c, (f c).threads = c.threads) : (s.updCore k f).thr t = s.thr t := by
  by_cases hk : t / 64 = k
  · simp [thr, hk, Core.thread, h]
  · simp only [thr, core_updCore_other _ _ hk]

/-- A result put into a general register changes that register, the thread's own record and the defects of its core. -/
theorem core_putReg_g (t i : Nat) (w : VWord) : (s.putReg t (.g i) w).core (t / 64) =
    ((s.putG t i (w.setWidth 64)).core (t / 64)).setThread (t % 64) ((s.thr t).clearMark (.g i)) := by
  rw [← thr_putG s t t i (w.setWidth 64)]
  exact core_updThr ..

theorem gfile_putReg_g (t i : Nat) (w : VWord) : ((s.putReg t (.g i) w).core (t / 64)).gfile =
    FMap.set (s.core (t / 64)).gfile ((s.thr t).gbase * 8 + i) (w.setWidth 64) := by
  rw [core_putReg_g]
  exact gfile_putG ..

theorem full_putReg_g (t i : Nat) (w : VWord) : ((s.putReg t (.g i) w).core (t / 64)).full = (s.core (t / 64)).full := by
  rw [core_putReg_g, putG, core_updCore_same]
  rfl

theorem feWait_putReg_g (t i : Nat) (w : VWord) : ((s.putReg t (.g i) w).core (t / 64)).feWait = (s.core (t / 64)).feWait := by
  rw [core_putReg_g, putG, core_updCore_same]
  rfl

variable {s}

/-- A thread whose other half neither is withheld nor holds results takes a result at once (R404). -/
theorem deliver_atOnce {t : Nat} (hw : (s.thr t).withheld = none) (hh : (s.thr t).holding = none) (own : Bool) (r : RegRef)
    (w : VWord) : s.deliver own t r w = s.putReg t r w :=
  if_neg (by simp [hw, hh])

/-! ## What a full/empty operation does to its word (R108) -/

/-- The state whose word at off of core k is empty. -/
def feEmptied (s : State) (k off : Nat) : State := s.updCore k fun c => { c with full := FMap.erase c.full (off / 8) }

/-- The state whose word at off of core k holds w and is full. -/
def feFilled (s : State) (k off : Nat) (w : Word) : State :=
  s.updCore k fun c => { c with ulm := c.ulm.write off (leBytes 8 w.toNat), full := FMap.set c.full (off / 8) true }

theorem core_feEmptied (k off : Nat) :
    (s.feEmptied k off).core k = { s.core k with full := FMap.erase (s.core k).full (off / 8) } := core_updCore_same ..

theorem thr_feEmptied (k off t : Nat) : (s.feEmptied k off).thr t = s.thr t := thr_updCore _ _ _ _ fun _ => rfl

theorem fePerform_stfe (t off : Nat) (w : Word) : s.fePerform t off (.stfe w) = s.feFilled (t / 64) off w := rfl

theorem feFilled_full (k off : Nat) (w : Word) : FMap.get false ((s.feFilled k off w).core k).full (off / 8) = true := by
  rw [feFilled, core_updCore_same, FMap.get_set_same]

theorem feFilled_ulm (k off : Nat) (w : Word) :
    ((s.feFilled k off w).core k).ulm = (s.core k).ulm.write off (leBytes 8 w.toNat) := by
  rw [feFilled, core_updCore_same]

section
variable {t : Nat} (hw : (s.thr t).withheld = none) (hh : (s.thr t).holding = none)
include hw hh

theorem fePerform_ldff (off a : Nat) : s.fePerform t off (.ldff a) =
    s.putReg t (.g a) (BitVec.ofNat 4096 ((s.core (t / 64)).ulm.nat off 8)) :=
  deliver_atOnce hw hh ..

theorem fePerform_ldfe (off a : Nat) : s.fePerform t off (.ldfe a) =
    (s.feEmptied (t / 64) off).putReg t (.g a) (BitVec.ofNat 4096 ((s.core (t / 64)).ulm.nat off 8)) :=
  deliver_atOnce (s := s.feEmptied (t / 64) off) (by rw [thr_feEmptied, hw]) (by rw [thr_feEmptied, hh]) ..

/-- No full/empty operation puts another one on the wait list as it is performed. -/
theorem feWait_fePerform (off : Nat) (op : FeOp) :
    ((s.fePerform t off op).core (t / 64)).feWait = (s.core (t / 64)).feWait := by
  cases op with
  | ldfe a => rw [fePerform_ldfe hw hh, feWait_putReg_g, core_feEmptied]
  | ldff a => rw [fePerform_ldff hw hh, feWait_putReg_g]
  | stfe w => rw [fePerform_stfe, feFilled, core_updCore_same]

end

/-! ## Its completion (R24, R109) -/

/-- A change of a word that nobody waits for re-presents nothing. -/
theorem feRepresent_unawaited {k off : Nat} (h : ∀ w ∈ (s.core k).feWait, w.off ≠ off) : s.feRepresent k off = s := by
  have hnone : ((s.core k).feWait.filter fun w => w.off == off) = [] := by simpa [List.filter_eq_nil_iff] using h
  rw [feRepresent, hnone]
  rfl

/-- The executing thread may take its full/empty operation to the aligned word at ad: what R24 has it wait for has been performed, the
word is good, nobody waits for it, and a result goes to its register at once. -/
structure FeClear (s : State) (ad : Word) : Prop where
  inside : ad.toNat ≤ 0x27FF8
  aligned : ad.toNat % 8 = 0
  port : s.portClear s.ck .ulm s.issuePlace = true
  relaxed : s.relaxedBefore s.cur s.issuePlace = 0
  unawaited : ∀ w ∈ (s.core s.ck).feWait, w.off ≠ ad.toNat
  withheld : (s.thr s.cur).withheld = none
  holding : (s.thr s.cur).holding = none
  good : (s.core s.ck).ulm.badIn ad.toNat 8 = none

/-- It is performed where it finds the state it needs, and always where it needs none. -/
theorem feOp_completes {ad : Word} (h : s.FeClear ad) {op : FeOp} {always : Bool}
    (hr : (feReady (FMap.get false (s.core s.ck).full (ad.toNat / 8)) op || always) = true) (isLoad : Bool) :
    s.feOp ad op isLoad always = .done (s.fePerform s.cur ad.toNat op) := by
  have hun : ∀ w ∈ ((s.fePerform s.cur ad.toNat op).core s.ck).feWait, w.off ≠ ad.toNat := by
    rw [ck, feWait_fePerform h.withheld h.holding]
    exact h.unawaited
  have hwait : s.waits (!s.portClear s.ck .ulm s.issuePlace || decide (s.relaxedBefore s.cur s.issuePlace ≠ 0)) = false := by
    simp [waits, h.port, h.relaxed]
  simp only [feOp, Nat.not_lt.2 h.inside, h.aligned, hwait, h.good, hr, feRepresent_unawaited hun, ne_eq, not_true, ite_self, if_true,
    if_false, Bool.false_eq_true]
  cases isLoad && feReady (FMap.get false (s.core s.ck).full (ad.toNat / 8)) op <;> rfl

end State

end Sys2Proof.Machine

namespace Sys2Proof.Claim.FullEmpty

open Sys2Proof Sys2Proof.Machine Sys2Proof.Machine.State

/-! ## The register of a load -/

theorem gEntry_feEmptied (s : State) (k off t : Nat) (a : GReg) : gEntry (s.feEmptied k off) t a = gEntry s t a := by
  rw [gEntry, thr_feEmptied, gEntry]

/-- The register that an operation names holds the number of at most 64 bits that is put there. -/
theorem get_putReg_g (s : State) (t : Nat) (a : GReg) (n : Nat) :
    FMap.get 0 ((s.putReg t (.g a.toNat) (BitVec.ofNat 4096 n)).core (t / 64)).gfile (gEntry s t a) = BitVec.ofNat 64 n := by
  rw [gfile_putReg_g, gEntry, FMap.get_set_same, BitVec.setWidth_ofNat_of_le (by decide)]

/-! ## The four forms (R108) -/

section
variable (s : State) (a b : GReg) (off : Off16)

theorem exec_ldfe : exec (.ldfe a b off) s =
    performK s (.ldfe a b off) fun u => u.feOp (u.rdG b + off.signExtend 64) (.ldfe a.toNat) true false := rfl

theorem exec_ldff : exec (.ldff a b off) s =
    performK s (.ldff a b off) fun u => u.feOp (u.rdG b + off.signExtend 64) (.ldff a.toNat) true false := rfl

theorem exec_stfe : exec (.stfe a off b) s =
    performK s (.stfe a off b) fun u => u.feOp (u.rdG a + off.signExtend 64) (.stfe (u.rdG b)) false false := rfl

theorem exec_stff : exec (.stff a off b) s =
    performK s (.stff a off b) fun u => u.feOp (u.rdG a + off.signExtend 64) (.stfe (u.rdG b)) false true := rfl

end

section
variable {s : State} {ad : Word} (h : s.FeClear ad)
include h

/-- An operation without stream operands whose checks pass and whose effect is a full/empty operation that need not wait. -/
theorem performK_feOp {i : Instr} (hr : Ready s i) (hi : qIn i = []) (ho : qOut i = []) {k : State → Eff} {op : FeOp}
    {isLoad always : Bool} (hk : k s = s.feOp ad op isLoad always)
    (hf : (feReady (FMap.get false (s.core s.ck).full (ad.toNat / 8)) op || always) = true) :
    performK s i k = .next (s.fePerform s.cur ad.toNat op) := by
  obtain ⟨hg, -, -⟩ := hr
  rw [performK_plain hg hi ho, hk, feOp_completes h hf]

variable {a b : GReg} {off : Off16}

/-! ## The four operations -/

theorem ldfe_completes (hr : Ready s (.ldfe a b off)) (had : ad = s.rdG b + off.signExtend 64)
    (hf : FMap.get false (s.core s.ck).full (ad.toNat / 8) = true) :
    ∃ t : State, exec (.ldfe a b off) s = .next t ∧ FMap.find? (t.core s.ck).full (ad.toNat / 8) = none ∧
      FMap.get 0 (t.core s.ck).gfile (gEntry s s.cur a) = BitVec.ofNat 64 ((s.core s.ck).ulm.nat ad.toNat 8) := by
  refine ⟨s.fePerform s.cur ad.toNat (.ldfe a.toNat), ?_, ?_, ?_⟩
  · rw [exec_ldfe, performK_feOp h hr rfl rfl (by rw [had]) (by rw [hf]; rfl)]
  · rw [fePerform_ldfe h.withheld h.holding, ck, full_putReg_g, core_feEmptied]
    exact FMap.find?_erase_same ..
  · rw [fePerform_ldfe h.withheld h.holding, ← gEntry_feEmptied s s.ck ad.toNat]
    exact get_putReg_g ..

theorem ldff_completes (hr : Ready s (.ldff a b off)) (had : ad = s.rdG b + off.signExtend 64)
    (hf : FMap.get false (s.core s.ck).full (ad.toNat / 8) = true) :
    ∃ t : State, exec (.ldff a b off) s = .next t ∧ (t.core s.ck).full = (s.core s.ck).full ∧
      FMap.get 0 (t.core s.ck).gfile (gEntry s s.cur a) = BitVec.ofNat 64 ((s.core s.ck).ulm.nat ad.toNat 8) := by
  refine ⟨s.fePerform s.cur ad.toNat (.ldff a.toNat), ?_, ?_, ?_⟩
  · rw [exec_ldff, performK_feOp h hr rfl rfl (by rw [had]) (by rw [hf]; rfl)]
  · rw [fePerform_ldff h.withheld h.holding, ck, full_putReg_g]
  · rw [fePerform_ldff h.withheld h.holding]
    exact get_putReg_g ..

theorem stfe_completes (hr : Ready s (.stfe a off b)) (had : ad = s.rdG a + off.signExtend 64)
    (hf : FMap.get false (s.core s.ck).full (ad.toNat / 8) = false) :
    ∃ t : State, exec (.stfe a off b) s = .next t ∧ FMap.get false (t.core s.ck).full (ad.toNat / 8) = true ∧
      (t.core s.ck).ulm = (s.core s.ck).ulm.write ad.toNat (leBytes 8 (s.rdG b).toNat) := by
  refine ⟨s.feFilled s.ck ad.toNat (s.rdG b), ?_, feFilled_full .., feFilled_ulm ..⟩
  rw [exec_stfe, performK_feOp h hr rfl rfl (by rw [had]) (by rw [hf]; rfl)]
  rfl

theorem stff_completes (hr : Ready s (.stff a off b)) (had : ad = s.rdG a + off.signExtend 64) :
    ∃ t : State, exec (.stff a off b) s = .next t ∧ FMap.get false (t.core s.ck).full (ad.toNat / 8) = true ∧
      (t.core s.ck).ulm = (s.core s.ck).ulm.write ad.toNat (leBytes 8 (s.rdG b).toNat) := by
  refine ⟨s.feFilled s.ck ad.toNat (s.rdG b), ?_, feFilled_full .., feFilled_ulm ..⟩
  rw [exec_stff, performK_feOp h hr rfl rfl (by rw [had]) (Bool.or_true _)]
  rfl

end

end Sys2Proof.Claim.FullEmpty

namespace Sys2Proof.Claim

open Sys2Proof Sys2Proof.Machine Sys2Proof.Machine.State

/-- Settles O14: each of the four operations is performed at once, and what it leaves is read off the state after it. -/
theorem fullEmptyCompletes : Obligations.FullEmptyCompletes := by
  intro s a b off ad hin hal hport hrel hun hw hh hbad
  have h : s.FeClear ad := ⟨hin, hal, hport, hrel, hun, hw, hh, hbad⟩
  exact ⟨FullEmpty.ldfe_completes h, FullEmpty.ldff_completes h, FullEmpty.stfe_completes h, FullEmpty.stff_completes h⟩

end Sys2Proof.Claim
end

section
/-! PROOFS. The registers of the fault ring under the re-presenting of full/empty operations (R109, R337), and what TRAP, CSRR and CSRW do
(R60, R84, R86, R337, R346 to R349). -/

namespace Sys2Proof.Machine

open Sys2Proof

/-- The registers of a core's fault ring, FRING and FRRD, field by field (R337). -/
structure FaultRing where
  en : Bool
  wr : Nat
  base : Nat
  rd : Nat

/-- The fault ring of a core. -/
def Core.faultRing (c : Core) : FaultRing := { en := c.fringEn, wr := c.fringWr, base := c.fringBase, rd := c.frrd }

namespace State

/-- The fault rings of the package's cores, by core key. -/
def rings (s : State) (k : Nat) : FaultRing := (s.core k).faultRing

variable (s : State)

/-! ## What leaves the fault rings as they are -/

theorem rings_updCore (k : Nat) (f : Core → Core) (h : ∀ c, (f c).faultRing = c.faultRing) : (s.updCore k f).rings = s.rings := by
  funext j
  by_cases hj : j = k
  · rw [hj, rings, core_updCore_same, h, rings]
  · rw [rings, core_updCore_other _ _ hj, rings]

theorem rings_foldl {α : Type} {f : State → α → State} (hf : ∀ s a, (f s a).rings = s.rings) (l : List α) (s : State) :
    (l.foldl f s).rings = s.rings := by
  induction l generalizing s with
  | nil => rfl
  | cons a l ih => rw [List.foldl_cons, ih, hf]

@[simp] theorem rings_setThr (t : Nat) (h : Thread) : (s.setThr t h).rings = s.rings := rings_updCore _ _ _ fun _ => rfl

@[simp] theorem rings_updThr (t : Nat) (f : Thread → Thread) : (s.updThr t f).rings = s.rings := rings_setThr ..

@[simp] theorem rings_putG (t i : Nat) (w : Word) : (s.putG t i w).rings = s.rings := rings_updCore _ _ _ fun _ => rfl

@[simp] theorem rings_send (m : NetMsg) : (s.send m).rings = s.rings := rfl

@[simp] theorem rings_sendFault (m : FaultMsg) : (s.sendFault m).rings = s.rings := rfl

@[simp] theorem rings_guestLeft (l : Loc) (d v : Nat) : (s.guestLeft l d v).rings = s.rings := rfl

@[simp] theorem rings_trace (x : TraceItem) : (s.trace x).rings = s.rings := by
  unfold trace
  split <;> rfl

/-! ## Gangs and faults (R103, R335, R340) -/

@[simp] theorem rings_breakGang (l : Nat) : (s.breakGang l).rings = s.rings := by
  rw [breakGang, rings_updThr, rings_foldl fun _ _ => rings_updThr ..]

@[simp] theorem rings_endGang (l : Nat) : (s.endGang l).rings = s.rings := by
  rw [endGang, rings_updThr, rings_foldl fun _ _ => rings_updThr ..]

@[simp] theorem rings_memberDone (t : Nat) (trapped : Bool) : (s.memberDone t trapped).rings = s.rings := by
  unfold memberDone
  dsimp only
  repeat' split
  all_goals simp

@[simp] theorem rings_dropMatrix (t : Nat) : (s.dropMatrix t).rings = s.rings := by
  have hdrop (p : Prop) [Decidable p] : (if p then s.updCore (t / 64) fun c => c.dropMatrix (t % 64) else s).rings = s.rings := by
    split
    · exact rings_updCore _ _ _ fun _ => rfl
    · rfl
  unfold dropMatrix
  dsimp only
  split
  · exact Eq.trans (rings_updCore _ _ _ fun _ => rfl) (hdrop _)
  · exact hdrop _

/-- A kill takes its thread's registers. -/
@[simp] theorem rings_scrubWindows (k n : Nat) : (s.updCore k fun c => c.scrubWindows n).rings = s.rings := rings_updCore _ _ _ fun _ => rfl

/-- It takes its thread's operations too. -/
@[simp] theorem rings_ops (l : List MemOp) : rings { s with ops := l } = s.rings := rfl

/-- A fault of thread 63 stops the communication unit. -/
@[simp] theorem rings_commIdle (k : Nat) : (s.updCore k fun c => { c with comm := c.comm.idle }).rings = s.rings :=
  rings_updCore _ _ _ fun _ => rfl

@[simp] theorem rings_finishFault (t : Nat) (f : FaultRec) : (s.finishFault t f).rings = s.rings := by
  unfold finishFault
  dsimp only
  split <;> simp [apply_ite rings]

@[simp] theorem rings_takeFault (t : Nat) (f : FaultRec) : (s.takeFault t f).rings = s.rings := by
  unfold takeFault
  dsimp only
  split <;> simp

/-! ## The end of a wait (R40, R64, R404) -/

@[simp] theorem rings_entryFault (t : Nat) (pc : Word32) (f : FaultRec) : (s.entryFault t pc f).rings = s.rings := by
  rw [entryFault, rings_takeFault, rings_updThr]

theorem rings_nextId (n : Nat) : rings { s with nextId := n } = s.rings := rfl

@[simp] theorem rings_enterLine (t : Nat) (pc : Word32) : (s.enterLine t pc).rings = s.rings := by
  rw [enterLine, rings_nextId, rings_updThr]

@[simp] theorem rings_goTo (t : Nat) (npc : Word) : (s.goTo t npc).rings = s.rings := by
  unfold goTo
  dsimp only
  repeat' split
  all_goals simp

@[simp] theorem rings_retire (t : Nat) : (s.retire t).rings = s.rings := by
  unfold retire
  dsimp only
  repeat' split
  all_goals simp

@[simp] theorem rings_doneWaiting (t : Nat) (w : Wait) : (s.doneWaiting t w).rings = s.rings := by
  rw [doneWaiting, rings_retire, rings_updThr]

/-! ## Full/empty operations (R108, R109) -/

theorem rings_deliver_g (own : Bool) (t i : Nat) (w : VWord) : (s.deliver own t (.g i) w).rings = s.rings := by
  unfold deliver putReg
  split <;> simp

@[simp] theorem rings_feDrop (w : FeWait) : (s.feDrop w).rings = s.rings := rings_updCore _ _ _ fun _ => rfl

@[simp] theorem rings_fePerform (t off : Nat) (op : FeOp) : (s.fePerform t off op).rings = s.rings := by
  cases op with
  | ldfe a => exact Eq.trans (rings_deliver_g ..) (rings_updCore _ _ _ fun _ => rfl)
  | ldff a => exact rings_deliver_g ..
  | stfe w => exact rings_updCore _ _ _ fun _ => rfl

/-- A full/empty operation that is presented again is performed, faults or waits on: no way to a fault ring. -/
@[simp] theorem rings_feRepresent (k off : Nat) : (s.feRepresent k off).rings = s.rings := by
  refine rings_foldl (fun u w => ?_) ..
  dsimp only
  split
  · split <;> simp
  · split
    · simp
    · exact Eq.trans (rings_updCore _ _ _ fun _ => rfl) (rings_feDrop ..)

@[simp] theorem rings_setFull (k off : Nat) (full : Bool) : (s.setFull k off full).rings = s.rings := by
  unfold setFull
  dsimp only
  split
  · exact rings_updCore _ _ _ fun _ => rfl
  · exact Eq.trans (rings_feRepresent ..) (rings_updCore _ _ _ fun _ => rfl)

/-! ## FRING and FRRD (R337; DEDUCED, log entry 57) -/

/-- The fault ring of core k is enabled at base: empty, its doorbell word written and empty too. -/
def ringStarted (k base : Nat) : State :=
  (s.updCore k fun c => { c with
    fringEn := true, fringBase := base, fringWr := 0, frrd := 0, ulm := c.ulm.write (base + 2048) (leBytes 8 0) }).setFull k (base + 2048) false

theorem rings_ringStarted (k base : Nat) : (s.ringStarted k base).rings k = { en := true, wr := 0, base := base, rd := 0 } := by
  rw [ringStarted, rings_setFull, rings, core_updCore_same]
  rfl

variable {s}

/-- A value of FRING that the rule allows, written while the ring is off, places it, and starts it where bit 63 is 1. -/
theorem writeFring_allowed {k : Nat} {w : Word} (hen : (s.core k).fringEn = false) (hb : w.toNat % 2 ^ 18 % 2048 = 0)
    (hz : w.toNat / 2 ^ 25 % 2 ^ 38 = 0) (hin : w.toNat % 2 ^ 18 + 2056 ≤ 0x28000) : s.writeFring k w =
      some (if 2 ^ 63 ≤ w.toNat then s.ringStarted k (w.toNat % 2 ^ 18)
        else s.updCore k fun c => { c with fringBase := w.toNat % 2 ^ 18 }) := by
  have hok : ¬(w.toNat / 2 ^ 25 % 2 ^ 38 ≠ 0 ∨ w.toNat % 2 ^ 18 % 2048 ≠ 0 ∨ 0x27FFF < w.toNat % 2 ^ 18 + 2055) := by omega
  unfold writeFring
  dsimp only
  rw [if_neg hok, hen, if_neg Bool.false_ne_true]
  by_cases hw : 2 ^ 63 ≤ w.toNat
  · rw [if_pos (decide_eq_true hw), if_pos hw]
    rfl
  · rw [if_neg (by simpa using hw), if_neg hw]

theorem writeFrrd_allowed {k : Nat} {w : Word} (hv : w.toNat < 128) (hd : ((s.core k).fringWr + 128 - w.toNat) % 128 ≤ 64) :
    s.writeFrrd k w = some (s.updCore k fun c => { c with frrd := w.toNat }) :=
  if_neg (by omega)

/-! ## VLOGS (R349) -/

theorem coreCsr_vlogs {k : Nat} {e : VlogEntry} {r : List VlogEntry} (h : (s.core k).vlog = e :: r) :
    s.coreCsr k 0x049 = BitVec.ofNat 64 e.status := by
  simp [coreCsr, h]

end State

/-! ## Performing an operation that may fault of its own -/

section
variable {s : State} {i : Instr} (hr : Claim.Ready s i) (hi : State.qIn i = []) (ho : State.qOut i = []) {k : State → Except FaultRec State}
include hr hi ho

theorem performE_ok {t : State} (hk : k s = .ok t) : performE s i k = .next t := by
  obtain ⟨hg, -, -⟩ := hr
  rw [performE, performK_plain hg hi ho, hk]

theorem performE_error {f : FaultRec} (hk : k s = .error f) : performE s i k = .next (s.fault f) := by
  obtain ⟨hg, -, -⟩ := hr
  rw [performE, performK_plain hg hi ho, hk]

end

/-! ## A core's registers written from the supervisor core (R347) -/

theorem csrwCore_ok {s t : State} {a : GReg} {n : Nat} (hsv : s.rd.sv = true) (h : s.writeCoreCsr s.ck n (s.rdG a) = some t) :
    csrwCore s a n = .ok t := by
  rw [csrwCore, hsv, h]
  rfl

theorem csrwCore_unprivileged {s : State} (a : GReg) (n : Nat) (hsv : s.rd.sv = false) : csrwCore s a n = .error (csrF n) := by
  rw [csrwCore, hsv]
  rfl

end Sys2Proof.Machine

namespace Sys2Proof.Claim.SystemRegister

open Sys2Proof Sys2Proof.Machine Sys2Proof.Machine.State

/-! ## The forms -/

section
variable (s : State) (a : GReg) (num : Word32)

theorem exec_trap (imm : BitVec 16) : exec (.trap imm) s = performE s (.trap imm) fun _ => .error (trapF imm) := rfl

theorem exec_csrr : exec (.csrr a num) s = performE s (.csrr a num) fun u =>
    if isThreadCsr num.toNat then .ok (u.wrG a (threadCsr u.me (u.cur % 64) num.toNat))
    else if num.toNat = 0x040 ∨ (supReads num.toNat ∧ !u.rd.sv) then .error (csrF num.toNat)
    else .ok (u.wrG a (u.coreCsr u.ck num.toNat)) := rfl

theorem exec_vlogsRead : exec (.vlogsRead a) s = performE s (.vlogsRead a) fun u =>
    if !u.rd.sv then .error (csrF 0x049) else .ok ((u.wrG a (u.coreCsr u.ck 0x049)).takeVlog u.ck) := rfl

theorem exec_csrw : exec (.csrw num a) s = execCsrw num a s := rfl

theorem exec_csrwFring : exec (.csrwFring a) s = performE s (.csrwFring a) fun u => csrwCore u a 0x046 := rfl

theorem exec_csrwFrrd : exec (.csrwFrrd a) s = performE s (.csrwFrrd a) fun u => csrwCore u a 0x047 := rfl

theorem exec_csrwTstate : exec (.csrwTstate a) s = perform s (.csrwTstate a) fun u =>
    u.updThr u.cur fun h => { h with gangDis := h.gangDis && (u.rdG a).getLsbD 23 } := rfl

end

variable {s : State} {a : GReg} {num : Word32}

/-! ## TRAP (R346) -/

theorem trap_faults {imm : BitVec 16} (hr : Ready s (.trap imm)) :
    exec (.trap imm) s = .next (s.fault (.of 0x11 (imm.toNat % 256) (imm.setWidth 64))) :=
  (exec_trap ..).trans (performE_error hr rfl rfl rfl)

/-! ## CSRR (R347) -/

theorem csrr_thread (hr : Ready s (.csrr a num)) (hn : isThreadCsr num.toNat = true) :
    exec (.csrr a num) s = .next (s.wrG a (threadCsr s.me (s.cur % 64) num.toNat)) :=
  (exec_csrr ..).trans (performE_ok hr rfl rfl (if_pos hn))

theorem csrr_core (hr : Ready s (.csrr a num)) (hn : isThreadCsr num.toNat = false) (hc : num.toNat ≠ 0x040)
    (hs : supReads num.toNat = true → s.rd.sv = true) : exec (.csrr a num) s = .next (s.wrG a (s.coreCsr s.ck num.toNat)) := by
  have hmay : ¬(num.toNat = 0x040 ∨ (supReads num.toNat = true ∧ (!s.rd.sv) = true)) := by
    rintro (h | ⟨hsup, hsv⟩)
    · exact hc h
    · simp [hs hsup] at hsv
  rw [exec_csrr]
  exact performE_ok hr rfl rfl (Eq.trans (if_neg (ne_true_of_eq_false hn)) (if_neg hmay))

theorem csrr_capt (hr : Ready s (.csrr a num)) (hc : num.toNat = 0x040) : exec (.csrr a num) s = .next (s.fault (priv 0x0A 0x040)) := by
  have hn : ¬isThreadCsr num.toNat = true := by rw [hc]; decide
  rw [← show csrF num.toNat = priv 0x0A 0x040 by rw [hc]; rfl]
  rw [exec_csrr]
  exact performE_error hr rfl rfl (Eq.trans (if_neg hn) (if_pos (.inl hc)))

theorem vlogsRead_takes {e : VlogEntry} {r : List VlogEntry} (hr : Ready s (.vlogsRead a)) (hsv : s.rd.sv = true)
    (hv : (s.core s.ck).vlog = e :: r) : exec (.vlogsRead a) s =
      .next ((s.wrG a (BitVec.ofNat 64 e.status)).updCore s.ck fun c => { c with vlog := c.vlog.drop 1 }) := by
  rw [← coreCsr_vlogs hv, exec_vlogsRead]
  exact performE_ok hr rfl rfl (if_neg (by simp [hsv]))

/-! ## CSRW (R86, R337, R347) -/

theorem csrw_thread {h : Thread} (hr : Ready s (.csrw num a)) (hn : isThreadCsr num.toNat = true)
    (hw : setThreadCsr s.my num.toNat (s.rdG a) false = some h) : exec (.csrw num a) s = .next (s.setThr s.cur h) := by
  refine (exec_csrw ..).trans (performE_ok hr rfl rfl (Eq.trans (if_pos hn) ?_))
  rw [hw]

theorem csrw_core {t : State} (hr : Ready s (.csrw num a)) (hn : isThreadCsr num.toNat = false) (hsv : s.rd.sv = true)
    (hw : s.writeCoreCsr s.ck num.toNat (s.rdG a) = some t) : exec (.csrw num a) s = .next t := by
  refine (exec_csrw ..).trans (performE_ok hr rfl rfl ?_)
  exact Eq.trans (if_neg (ne_true_of_eq_false hn)) (csrwCore_ok hsv hw)

theorem csrw_unprivileged (hr : Ready s (.csrw num a)) (hn : isThreadCsr num.toNat = false) (hsv : s.rd.sv = false) :
    exec (.csrw num a) s = .next (s.fault (priv 0x0A (BitVec.ofNat 64 num.toNat))) := by
  refine (exec_csrw ..).trans (performE_error hr rfl rfl ?_)
  exact Eq.trans (if_neg (ne_true_of_eq_false hn)) (csrwCore_unprivileged a _ hsv)

theorem csrwFring_ok {t : State} (hr : Ready s (.csrwFring a)) (hsv : s.rd.sv = true) (hw : s.writeFring s.ck (s.rdG a) = some t) :
    exec (.csrwFring a) s = .next t :=
  (exec_csrwFring ..).trans (performE_ok hr rfl rfl (csrwCore_ok (n := 0x046) hsv hw))

theorem csrwFrrd_ok (hr : Ready s (.csrwFrrd a)) (hsv : s.rd.sv = true) (hv : (s.rdG a).toNat < 128)
    (hd : ((s.core s.ck).fringWr + 128 - (s.rdG a).toNat) % 128 ≤ 64) :
    exec (.csrwFrrd a) s = .next (s.updCore s.ck fun c => { c with frrd := (s.rdG a).toNat }) :=
  (exec_csrwFrrd ..).trans (performE_ok hr rfl rfl (csrwCore_ok (n := 0x047) hsv (writeFrrd_allowed hv hd)))

theorem csrwTstate_clears (hr : Ready s (.csrwTstate a)) : exec (.csrwTstate a) s =
    .next (s.updThr s.cur fun h => { h with gangDis := h.gangDis && (s.rdG a).getLsbD 23 }) := by
  obtain ⟨hg, -, -⟩ := hr
  rw [exec_csrwTstate, perform_plain hg rfl rfl]

section
variable (hr : Ready s (.csrwFring a)) (hsv : s.rd.sv = true) (hen : (s.core s.ck).fringEn = false)
include hr hsv hen

theorem csrwFring_places (hv : (s.rdG a).toNat < 2 ^ 63) (hb : (s.rdG a).toNat % 2 ^ 18 % 2048 = 0)
    (hz : (s.rdG a).toNat / 2 ^ 25 % 2 ^ 38 = 0) (hin : (s.rdG a).toNat % 2 ^ 18 + 2056 ≤ 0x28000) :
    exec (.csrwFring a) s = .next (s.updCore s.ck fun c => { c with fringBase := (s.rdG a).toNat % 2 ^ 18 }) := by
  refine csrwFring_ok hr hsv ?_
  rw [writeFring_allowed hen hb hz hin, if_neg (Nat.not_le.2 hv)]

theorem csrwFring_starts (hv : 2 ^ 63 ≤ (s.rdG a).toNat) (hb : (s.rdG a).toNat % 2 ^ 18 % 2048 = 0)
    (hz : (s.rdG a).toNat / 2 ^ 25 % 2 ^ 38 = 0) (hin : (s.rdG a).toNat % 2 ^ 18 + 2056 ≤ 0x28000) :
    ∃ t : State, exec (.csrwFring a) s = .next t ∧ (t.core s.ck).fringEn = true ∧
      (t.core s.ck).fringBase = (s.rdG a).toNat % 2 ^ 18 ∧ (t.core s.ck).fringWr = 0 ∧ (t.core s.ck).frrd = 0 := by
  have hring := rings_ringStarted s s.ck ((s.rdG a).toNat % 2 ^ 18)
  refine ⟨s.ringStarted s.ck ((s.rdG a).toNat % 2 ^ 18), csrwFring_ok hr hsv ?_, congrArg FaultRing.en hring,
    congrArg FaultRing.base hring, congrArg FaultRing.wr hring, congrArg FaultRing.rd hring⟩
  rw [writeFring_allowed hen hb hz hin, if_pos hv]

end

end Sys2Proof.Claim.SystemRegister

namespace Sys2Proof.Claim

open Sys2Proof Sys2Proof.Machine Sys2Proof.Machine.State

/-- Settles O38: the forms, clause by clause; the registers of the ring outlast what the emptied doorbell word presents again. -/
theorem systemRegistersComplete : Obligations.SystemRegistersComplete := fun _ _ _ _ _ _ =>
  ⟨SystemRegister.trap_faults, rfl, SystemRegister.csrr_thread, SystemRegister.csrr_core, SystemRegister.csrr_capt,
    fun _ => SystemRegister.csrw_thread, fun _ => SystemRegister.csrw_core, SystemRegister.csrw_unprivileged,
    SystemRegister.csrwFring_places, SystemRegister.csrwFring_starts, SystemRegister.csrwFrrd_ok, SystemRegister.csrwTstate_clears,
    fun _ _ => SystemRegister.vlogsRead_takes⟩

end Sys2Proof.Claim
end

section
/-! PROOFS. Atomics and conjunction operations are sent (R105, R107, R121, R143, R145). -/

namespace Sys2Proof.Machine

open Sys2Proof

/-- An operation without stream operands whose checks pass and whose effect is done. -/
theorem performK_done {s t : State} {i : Instr} (hr : Claim.Ready s i) (hi : State.qIn i = []) (ho : State.qOut i = [])
    {k : State → Eff} (hk : k s = .done t) : performK s i k = .next t := by
  obtain ⟨hg, -, -⟩ := hr
  rw [performK_plain hg hi ho, hk]

/-- One whose effect stops its bundle. -/
theorem performK_stop {s t : State} {i : Instr} (hr : Claim.Ready s i) (hi : State.qIn i = []) (ho : State.qOut i = [])
    {k : State → Eff} (hk : k s = .stop t) : performK s i k = .next t := by
  obtain ⟨hg, -, -⟩ := hr
  rw [performK_plain hg hi ho, hk]

namespace State

variable {s : State} {m : Mcw} {va : Word} {n g : Nat} {a : Option Nat} {op : AtomicOp} {p : Place}

theorem atomicEff_ok (h : s.checkAccess m.sp va n n .atomic = .ok p g) :
    s.atomicEff m va n a op = .done (s.atomic (.atomic a) (Mode.ofMcw m) va p op) := by
  rw [atomicEff, h]

theorem conjEff_ok {release : Bool} (h : s.checkAccess m.sp va 64 64 .atomic = .ok p g) :
    s.conjEff m va a release op = .done (s.atomic (.atomic a)
      { rel := if release then some (s.recordScope p) else none, acqSys := !release && decide (s.recordScope p = .sys) } va p op) := by
  rw [conjEff, h]

end State

end Sys2Proof.Machine

namespace Sys2Proof.Claim.AtomicForm

open Sys2Proof Sys2Proof.Machine Sys2Proof.Machine.State

section
variable (s : State) (w64 : Bool) (m : Mcw) (a b c : GReg) (off : Off16)

theorem exec_amo (op : AOp) : exec (.amo op w64 m a b off c) s = performK s (.amo op w64 m a b off c) fun u =>
    u.atomicEff m (u.rdG b + sext16 off) (if w64 then 8 else 4) (some a.toNat) (.amo op w64 (u.rdG c)) := rfl

theorem exec_cas : exec (.cas w64 m a b off c) s = performK s (.cas w64 m a b off c) fun u =>
    u.atomicEff m (u.rdG b + sext16 off) (if w64 then 8 else 4) (some a.toNat) (.cas w64 (u.rdG a) (u.rdG c)) := rfl

theorem exec_amof (op : FOp) : exec (.amof op m a b off c) s = performK s (.amof op m a b off c) fun u =>
    u.atomicEff m (u.rdG b + sext16 off) 4 (some a.toNat) (.amof op ((u.rdG c).setWidth 32)) := rfl

theorem exec_join : exec (.join m a b off) s = performK s (.join m a b off) fun u =>
    u.conjEff m (u.rdG b + sext16 off) (some a.toNat) true .join := rfl

theorem exec_leave : exec (.leave m a off) s = performK s (.leave m a off) fun u =>
    u.conjEff m (u.rdG a + sext16 off) none true .leave := rfl

theorem exec_arrive : exec (.arrive m a b off) s = performK s (.arrive m a b off) fun u =>
    u.conjEff m (u.rdG b + sext16 off) (some a.toNat) true (.arrive none) := rfl

theorem exec_arriveBytes : exec (.arriveBytes m a b off c) s = performK s (.arriveBytes m a b off c) fun u =>
    u.conjEff m (u.rdG b + sext16 off) (some a.toNat) true (.arrive (some ((u.rdG c).setWidth 32))) := rfl

theorem exec_waitgen : exec (.waitgen m a off b) s = performK s (.waitgen m a off b) fun u =>
    u.conjEff m (u.rdG a + sext16 off) none false (.waitgen ((u.rdG b).setWidth 32)) := rfl

end

end Sys2Proof.Claim.AtomicForm

namespace Sys2Proof.Claim

open Sys2Proof Sys2Proof.Machine Sys2Proof.Machine.State AtomicForm

theorem atomicsComplete : AtomicsComplete := fun _ _ _ _ _ _ _ _ _ _ _ =>
  ⟨fun hr h => (exec_amo ..).trans (performK_done hr rfl rfl (atomicEff_ok h)),
    fun hr h => (exec_cas ..).trans (performK_done hr rfl rfl (atomicEff_ok h)),
    fun hr h => (exec_amof ..).trans (performK_done hr rfl rfl (atomicEff_ok h))⟩

theorem conjunctionsSend : ConjunctionsSend := fun _ _ _ _ _ _ _ _ =>
  ⟨fun hr h => (exec_join ..).trans (performK_done hr rfl rfl (conjEff_ok h)),
    fun hr h => (exec_leave ..).trans (performK_done hr rfl rfl (conjEff_ok h)),
    fun hr h => (exec_arrive ..).trans (performK_done hr rfl rfl (conjEff_ok h)),
    fun hr h => (exec_arriveBytes ..).trans (performK_done hr rfl rfl (conjEff_ok h)),
    fun hr h => (exec_waitgen ..).trans (performK_done hr rfl rfl (conjEff_ok h))⟩

/-- Settles O15: every form sends its operation as its access passes the check. -/
theorem atomicFormsComplete : Obligations.AtomicFormsComplete := ⟨atomicsComplete, conjunctionsSend⟩

end Sys2Proof.Claim
end

section
/-! PROOFS. What atomics and conjunction operations do with their word and record (R106, R144). -/

namespace Sys2Proof.Machine

open Sys2Proof

/-! ## AMO on a word (R144) -/

/-- A number below half of its range is read as it is. -/
theorem sx_of_lt {x n : Nat} (h : 2 * x < 2 ^ n) : sx x n = x := by
  have hx : x < 2 ^ n := by omega
  simp only [sx, Nat.mod_eq_of_lt hx, if_neg (Nat.not_le.2 h)]

theorem valW_unsigned {x w : Nat} (h : x < 2 ^ w) : valW false w x = x := by
  simp [valW, Nat.mod_eq_of_lt h]

section
variable {w64 : Bool} {x y : Nat} (hy : y < 2 ^ (if w64 then 64 else 32))
include hy

/-- The operators that compare nothing. -/
theorem amoValue_uncompared :
    amoValue .add w64 x y = ((x + y) % 2 ^ (if w64 then 64 else 32), BitVec.ofNat 64 x) ∧
    amoValue .swap w64 x y = (y, BitVec.ofNat 64 x) ∧ amoValue .and w64 x y = (x &&& y, BitVec.ofNat 64 x) ∧
    amoValue .or w64 x y = (x ||| y, BitVec.ofNat 64 x) ∧ amoValue .xor w64 x y = (x ^^^ y, BitVec.ofNat 64 x) := by
  refine ⟨?_, ?_, ?_, ?_, ?_⟩ <;> simp only [amoValue, Nat.mod_eq_of_lt hy, Bool.false_eq_true, if_false]

theorem amoValue_minU (hx : x < 2 ^ (if w64 then 64 else 32)) : amoValue .minU w64 x y = (min x y, BitVec.ofNat 64 x) := by
  simp only [amoValue, Nat.mod_eq_of_lt hy, valW_unsigned hx, valW_unsigned hy, Bool.false_eq_true, if_false, Prod.mk.injEq, and_true,
    decide_eq_true_eq]
  split <;> omega

theorem amoValue_maxU (hx : x < 2 ^ (if w64 then 64 else 32)) : amoValue .maxU w64 x y = (max x y, BitVec.ofNat 64 x) := by
  simp only [amoValue, Nat.mod_eq_of_lt hy, valW_unsigned hx, valW_unsigned hy, Bool.false_eq_true, if_false, Prod.mk.injEq, and_true,
    decide_eq_true_eq]
  split <;> omega

theorem sx_amoValue_minS : sx (amoValue .minS w64 x y).1 (if w64 then 64 else 32) =
    min (sx x (if w64 then 64 else 32)) (sx y (if w64 then 64 else 32)) := by
  simp only [amoValue, Nat.mod_eq_of_lt hy, valW, if_true, decide_eq_true_eq]
  generalize (if w64 = true then 64 else 32) = w
  split <;> omega

theorem sx_amoValue_maxS : sx (amoValue .maxS w64 x y).1 (if w64 then 64 else 32) =
    max (sx x (if w64 then 64 else 32)) (sx y (if w64 then 64 else 32)) := by
  simp only [amoValue, Nat.mod_eq_of_lt hy, valW, if_true, decide_eq_true_eq]
  generalize (if w64 = true then 64 else 32) = w
  split <;> omega

end

/-! ## Conjunction records (R106) -/

namespace Conj

variable {c : Conj}

theorem settle_due (hp : c.pending = 0) (hb : c.bytes = 0) :
    c.settle = ({ c with gen := (c.gen + 1) % 2 ^ 32, pending := c.members }, true) := if_pos ⟨hp, hb⟩

theorem settle_early (h : c.pending ≠ 0 ∨ c.bytes ≠ 0) : c.settle = (c, false) := if_neg (by omega)

/-- What an operation that has changed a record to c answers ans with: the record, advanced where that is due. -/
def answered (c : Conj) (ans : AtomicAns) : Option (Conj × Bool × AtomicAns) := some (c.settle.1, c.settle.2, ans)

section
variable {g m p b : Nat} (ans : AtomicAns)

theorem answered_due (hp : p = 0) (hb : b = 0) : answered ⟨g, m, p, b⟩ ans = some (⟨(g + 1) % 2 ^ 32, m, m, 0⟩, true, ans) := by
  rw [answered, settle_due hp hb, hb]

theorem answered_early (h : p ≠ 0 ∨ b ≠ 0) : answered ⟨g, m, p, b⟩ ans = some (⟨g, m, p, b⟩, false, ans) := by
  rw [answered, settle_early h]

end

/-- A generation at or after the target, within half of the range, passes. -/
theorem passes_of_reached {t : Word32} (h : t.toNat ≤ c.gen) (h' : c.gen < t.toNat + 2 ^ 31) :
    c.passes t = true := by
  have he : (c.gen + 2 ^ 32 - t.toNat) % 2 ^ 32 = c.gen - t.toNat := by omega
  rw [passes, sx, he, if_neg (by omega)]
  exact decide_eq_true (by omega)

/-- A generation before it, within half of the range, does not. -/
theorem not_passes_of_earlier {t : Word32} (h : c.gen < t.toNat) (h' : t.toNat ≤ c.gen + 2 ^ 31 - 1) : c.passes t = false := by
  have ht := t.isLt
  have he : (c.gen + 2 ^ 32 - t.toNat) % 2 ^ 32 = c.gen + 2 ^ 32 - t.toNat := Nat.mod_eq_of_lt (by omega)
  rw [passes, sx, he, if_pos (by omega)]
  exact decide_eq_false (by omega)

end Conj

section
variable {c : Conj}

theorem conjStep_join_full (h : c.members = 0xFFFF) : conjStep c .join = none := if_pos h

theorem conjStep_join_fresh (h : c.members ≠ 0xFFFF) (hp : c.pending = c.members) : conjStep c .join =
    some ({ c with members := c.members + 1, pending := c.pending + 1 }, false, .value (BitVec.ofNat 64 c.gen)) := by
  simp only [conjStep, h, hp, if_true, if_false]

theorem conjStep_join_begun (h : c.members ≠ 0xFFFF) (hp : c.pending ≠ c.members) : conjStep c .join =
    some ({ c with members := c.members + 1 }, false, .value (BitVec.ofNat 64 ((c.gen + 1) % 2 ^ 32))) := by
  simp only [conjStep, h, hp, if_false]

theorem conjStep_leave_empty (h : c.members = 0 ∨ c.pending = 0) : conjStep c .leave = none := if_pos h

theorem conjStep_leave (hm : c.members ≠ 0) (hp : c.pending ≠ 0) : conjStep c .leave =
    Conj.answered { c with members := c.members - 1, pending := c.pending - 1 } .ok := if_neg (not_or.2 ⟨hm, hp⟩)

theorem conjStep_arrive_unawaited (b : Option Word32) (hp : c.pending = 0) : conjStep c (.arrive b) = none := if_pos hp

theorem conjStep_arrive_over {b : Word32} (hb : c.bytes < 2 ^ 31) (h : 2 ^ 31 - 1 < c.bytes + b.toNat) :
    conjStep c (.arrive (some b)) = none := by
  simp only [conjStep, sx_of_lt (show 2 * c.bytes < 2 ^ 32 by omega), Option.isSome_some, true_and]
  split
  · rfl
  · exact if_pos (by omega)

theorem conjStep_arrive (hp : c.pending ≠ 0) (hb : c.bytes < 2 ^ 31) : conjStep c (.arrive none) =
    Conj.answered { c with pending := c.pending - 1 } (.value (BitVec.ofNat 64 c.gen)) := by
  simp only [conjStep, hp, if_false, Option.isSome_none, Bool.false_eq_true, false_and, Nat.add_zero, Conj.answered,
    Nat.mod_eq_of_lt (show c.bytes < 2 ^ 32 by omega)]

theorem conjStep_arriveBytes {b : Word32} (hp : c.pending ≠ 0) (h : c.bytes + b.toNat ≤ 2 ^ 31 - 1) :
    conjStep c (.arrive (some b)) =
      Conj.answered { c with pending := c.pending - 1, bytes := c.bytes + b.toNat } (.value (BitVec.ofNat 64 c.gen)) := by
  have hroom : ¬((2 ^ 31 : Int) - 1 < (c.bytes : Int) + (b.toNat : Int)) := by omega
  simp only [conjStep, hp, if_false, sx_of_lt (show 2 * c.bytes < 2 ^ 32 by omega), hroom, and_false, Conj.answered,
    Nat.mod_eq_of_lt (show c.bytes + b.toNat < 2 ^ 32 by omega)]

/-- The copy's last bytes bring the record to its advance. -/
theorem conjStep_copyArrive_last (hp : c.pending = 0) : conjStep c (.copyArrive c.bytes) =
    some ({ gen := (c.gen + 1) % 2 ^ 32, members := c.members, pending := c.members, bytes := 0 }, true, .ok) := by
  have h0 : wrap ((c.bytes : Int) - c.bytes) 32 = 0 := by simp [wrap]
  have hs : conjStep c (.copyArrive c.bytes) = Conj.answered { c with bytes := 0 } .ok := by simp only [conjStep, h0, Conj.answered]
  exact hs.trans (Conj.answered_due .ok hp rfl)

end

end Sys2Proof.Machine

namespace Sys2Proof.Claim

open Sys2Proof Sys2Proof.Machine Sys2Proof.Machine.State

theorem amoRule : AmoRule := by
  intro w64 x y hx hy
  obtain ⟨hadd, hswap, hand, hor, hxor⟩ := amoValue_uncompared (x := x) hy
  exact ⟨hadd, hswap, hand, hor, hxor, amoValue_minU hy hx, amoValue_maxU hy hx, sx_amoValue_minS hy, sx_amoValue_maxS hy, rfl, rfl⟩

theorem conjunctionRule : ConjunctionRule := by
  intro c _ _ _ hb
  refine ⟨conjStep_join_full, conjStep_join_fresh, conjStep_join_begun, conjStep_leave_empty, fun hm hp h0 => ?_, fun hm hp => ?_,
    conjStep_arrive_unawaited, fun b => conjStep_arrive_over hb, fun hp h0 => ?_, fun hp => ?_, fun b hs hp => ?_,
    fun hp _ => conjStep_copyArrive_last hp, fun t h h' => Conj.passes_of_reached h h', fun t => Conj.not_passes_of_earlier⟩
  · exact (conjStep_leave hm (by omega)).trans (Conj.answered_due _ (by omega) h0)
  · exact (conjStep_leave hm (by omega)).trans (Conj.answered_early _ (by omega))
  · exact (conjStep_arrive (by omega) hb).trans (Conj.answered_due _ (by omega) h0)
  · exact (conjStep_arrive (by omega) hb).trans (Conj.answered_early _ (by omega))
  · exact (conjStep_arriveBytes (by omega) hs).trans (Conj.answered_early _ (by omega))

/-- Settles O17: the operators of AMO and the operations on a record, case by case. -/
theorem atomicRules : Obligations.AtomicRules := ⟨amoRule, conjunctionRule⟩

end Sys2Proof.Claim
end

section
/-! PROOFS. Atomics are performed in turn at their engines and banks (R107, R141 to R145). -/

namespace Sys2Proof.Machine

open Sys2Proof

theorem isAtomicAcc_of_kind {a : Access} {op : AtomicOp} (h : a.kind = .atomic op) : isAtomicAcc a = some op := by
  rw [isAtomicAcc, h]

namespace State

variable {s : State} {a : Access}

/-- An event that can happen leads to the state that it answers. -/
theorem happen_some {o : Option State} {t : State} (h : o = some t) : s.happen o = .next t := congrArg s.happen h

/-- An access of a thread of this package keeps its answer for the response (R145). -/
theorem answer_kept (hb : a.back = none) (ht : a.thr ≠ none) (ans : AtomicAns) : s.answer a ans =
    { s with flight := s.flight.map fun x => if x.id = a.id then { x with ans := some ans, held := none, horizon := none } else x } := by
  rw [answer, hb]
  exact if_neg (by simpa using ht)

/-- An AMO whose word is good writes the new word and answers with the value of the rule. -/
theorem performAtomic_amo {op : AOp} {w64 : Bool} {b : Word} (now : Nat)
    (hgood : s.badMem (a.place.plus 0) (if w64 then 8 else 4) = none) : s.performAtomic a (.amo op w64 b) now =
      let r := amoValue op w64 (leNat (s.readMem (a.place.plus 0) (if w64 then 8 else 4))) b.toNat
      (s.writeMem a.place (leBytes (if w64 then 8 else 4) r.1)).answer a (.value r.2) := by
  simp only [performAtomic, atomicBytes, hgood]

end State

end Sys2Proof.Machine

namespace Sys2Proof.Claim.AtomicEvent

open Sys2Proof Sys2Proof.Machine Sys2Proof.Machine.State

variable {s : State} {a : Access} {op : AtomicOp}

theorem engine_performs {n : Nat} (hfree : FMap.find? (s.die (s.subj / 32)).lastTake (s.subj % 32) ≠ some s.now)
    (hnext : s.engineNext s.subj = some (n, a)) (hk : a.kind = .atomic op) : exec .atomicEngineTake s =
      .next ((s.updDie (s.subj / 32) fun x => { x with
        lastQueue := FMap.set x.lastQueue (s.subj % 32) n, lastTake := FMap.set x.lastTake (s.subj % 32) s.now }).performAtomic a op
          (s.die (s.subj / 32)).cyc) := by
  refine happen_some (o := occAtomicEngineTake s) ?_
  simp only [occAtomicEngineTake, if_neg hfree, hnext, isAtomicAcc_of_kind hk, die_updDie_same]

section
variable (hf : s.flight.find? (fun b => b.id == s.subj) = some a)
include hf

theorem waitgen_again {c : Nat} {t : Word32} (hh : a.held = some c) (hk : a.kind = .atomic (.waitgen t))
    (hc : c ≤ (s.die a.place.die).cyc) :
    exec .waitgenRepresent s = .next (s.performAtomic a (.waitgen t) (s.die a.place.die).cyc) := by
  refine happen_some (o := occWaitgenRepresent s) ?_
  simp only [occWaitgenRepresent, hf, hh, hk, if_neg (Nat.not_lt.2 hc)]

theorem answer_reaches {ans : AtomicAns} {t : Nat} (ha : a.ans = some ans) (ht : a.thr = some t) :
    exec .atomicResponse s = .next (s.respond a t ans) := by
  refine happen_some (o := occAtomicResponse s) ?_
  simp only [occAtomicResponse, hf, ha, ht]

section
variable {c o : Nat} {sp : Space} (ha : a.ans = none) (hh : a.held = none) (hp : a.place = .buf c sp o) (hk : a.kind = .atomic op)
  (hr : s.bankReady a = true)
include ha hh hp hk hr

/-- The port of a buffer performs an operation of a unit, which takes no answer. -/
theorem port_performs_unit (ht : a.thr = none) : exec .atomicResponse s = .next (s.performAtomic a op (s.cycOf c)) := by
  refine happen_some (o := occAtomicResponse s) ?_
  simp only [occAtomicResponse, hf, ha, hh, hp, ht, hr, isAtomicAcc_of_kind hk, Option.isNone_none, Bool.and_true, if_true]
  cases (s.performAtomic a op (s.cycOf c)).flight.find? (fun b => b.id == a.id) <;> rfl

theorem port_answers_thread {t : Nat} {b : Access} {ans : AtomicAns} (ht : a.thr = some t)
    (hb : (s.performAtomic a op (s.cycOf c)).flight.find? (fun x => x.id == a.id) = some b) (hans : b.ans = some ans) :
    exec .atomicResponse s = .next ((s.performAtomic a op (s.cycOf c)).respond b t ans) := by
  refine happen_some (o := occAtomicResponse s) ?_
  simp only [occAtomicResponse, hf, ha, hh, hp, ht, hr, isAtomicAcc_of_kind hk, Option.isNone_none, Bool.and_true, if_true, hb, hans]

end

end

end Sys2Proof.Claim.AtomicEvent

namespace Sys2Proof.Claim

open Sys2Proof Sys2Proof.Machine Sys2Proof.Machine.State AtomicEvent

theorem atomicsArePerformed : AtomicsArePerformed := fun _ _ _ =>
  ⟨fun _ => engine_performs, fun hf => ⟨fun _ _ => waitgen_again hf, fun _ _ => answer_reaches hf,
    fun _ _ _ ha ht hh hp hk hr => port_performs_unit hf ha hh hp hk hr ht,
    fun _ _ _ _ _ _ ha ht hh hp hk hr hb hans _ => port_answers_thread hf ha hh hp hk hr ht hb hans⟩⟩

theorem amoAtItsBank : AmoAtItsBank := fun _ _ _ _ _ now hb ht hgood =>
  (performAtomic_amo now hgood).trans (answer_kept hb ht _)

/-- Settles O41: the events of the engines and ports, and an AMO at its bank. -/
theorem atomicsReachTheirBanks : Obligations.AtomicsReachTheirBanks := ⟨atomicsArePerformed, amoAtItsBank⟩

end Sys2Proof.Claim
end

section
/-! PROOFS. Walkers and dispensers launch what may be launched (R91 to R95, R111, R112, R298, R374, R385). -/

namespace Sys2Proof.Machine

open Sys2Proof

namespace State

variable {s : State}

/-! ## The choice of a thread (R94) -/

/-- The windows of thread t are no larger than those of u: W, then V. -/
def NoWider (s : State) (t u : Nat) : Prop :=
  (s.thr t).wl < (s.thr u).wl ∨ ((s.thr t).wl = (s.thr u).wl ∧ (s.thr t).vl ≤ (s.thr u).vl)

theorem NoWider.refl (t : Nat) : s.NoWider t t := .inr ⟨rfl, Nat.le_refl _⟩

theorem NoWider.trans {t u v : Nat} (h : s.NoWider t u) (h' : s.NoWider u v) : s.NoWider t v := by
  unfold NoWider at *
  omega

/-- Of the thread chosen so far and the next candidate, the one with the smaller windows. -/
def narrower (s : State) (b : Option Nat) (t : Nat) : Option Nat :=
  match b with
  | none => some t
  | some u =>
    if (s.thr t).wl < (s.thr u).wl ∨ ((s.thr t).wl = (s.thr u).wl ∧ (s.thr t).vl < (s.thr u).vl) then some t else some u

theorem chooseThread_eq (d cl : Nat) (i : DispItem) :
    s.chooseThread d cl i = ((clusterThreads d cl).filter (s.satisfies i)).foldl s.narrower none := rfl

/-- The narrower of two threads is one of them, and neither is narrower than it. -/
theorem narrower_some (u t : Nat) : ∃ v, s.narrower (some u) t = some v ∧ (v = u ∨ v = t) ∧ s.NoWider v u ∧ s.NoWider v t := by
  by_cases h : (s.thr t).wl < (s.thr u).wl ∨ ((s.thr t).wl = (s.thr u).wl ∧ (s.thr t).vl < (s.thr u).vl)
  · refine ⟨t, if_pos h, .inr rfl, ?_, .refl t⟩
    unfold NoWider
    omega
  · refine ⟨u, if_neg h, .inl rfl, .refl u, ?_⟩
    unfold NoWider
    omega

theorem foldl_narrower {l : List Nat} {u t : Nat} (h : l.foldl s.narrower (some u) = some t) :
    (t = u ∨ t ∈ l) ∧ s.NoWider t u ∧ ∀ v ∈ l, s.NoWider t v := by
  induction l generalizing u with
  | nil =>
    obtain rfl : u = t := Option.some.inj h
    exact ⟨.inl rfl, .refl u, by simp⟩
  | cons x l ih =>
    obtain ⟨v, hv, hux, hu, hx⟩ := s.narrower_some u x
    rw [List.foldl_cons, hv] at h
    obtain ⟨hmem, hle, hall⟩ := ih h
    refine ⟨?_, hle.trans hu, ?_⟩
    · rcases hmem with rfl | hmem
      · exact hux.imp_right (List.mem_cons.2 <| .inl ·)
      · exact .inr (List.mem_cons_of_mem _ hmem)
    · intro w hw
      rcases List.mem_cons.1 hw with rfl | hw
      · exact hle.trans hx
      · exact hall w hw

theorem chooseThread_narrowest {d cl t : Nat} {i : DispItem} (h : s.chooseThread d cl i = some t) :
    t ∈ (clusterThreads d cl).filter (s.satisfies i) ∧ ∀ u ∈ (clusterThreads d cl).filter (s.satisfies i), s.NoWider t u := by
  rw [chooseThread_eq] at h
  generalize (clusterThreads d cl).filter (s.satisfies i) = l at h ⊢
  cases l with
  | nil => exact absurd h (by simp)
  | cons x l =>
    obtain ⟨hmem, hx, hall⟩ := foldl_narrower (u := x) h
    exact ⟨List.mem_cons.2 hmem, List.forall_mem_cons.2 ⟨hx, hall⟩⟩

/-! ## The graph walker (R93) -/

/-- A record of a node's own tenant, without a bad word and with at most eight successors. -/
structure GoodNode (s : State) (n : ReadyNode) : Prop where
  succs : nodeSuccs (s.nodeRec n.tenant n.index) ≤ 8
  tenant : nodeTenant (s.nodeRec n.tenant n.index) = n.tenant
  good : s.badMem (s.nodePlace n.tenant n.index) 64 = none

/-- A good node of a type that there is passes the walker's checks. -/
theorem GoodNode.accepted {n : ReadyNode} (h : s.GoodNode n) (hty : nodeType (s.nodeRec n.tenant n.index) < 6) :
    ¬((s.badMem (s.nodePlace n.tenant n.index) 64).isSome = true ∨ 6 ≤ nodeType (s.nodeRec n.tenant n.index) ∨
      8 < nodeSuccs (s.nodeRec n.tenant n.index) ∨ nodeTenant (s.nodeRec n.tenant n.index) ≠ n.tenant) := by
  have hs := h.succs
  simp only [h.good, h.tenant, Option.isSome_none, Bool.false_eq_true, false_or]
  omega

theorem walkNode_signal {n : ReadyNode} (h : s.GoodNode n) (hty : nodeType (s.nodeRec n.tenant n.index) = 2) (d : Nat) :
    s.walkNode d n = (s.trace (.launch n.tenant n.index)).signalNode d n.tenant n.index := by
  simp only [walkNode]
  rw [if_neg (h.accepted (by omega))]
  simp only [hty]

theorem walkNode_compute {n : ReadyNode} (h : s.GoodNode n) (hty : nodeType (s.nodeRec n.tenant n.index) = 0) {d : Nat}
    (hany : nodeAny (s.nodeRec n.tenant n.index) = false)
    (hcl : s.clusterOf n.tenant d (nodeCluster (s.nodeRec n.tenant n.index)) = true) :
    s.walkNode d n = (s.trace (.launch n.tenant n.index)).dispense d (nodeCluster (s.nodeRec n.tenant n.index))
      (nodeItem n.tenant n.index (s.nodeRec n.tenant n.index)) := by
  simp only [walkNode]
  rw [if_neg (h.accepted (by omega))]
  simp only [hty, hany, hcl, if_true, Bool.false_eq_true, if_false]

/-! ## The measure of the occupancy (R95) -/

/-- Die e with the occupancy o measured anew. -/
def measured (o : Nat) (e : Die) : Die := { e with occ := o, slot0 := 0, occAt := e.occAt + 4096 }

theorem occCollectiveOccupancyUpdate_measures (h : (s.die s.subj).occAt ≤ (s.die s.subj).cyc) :
    ∃ mean, occCollectiveOccupancyUpdate s =
      some (s.updDie s.subj (measured (max ((s.die s.subj).slot0 * 256 / (512 * 512)) mean))) :=
  ⟨_, if_neg (Nat.not_lt.2 h)⟩

end State

end Sys2Proof.Machine

namespace Sys2Proof.Claim.Dispatch

open Sys2Proof Sys2Proof.Machine Sys2Proof.Machine.State

variable {s : State}

/-- The state whose walker on the die of the event has taken node n. -/
def walkerTook (s : State) (n : ReadyNode) : State := s.updDie s.subj fun e => { e with walker := e.walker.erase n }

theorem walker_handles {n : ReadyNode} (h : (s.die s.subj).walker.find? s.mayLaunch = some n) :
    exec .graphWalkerReceive s = .next ((walkerTook s n).walkNode s.subj n) := by
  refine happen_some (o := occGraphWalkerReceive s) ?_
  rw [occGraphWalkerReceive, h]
  rfl

/-- What the walker has taken changes no record. -/
theorem walkerTook_goodNode {n : ReadyNode} (h : s.GoodNode n) : (walkerTook s n).GoodNode n := ⟨h.succs, h.tenant, h.good⟩

theorem dispenser_places {x : DispItem × Nat} (h : s.nextPlacement (s.subj / 32) (s.subj % 32) = some x) :
    exec .dispenserPlacement s =
      .next (s.placeAll (s.subj / 32) (s.subj % 32) (FMap.get [] (s.die (s.subj / 32)).disp (s.subj % 32)).length) := by
  refine happen_some (o := occDispenserPlacement s) ?_
  simp only [occDispenserPlacement, h]

theorem stage_offered {p : PipeLaunch} (h : (s.die s.subj).pipes.find? (mayRelease s.subj) = some p) :
    exec .pipeStageRelease s = .next (s.releaseStage s.subj p) := by
  refine happen_some (o := occPipeStageRelease s) ?_
  rw [occPipeStageRelease, h]

section
variable {n : ReadyNode} (h : (s.die s.subj).copyNodes.find? (s.copyNodeReady s.subj) = some n)
include h

theorem copyNode_launched {ck : Nat} {sh : List Word} (hb : copyNodeBlock s s.subj n = .ok (ck, sh)) : exec .copyNodeLaunch s =
    .next ((s.updDie s.subj fun e => { e with copyNodes := e.copyNodes.erase n }).launchCopy ck none n.tenant sh (some n.index)).2 := by
  refine happen_some (o := occCopyNodeLaunch s) ?_
  simp only [occCopyNodeLaunch, h, hb]

theorem copyNode_refused {sub : Nat} (hb : copyNodeBlock s s.subj n = .error (sub, none)) : exec .copyNodeLaunch s =
    .next ((s.updDie s.subj fun e => { e with copyNodes := e.copyNodes.erase n }).notice n.tenant 0x14 sub (s.dieLoc s.subj)
      (nodePtr (s.nodeRec n.tenant n.index)) 0) := by
  refine happen_some (o := occCopyNodeLaunch s) ?_
  simp only [occCopyNodeLaunch, h, hb]

end

theorem occupancy_measured (h : (s.die s.subj).occAt ≤ (s.die s.subj).cyc) : ∃ t : State, exec .collectiveOccupancyUpdate s = .next t ∧
    (t.die s.subj).occAt = (s.die s.subj).occAt + 4096 ∧ (t.die s.subj).slot0 = 0 ∧
    (s.die s.subj).slot0 * 256 / 262144 ≤ (t.die s.subj).occ := by
  obtain ⟨mean, hm⟩ := occCollectiveOccupancyUpdate_measures h
  refine ⟨_, happen_some hm, ?_⟩
  rw [die_updDie_same]
  exact ⟨rfl, rfl, Nat.le_max_left ..⟩

end Sys2Proof.Claim.Dispatch

namespace Sys2Proof.Claim

open Sys2Proof Sys2Proof.Machine Sys2Proof.Machine.State Dispatch

theorem tasksAreDispatched : TasksAreDispatched := fun s =>
  ⟨fun _ h => ⟨walker_handles h,
      fun hty hs ht hg => (walker_handles h).trans
        (congrArg Host.Outcome.next (walkNode_signal (walkerTook_goodNode ⟨hs, ht, hg⟩) hty s.subj)),
      fun hty hs ht hg hany hcl => (walker_handles h).trans
        (congrArg Host.Outcome.next (walkNode_compute (walkerTook_goodNode ⟨hs, ht, hg⟩) hty hany hcl))⟩,
    fun _ => dispenser_places, fun _ => stage_offered,
    fun _ h => ⟨fun _ _ => copyNode_launched h, fun _ => copyNode_refused h⟩, occupancy_measured⟩

theorem dispenserChoice : DispenserChoice := by
  intro s d cl i t h
  obtain ⟨hmem, hall⟩ := chooseThread_narrowest h
  obtain ⟨hcl, hsat⟩ := List.mem_filter.1 hmem
  exact ⟨hsat, hcl, fun u hu hs => hall u (List.mem_filter.2 ⟨hu, hs⟩)⟩

/-- Settles O43: the events of the walkers, dispensers and copy nodes, and the choice as the least of a fold. -/
theorem dispensersDispatch : Obligations.DispensersDispatch := ⟨tasksAreDispatched, dispenserChoice⟩

end Sys2Proof.Claim
end

section
/-! PROOFS. The register windows, which neither a fault nor a supervisor form's checks change (R84, R85, R103, R335, R343, R344). -/

namespace Sys2Proof.Machine

open Sys2Proof

/-- What every step of a fold keeps, the fold keeps. -/
theorem foldl_keeps {σ α β : Type} (g : σ → β) {f : σ → α → σ} (hf : ∀ x a, g (f x a) = g x) (l : List α) (x : σ) :
    g (l.foldl f x) = g x := List.foldlRecOn (motive := fun y => g y = g x) l f rfl fun y hy a _ => (hf y a).trans hy

/-- A thread's register windows (R84), and the home of a guest (R308). -/
structure Seat where
  gbase : Nat
  wl : Nat
  vbase : Nat
  vl : Nat
  home : Option (Loc × Nat)

/-- The windows and the home that a thread's record holds. -/
def Thread.seat (h : Thread) : Seat := { gbase := h.gbase, wl := h.wl, vbase := h.vbase, vl := h.vl, home := h.home }

theorem seat_clearMarks (l : List MxEntry) (h : Thread) : (l.foldl (fun h e => h.clearMark (.g e.reg)) h).seat = h.seat := by
  refine foldl_keeps Thread.seat (fun _ _ => ?_) l h
  rfl

theorem Core.seat_dropMatrix (c : Core) (n m : Nat) : ((c.dropMatrix n).thread m).seat = (c.thread m).seat := by
  by_cases h : m = n
  · rw [h]
    exact Eq.trans (congrArg Thread.seat (State.thread_setThread_same c n _)) (seat_clearMarks _ _)
  · exact congrArg Thread.seat (State.thread_setThread_other c _ h)

/-! ## The windows at reset (R85) -/

theorem State.reset_thr (k : Nat) {n : Nat} (hn : n < 64) : State.reset.thr (k * 64 + n) = Thread.reset n := by
  rw [State.thr, show (k * 64 + n) / 64 = k by omega, show (k * 64 + n) % 64 = n by omega]
  rfl

/-- The windows of R85, for the thread of each number. -/
theorem Thread.reset_windows {n : Nat} (hn : n < 64) :
    (56 ≤ n → ((reset n).gbase + (reset n).wl) * 8 ≤ 144 ∧ ((reset n).vbase + (reset n).vl) * 4 ≤ 8) ∧
    (n = 63 → (reset n).gbase = 0 ∧ (reset n).wl = 4 ∧ (reset n).vbase = 0 ∧ (reset n).vl = 2) ∧
    (56 ≤ n → n < 63 → (reset n).gbase = 4 + 2 * (n - 56) ∧ (reset n).wl = 2 ∧ (reset n).vl = 0) ∧
    (n < 56 → (reset n).wl = 0 ∧ (reset n).vl = 0) := by
  unfold reset
  dsimp only
  split
  · omega
  · split <;> omega

/-! ## What changes no window -/

namespace State

theorem seat_freedFollower (h : Thread) : (freedFollower h).seat = h.seat := by
  unfold freedFollower
  split <;> rfl

/-- The windows and homes of the package's threads, by thread key. -/
def seats (s : State) (t : Nat) : Seat := (s.thr t).seat

variable (s : State)

theorem seats_of_cores {s t : State} (h : t.cores = s.cores) : t.seats = s.seats := by
  funext n
  rw [seats, seats, thr, thr, core, core, h]

theorem seats_updCore (k : Nat) (f : Core → Core) (h : ∀ c m, ((f c).thread m).seat = (c.thread m).seat) :
    (s.updCore k f).seats = s.seats := by
  funext n
  by_cases hn : n / 64 = k
  · rw [seats, thr, hn, core_updCore_same, h, ← hn]
    rfl
  · rw [seats, thr, core_updCore_other _ _ hn]
    rfl

theorem seats_updThr (t : Nat) (f : Thread → Thread) (h : ∀ x, (f x).seat = x.seat) : (s.updThr t f).seats = s.seats := by
  funext n
  by_cases hn : n = t
  · rw [hn, seats, thr_updThr_same, h, seats]
  · rw [seats, thr_updThr_other _ _ hn, seats]

/-! Logs and messages -/

@[simp] theorem seats_send (m : NetMsg) : (s.send m).seats = s.seats := rfl

@[simp] theorem seats_sendFault (m : FaultMsg) : (s.sendFault m).seats = s.seats := rfl

@[simp] theorem seats_trace (x : TraceItem) : (s.trace x).seats = s.seats := seats_of_cores (trace_cores s x)

@[simp] theorem seats_vlogAt (k : Nat) (addr : Word) (kind tenant src : Nat) : (s.vlogAt k addr kind tenant src).seats = s.seats :=
  seats_updCore _ _ _ fun c m => by split <;> rfl

@[simp] theorem seats_leave (i : NetItem) : (s.leave i).seats = s.seats := by
  unfold leave
  dsimp only
  repeat' split
  all_goals rfl

@[simp] theorem seats_post (dst : Nat) (m : NetMsg) : (s.post dst m).seats = s.seats := by
  unfold post
  dsimp only
  split <;> simp

@[simp] theorem seats_sendRecall (t : Nat) : (s.sendRecall t).seats = s.seats := by
  unfold sendRecall
  dsimp only
  split
  · rw [seats_post, seats_updThr]
    exact fun _ => rfl
  · rfl

/-! Gangs and faults (R103, R335) -/

@[simp] theorem seats_breakGang (l : Nat) : (s.breakGang l).seats = s.seats := by
  rw [breakGang, seats_updThr, foldl_keeps seats]
  · exact fun _ _ => seats_updThr _ _ _ seat_freedFollower
  · intro x
    split <;> rfl

@[simp] theorem seats_endGang (l : Nat) : (s.endGang l).seats = s.seats := by
  rw [endGang, seats_updThr, foldl_keeps seats]
  · exact fun _ _ => seats_updThr _ _ _ fun _ => rfl
  · exact fun _ => rfl

@[simp] theorem seats_memberDone (t : Nat) (trapped : Bool) : (s.memberDone t trapped).seats = s.seats := by
  have hleft (l : Nat) : (s.updThr l fun g => { g with
      gangLeft := g.gangLeft.filter (· != t), gangTrap := g.gangTrap || trapped }).seats = s.seats := seats_updThr _ _ _ fun _ => rfl
  unfold memberDone
  dsimp only
  repeat' split
  · rfl
  · exact seats_updThr _ _ _ seat_freedFollower
  all_goals simp [hleft]

@[simp] theorem seats_dropMatrix (t : Nat) : (s.dropMatrix t).seats = s.seats := by
  have hdrop (p : Prop) [Decidable p] : (if p then s.updCore (t / 64) fun c => c.dropMatrix (t % 64) else s).seats = s.seats := by
    split
    · exact seats_updCore _ _ _ fun c m => c.seat_dropMatrix _ m
    · rfl
  unfold dropMatrix
  dsimp only
  split
  · exact Eq.trans (seats_updCore _ _ _ fun _ _ => rfl) (hdrop _)
  · exact hdrop _

variable {s}

/-- A fault that is no kill, of a thread at home. -/
theorem seats_finishFault {t : Nat} {f : FaultRec} (hk : f.kill = false) (hh : (s.seats t).home = none) :
    (s.finishFault t f).seats = s.seats := by
  have hhome : ((s.dropMatrix t).thr t).home = none := (congrArg (fun x => (x t).home) (seats_dropMatrix s t)).trans hh
  unfold finishFault
  simp only [hhome, hk, Bool.false_eq_true, if_false, seats_memberDone, seats_sendFault]
  split
  · rw [seats_updCore, seats_updThr, seats_trace, seats_dropMatrix]
    · exact fun _ => rfl
    · exact fun _ _ => rfl
  · rw [seats_updThr, seats_trace, seats_dropMatrix]
    exact fun _ => rfl

/-- A fault that is no kill changes no window: a guest's waits for its departure (R312). -/
theorem seats_takeFault (t : Nat) {f : FaultRec} (hk : f.kill = false) : (s.takeFault t f).seats = s.seats := by
  unfold takeFault
  dsimp only
  split
  · rw [seats_updThr, seats_dropMatrix]
    exact fun _ => rfl
  · next h =>
    have hh : ((s.dropMatrix t).thr t).home = none :=
      Option.not_isSome_iff_eq_none.1 fun hsome => h ⟨.inr hsome, by simp [hk]⟩
    rw [seats_finishFault hk hh, seats_dropMatrix]

theorem seats_fault {f : FaultRec} (hk : f.kill = false) : (s.fault f).seats = s.seats := seats_takeFault _ hk

/-! ## Selectors (R343, R344) and CFGT of a fixed thread (R354) -/

/-- The checks of the supervisor forms lead on to the thread that is selected, or stop; they change no window. -/
theorem select_cases (s : State) (sel : Word) (resume item notSelf : Bool) :
    (∃ u, s.select sel resume item notSelf = .stop u ∧ u.seats = s.seats) ∨
    ∃ u, s.select sel resume item notSelf = .ok (sel.toNat % 2 ^ 18) u ∧ u.seats = s.seats := by
  unfold select
  dsimp only
  repeat' split
  · exact .inl ⟨_, rfl, seats_fault rfl⟩
  · exact .inl ⟨_, rfl, seats_fault rfl⟩
  · exact .inl ⟨_, rfl, (seats_fault rfl).trans (seats_vlogAt ..)⟩
  · exact .inl ⟨_, rfl, seats_fault rfl⟩
  · exact .inl ⟨_, rfl, seats_fault rfl⟩
  · refine .inl ⟨_, rfl, ?_⟩
    rw [again, seats_updThr, seats_updThr, seats_sendRecall] <;> exact fun _ => rfl
  · refine .inr ⟨_, rfl, ?_⟩
    rw [seats_updThr]
    exact fun _ => rfl
  · exact .inr ⟨_, rfl, rfl⟩

end State

/-- CFGT of thread 63 or of a guest slot stops, in a state with the same windows. -/
theorem execCfgt_fixed {s : State} {a b : GReg} (hr : Claim.Ready s (.cfgt a b)) (h : 55 < (s.rdG a).toNat % 64) :
    ∃ t : State, execCfgt a b s = .next t ∧ t.seats = s.seats := by
  have hfixed : 55 < (s.rdG a).toNat % 2 ^ 18 % 64 := by omega
  rcases s.select_cases (s.rdG a) false false false with ⟨u, hu, hs⟩ | ⟨u, hu, hs⟩
  · exact ⟨u, performK_stop hr rfl rfl (by simp only [hu]), hs⟩
  · exact ⟨u.fault (priv 0x07 (s.rdG a)), performK_stop hr rfl rfl (by simp only [hu, hfixed, true_or, if_true]),
      (State.seats_fault rfl).trans hs⟩

end Sys2Proof.Machine

namespace Sys2Proof.Claim

open Sys2Proof Sys2Proof.Machine Sys2Proof.Machine.State

/-- Settles O55: the reset state by the number of the thread; CFGT of a fixed thread stops with every window as it was. -/
theorem windowsAtReset : Obligations.WindowsAtReset := by
  refine ⟨fun k n hn => ?_, fun s a b hr _ _ hfixed => ?_⟩
  · rw [reset_thr k hn]
    exact Thread.reset_windows hn
  · obtain ⟨t, ht, hs⟩ := execCfgt_fixed hr hfixed
    have hseat (n : Nat) : (t.thr n).seat = (s.thr n).seat := congrFun hs n
    exact ⟨t, ht, fun n => ⟨congrArg Seat.gbase (hseat n), congrArg Seat.wl (hseat n), congrArg Seat.vbase (hseat n),
      congrArg Seat.vl (hseat n)⟩⟩

end Sys2Proof.Claim
end

section
/-! PROOFS. Gangs form, and tasks end (R97 to R99, R102). -/

namespace Sys2Proof.Machine

open Sys2Proof

theorem FMap.mem_erase {α : Type} {m : FMap α} {k : Nat} {e : Nat × α} : e ∈ FMap.erase m k ↔ e ∈ m ∧ e.1 ≠ k := by
  simp [FMap.erase]

namespace State

/-! ## What keeps the threads' records -/

/-- The executing thread, what it read at issue, and every thread's record are the same. -/
structure SameThreads (s t : State) : Prop where
  cur : t.cur = s.cur
  snap : t.snap = s.snap
  thr : t.thr = s.thr

namespace SameThreads

theorem refl (s : State) : SameThreads s s := ⟨rfl, rfl, rfl⟩

theorem trans {s t u : State} (h : SameThreads s t) (h' : SameThreads t u) : SameThreads s u :=
  ⟨h'.cur.trans h.cur, h'.snap.trans h.snap, h'.thr.trans h.thr⟩

theorem foldl {α : Type} {f : State → α → State} (hf : ∀ s a, SameThreads s (f s a)) (l : List α) (s : State) :
    SameThreads s (l.foldl f s) :=
  List.foldlRecOn (motive := SameThreads s) l f (refl s) fun t h a _ => h.trans (hf t a)

theorem updCore (s : State) (k : Nat) (f : Core → Core) (h : ∀ c, (f c).threads = c.threads) : SameThreads s (s.updCore k f) :=
  ⟨rfl, rfl, funext fun t => thr_updCore s k t f h⟩

end SameThreads

theorem vlogAt_sameThreads (s : State) (k : Nat) (addr : Word) (kind tenant src : Nat) :
    SameThreads s (s.vlogAt k addr kind tenant src) :=
  SameThreads.updCore _ _ _ fun c => by split <;> rfl

theorem vlogTenant_sameThreads (s : State) (target : Nat) (addr : Word) (kind tenant src : Nat) :
    SameThreads s (s.vlogTenant target addr kind tenant src) := by
  unfold vlogTenant
  dsimp only
  split
  · exact vlogAt_sameThreads ..
  · exact ⟨rfl, rfl, rfl⟩

theorem decrement_sameThreads (s : State) (from' tenant index : Nat) (src : Loc) (asker : Option Loc) (posted : Bool) :
    SameThreads s (s.decrement from' tenant index src asker posted) := by
  unfold decrement
  dsimp only
  split
  · exact vlogTenant_sameThreads ..
  · split <;> exact ⟨rfl, rfl, rfl⟩

theorem decrementSuccessors_sameThreads (s : State) (from' tenant index : Nat) (src : Loc) (asker : Option Loc) :
    SameThreads s (s.decrementSuccessors from' tenant index src asker) :=
  SameThreads.foldl (fun u _ => decrement_sameThreads u ..) _ s

theorem nodeRetired_sameThreads (s : State) (tenant index : Nat) : SameThreads s (s.nodeRetired tenant index) := ⟨rfl, rfl, rfl⟩

/-! ## The streams of a thread are unbound (R97; DEDUCED, log entry 38) -/

theorem unbindAll_eq (s : State) : s.unbindAll = s.boundTo.foldl (fun u x => u.unbind u.ck x.1) s := rfl

theorem unbindAll_sameThreads (s : State) : SameThreads s s.unbindAll := by
  refine SameThreads.foldl (fun u x => ?_) s.boundTo s
  exact SameThreads.updCore u _ _ fun _ => rfl

section
variable (s : State)

@[simp] theorem unbindAll_fw : s.unbindAll.fw = s.fw := by
  rw [unbindAll_eq, foldl_keeps State.fw]
  exact fun _ _ => rfl

@[simp] theorem unbindAll_flight : s.unbindAll.flight = s.flight := by
  rw [unbindAll_eq, foldl_keeps State.flight]
  exact fun _ _ => rfl

@[simp] theorem unbindAll_issued : s.unbindAll.issued = s.issued := by
  rw [unbindAll_eq, foldl_keeps State.issued]
  exact fun _ _ => rfl

end

/-- What is bound on a core once some of its stream registers are unbound was bound, and is none of them. -/
theorem mem_q_unbind (s : State) (l : List (Nat × Stream)) {e : Nat × Stream}
    (h : e ∈ ((l.foldl (fun u x => u.unbind u.ck x.1) s).core s.ck).q) : e ∈ (s.core s.ck).q ∧ ∀ x ∈ l, e.1 ≠ x.1 := by
  induction l generalizing s with
  | nil => exact ⟨h, by simp⟩
  | cons x l ih =>
    obtain ⟨hq, hl⟩ := ih (s.unbind s.ck x.1) h
    have hq : e ∈ FMap.erase (s.core s.ck).q x.1 := by simpa [unbind] using hq
    obtain ⟨hq, hx⟩ := FMap.mem_erase.1 hq
    exact ⟨hq, List.forall_mem_cons.2 ⟨hx, hl⟩⟩

theorem boundTo_unbindAll (s : State) : s.unbindAll.boundTo = [] := by
  have hcur : s.unbindAll.cur = s.cur := s.unbindAll_sameThreads.cur
  rw [boundTo, ck, hcur, List.filter_eq_nil_iff]
  intro e he hthread
  obtain ⟨hq, hne⟩ := mem_q_unbind s s.boundTo he
  exact hne e (List.mem_filter.2 ⟨hq, hthread⟩) rfl

/-! ## The thread waits for work (R97) -/

theorem core_toWfw (s : State) : s.toWfw.core s.ck = (s.unbindAll.core s.ck).setThread (s.cur % 64)
    { s.thr s.cur with node := 0xFFFFFFFF#32, st := .wfw, fprog := 0 } := by
  rw [← s.unbindAll_sameThreads.thr]
  exact core_updThr ..

theorem thr_toWfw (s : State) : s.toWfw.thr s.cur = { s.thr s.cur with node := 0xFFFFFFFF#32, st := .wfw, fprog := 0 } :=
  (congrArg (Core.thread · (s.cur % 64)) (core_toWfw s)).trans (thread_setThread_same ..)

theorem boundTo_toWfw (s : State) : s.toWfw.boundTo = [] := by
  have hcur : s.toWfw.cur = s.cur := s.unbindAll_sameThreads.cur
  have hq := s.boundTo_unbindAll
  rw [boundTo, ck, s.unbindAll_sameThreads.cur] at hq
  rw [boundTo, ck, hcur]
  rw [← ck, core_toWfw]
  exact hq

/-- The executing thread is in the same gang, or in none, as it was at issue. -/
theorem me_grole_toWfw {s t : State} (h : SameThreads s t) : t.toWfw.me.grole = s.me.grole := by
  have hcur : t.toWfw.cur = s.cur := t.unbindAll_sameThreads.cur.trans h.cur
  have hsnap : t.toWfw.snap = s.snap := t.unbindAll_sameThreads.snap.trans h.snap
  rw [me, me, rd, rd, hcur, hsnap]
  cases s.snap with
  | some c => rfl
  | none =>
    have hthr : t.toWfw.thr s.cur = _ := h.cur ▸ thr_toWfw t
    have hg : (t.toWfw.thr s.cur).grole = (s.thr s.cur).grole := by rw [hthr, h.thr]
    exact hg

/-! ## Followers join a gang (R99) -/

/-- A thread as a follower in the gang of leader l. -/
def asFollower (n : GangSize) (l : Nat) (h : Thread) : Thread :=
  { h with st := .run, grole := 2, gsize := gangCode n, gangDis := false, leader := some l, forwarded := [] }

/-- The threads fs follow the executing thread. -/
def enlist (n : GangSize) (fs : List Nat) (s : State) : State := fs.foldl (fun s f => s.updThr f (asFollower n s.cur)) s

theorem thr_enlist_other {n : GangSize} {fs : List Nat} {f : Nat} (h : f ∉ fs) (s : State) : (enlist n fs s).thr f = s.thr f := by
  induction fs generalizing s with
  | nil => rfl
  | cons a fs ih =>
    obtain ⟨ha, hfs⟩ := not_or.1 (mt List.mem_cons.2 h)
    exact (ih hfs _).trans (thr_updThr_other _ _ ha)

theorem thr_enlist {n : GangSize} {fs : List Nat} {f : Nat} (h : f ∈ fs) (s : State) :
    ∃ x, (enlist n fs s).thr f = asFollower n s.cur x := by
  induction fs generalizing s with
  | nil => simp at h
  | cons a fs ih =>
    by_cases hf : f ∈ fs
    · exact ih hf (s.updThr a (asFollower n s.cur))
    · obtain rfl : f = a := (List.mem_cons.1 h).resolve_right hf
      exact ⟨s.thr f, (thr_enlist_other hf _).trans (thr_updThr_same ..)⟩

/-- The executing thread leads the gang of fs. -/
def leads (n : GangSize) (fs : List Nat) (s : State) : State :=
  (enlist n fs s).updThr s.cur fun h =>
    { h with grole := 1, gsize := gangCode n, gangDis := false, members := fs, gangLeft := [], gangTrap := false }

end State

/-- No follower is the leader. -/
theorem gangFollowers_ne {n : GangSize} {t f : Nat} (h : f ∈ gangFollowers n t) : f ≠ t := by
  cases n <;> simp only [gangFollowers, gangDims, List.mem_map, List.mem_filter, List.mem_range, bne_iff_ne] at h <;> omega

end Sys2Proof.Machine

namespace Sys2Proof.Claim.TaskEnd

open Sys2Proof Sys2Proof.Machine Sys2Proof.Machine.State

/-! ## The forms -/

section
variable (s : State)

theorem exec_wfw : exec .wfw s = execWfw s := rfl
theorem exec_doneOp : exec .doneOp s = execDoneOp s := rfl
theorem exec_signal (a : GReg) : exec (.signal a) s = execSignal a s := rfl
theorem exec_disband : exec .disband s = execDisband s := rfl
theorem exec_gang (n : GangSize) : exec (.gang n) s = execGang n s := rfl

end

variable {s : State}

/-! ## WFW and DONE (R97) -/

section
variable (hg : s.me.grole = 0) (hw : s.wfwWaits = false)
include hg hw

theorem wfw_leaves (hr : Ready s .wfw) : exec .wfw s = .next s.toWfw := by
  rw [exec_wfw, execWfw]
  refine performK_done hr rfl rfl ?_
  simp only [hg, hw, ne_eq, not_true, if_false, Bool.false_eq_true]

/-- DONE of a thread in no gang that runs no stage: what its node asks, and the thread waits for work. -/
theorem done_leaves (hr : Ready s .doneOp) (hp : s.pipeOf = none) : exec .doneOp s = .next
    (if s.me.node.toNat = 0xFFFFFFFF then s
      else (s.decrementSuccessors s.ck s.myTenant s.me.node.toNat (s.loc s.cur) (some (s.homeLoc s.cur))).nodeRetired s.myTenant
        s.me.node.toNat).toWfw := by
  rw [exec_doneOp, execDoneOp]
  refine performK_done hr rfl rfl ?_
  have hrole : ¬s.me.grole = 2 := by omega
  simp only [if_neg hrole, hw, hp, Bool.false_eq_true, if_false]
  refine congrArg Eff.done (if_neg ?_)
  rw [me_grole_toWfw (s := s), hg]
  · decide
  · split
    · exact .refl s
    · exact (decrementSuccessors_sameThreads ..).trans (nodeRetired_sameThreads ..)

theorem done_ofNode (hr : Ready s .doneOp) (hp : s.pipeOf = none) (hn : s.me.node ≠ 0xFFFFFFFF#32) : exec .doneOp s = .next
    ((s.decrementSuccessors s.ck s.myTenant s.me.node.toNat (s.loc s.cur) (some (s.homeLoc s.cur))).nodeRetired s.myTenant
      s.me.node.toNat).toWfw := by
  rw [done_leaves hg hw hr hp, if_neg (show ¬s.me.node.toNat = 0xFFFFFFFF from fun h => hn (BitVec.eq_of_toNat_eq h))]

theorem done_ofNone (hr : Ready s .doneOp) (hp : s.pipeOf = none) (hn : s.me.node = 0xFFFFFFFF#32) :
    exec .doneOp s = .next s.toWfw := by
  rw [done_leaves hg hw hr hp, if_pos (show s.me.node.toNat = 0xFFFFFFFF from congrArg BitVec.toNat hn)]

end

/-! ## SIGNAL and DISBAND (R98, R102) -/

theorem signal_sends {a : GReg} (hr : Ready s (.signal a)) (hw : s.waits (!s.released) = false) : exec (.signal a) s =
    .next (s.decrement s.ck s.myTenant ((s.rdG a).toNat % 2 ^ 32) (s.loc s.cur) (some (s.homeLoc s.cur))) := by
  rw [exec_signal, execSignal]
  refine performK_done hr rfl rfl ?_
  simp only [hw, Bool.false_eq_true, if_false]

theorem disband_outside (hr : Ready s .disband) (hg : s.me.grole = 0) : exec .disband s = .next s := by
  rw [exec_disband, execDisband]
  refine performK_done hr rfl rfl ?_
  simp [hg]

theorem disband_ofLeader (hr : Ready s .disband) (hg : s.me.grole = 1) :
    exec .disband s = .next (s.updThr s.cur fun h => { h with gangEnd := true }) := by
  rw [exec_disband, execDisband]
  refine performK_done hr rfl rfl ?_
  simp [hg]

/-! ## GANG (R99) -/

/-- May thread f follow the executing thread? -/
def MayFollow (s : State) (f : Nat) : Prop :=
  (s.thr f).st = .wfw ∧ (s.thr f).grole = 0 ∧ (s.core (f / 64)).assigned = true ∧ (s.core (f / 64)).tenant = s.myTenant ∧
    s.me.wl ≤ (s.thr f).wl ∧ s.me.vl ≤ (s.thr f).vl

theorem gang_forms {n : GangSize} (hr : Ready s (.gang n)) (hg : s.me.grole = 0) (hc : s.cur % 64 < 56)
    (hp : gangPlaced n (s.ck % 16) = true) (hw : s.waits (!s.nothingPending) = false)
    (hf : ∀ f ∈ gangFollowers n s.cur, MayFollow s f) : exec (.gang n) s = .next (leads n (gangFollowers n s.cur) s) := by
  have hplace : ¬(s.me.grole ≠ 0 ∨ 56 ≤ s.cur % 64 ∨ (!gangPlaced n (s.ck % 16)) = true) := by
    simp [hg, hp, hc]
  rw [exec_gang, execGang]
  refine performK_done hr rfl rfl ((if_neg hplace).trans ?_)
  simp only [hw, Bool.false_eq_true, if_false]
  refine if_neg fun hany => ?_
  obtain ⟨f, hmem, hbad⟩ := List.any_eq_true.1 hany
  obtain ⟨hst, hrole, hass, hten, hwl, hvl⟩ := hf f hmem
  simp [hst, hrole, hass, hten, Nat.not_lt.2 hwl, Nat.not_lt.2 hvl] at hbad

end Sys2Proof.Claim.TaskEnd

namespace Sys2Proof.Claim

open Sys2Proof Sys2Proof.Machine Sys2Proof.Machine.State TaskEnd

theorem gangForms : GangForms := by
  intro s n hr hg hc hp hw hf
  refine ⟨_, gang_forms hr hg hc hp hw hf, by rw [leads, thr_updThr_same], by rw [leads, thr_updThr_same], fun f hmem => ?_⟩
  obtain ⟨x, hx⟩ := thr_enlist hmem s
  rw [leads, thr_updThr_other _ _ (gangFollowers_ne hmem), hx]
  exact ⟨rfl, rfl, rfl⟩

theorem taskEndCompletes : TaskEndCompletes := by
  intro s a
  refine ⟨fun hr hg hw => ⟨s.toWfw, wfw_leaves hg hw hr, ?_, ?_, boundTo_toWfw s⟩,
    fun hr hg hw hp hn => ⟨s.toWfw, done_ofNone hg hw hr hp hn, ?_, unbindAll_fw s, unbindAll_flight s, unbindAll_issued s⟩,
    fun hr hg hw => done_ofNode hg hw hr, signal_sends, disband_outside, disband_ofLeader⟩
  all_goals rw [thr_toWfw]

/-- Settles O10: the end of a task by what unbinding the streams keeps, a gang by the threads that its followers become. -/
theorem gangAndTaskEndComplete : Obligations.GangAndTaskEndComplete := ⟨gangForms, taskEndCompletes⟩

end Sys2Proof.Claim
end

section
/-! PROOFS. Loads, stores, gathers and scatters, spills and fills whose accesses pass their checks are sent (R121 to R130). -/

namespace Sys2Proof.Machine

open Sys2Proof

/-- An operation whose checks pass and whose effect is done takes the inbound vectors that it reads (R138). -/
theorem performK_consumed {s t : State} {i : Instr} (hr : Claim.Ready s i) {k : State → Eff} (hk : k s = .done t) :
    performK s i k = .next (Claim.Consumed i t) := by
  obtain ⟨hguard, hstreams, hout⟩ := hr
  rw [performK_ready hguard hstreams hout, hk]
  rfl

/-! ## Pieces (R405) -/

theorem map_blocks_ne_nil {α : Type} {n : Nat} (h : ¬n ≤ 64) (f : Nat → α) : (List.range (n / 64)).map f ≠ [] := by
  have : n / 64 ≠ 0 := by omega
  simpa using this

theorem cutStore_ne_nil (va : Word) (p : Place) (d : List Byte) : cutStore va p d ≠ [] := by
  unfold cutStore
  repeat' split
  · exact List.cons_ne_nil _ _
  · next h => exact map_blocks_ne_nil h _
  · exact List.cons_ne_nil _ _
  · next h => exact map_blocks_ne_nil h _
  · exact List.cons_ne_nil _ _

theorem cutLoad_ne_nil (va : Word) (p : Place) (n : Nat) : cutLoad va p n ≠ [] := by
  unfold cutLoad
  repeat' split
  · exact List.cons_ne_nil _ _
  · next h => exact map_blocks_ne_nil h _
  · exact List.cons_ne_nil _ _
  · next h => exact map_blocks_ne_nil h _
  · exact List.cons_ne_nil _ _

/-- Every lane or block of a list passes its check. -/
def AllOk (l : List (Nat × Word × Tr)) : Prop := ∀ x ∈ l, ∃ p g, x.2.2 = .ok p g

section
variable {l : List (Nat × Word × Tr)}

theorem AllOk.firstBad_eq_none (h : AllOk l) : firstBad l = none := by
  refine List.find?_eq_none.2 fun x hx => ?_
  obtain ⟨p, g, hok⟩ := h x hx
  simp [hok]

theorem AllOk.blockPieces_ne_nil (h : AllOk l) (hl : l ≠ []) {f : Nat → Word → Place → List Piece} (hf : ∀ k va p, f k va p ≠ []) :
    blockPieces l f ≠ [] := by
  obtain ⟨x, hx⟩ := List.exists_mem_of_ne_nil l hl
  obtain ⟨p, g, hok⟩ := h x hx
  exact fun hnil => hf x.1 x.2.1 p (by simpa [hok] using List.flatMap_eq_nil_iff.1 hnil x hx)

/-- The accesses of a gather or scatter, one for each lane whose check passes. -/
def lanePieces (kind : Nat → AccKind) (l : List (Nat × Word × Tr)) : List Piece :=
  l.filterMap fun x => match x.2.2 with
    | .ok p _ => some { va := x.2.1, place := p, kind := kind x.1 }
    | _ => none

/-- There is one for every lane, at its address and of its kind. -/
theorem AllOk.map_lanePieces (h : AllOk l) (kind : Nat → AccKind) :
    (lanePieces kind l).map (fun p => (p.va, p.kind)) = l.map fun x => (x.2.1, kind x.1) := by
  induction l with
  | nil => rfl
  | cons x r ih =>
    obtain ⟨hx, hr⟩ := List.forall_mem_cons.1 h
    obtain ⟨p, g, hok⟩ := hx
    rw [lanePieces, List.filterMap_cons_some (by rw [hok]), List.map_cons, List.map_cons]
    exact congrArg _ (ih hr)

theorem AllOk.map_va_lanePieces (h : AllOk l) (kind : Nat → AccKind) : (lanePieces kind l).map (·.va) = l.map (·.2.1) := by
  simpa [Function.comp_def] using congrArg (List.map Prod.fst) (h.map_lanePieces kind)

theorem AllOk.map_kind_lanePieces (h : AllOk l) (kind : Nat → AccKind) :
    (lanePieces kind l).map (·.kind) = l.map fun x => kind x.1 := by
  simpa [Function.comp_def] using congrArg (List.map Prod.snd) (h.map_lanePieces kind)

theorem AllOk.lanePieces_eq_nil (h : AllOk l) (kind : Nat → AccKind) : lanePieces kind l = [] ↔ l = [] := by
  rw [← List.map_eq_nil_iff (f := Piece.va), h.map_va_lanePieces, List.map_eq_nil_iff]

theorem allOk_map {k : List (Nat × Word)} (check : Word → Tr) (h : ∀ x ∈ k, ∃ p g, check x.2 = .ok p g) :
    AllOk (k.map fun x => (x.1, x.2, check x.2)) := by
  intro y hy
  obtain ⟨x, hx, rfl⟩ := List.mem_map.1 hy
  exact h x hx

end

namespace State

variable {s : State}

/-! ## Sending (R124) -/

/-- The piece that an access makes. -/
def pieceOf (a : Access) : Piece := { va := a.va, place := a.place, kind := a.kind }

theorem map_pieceOf_pieceList (t ck n op turn : Nat) (md : Mode) (id i : Nat) (ps : List Piece) :
    (pieceList t ck n op turn md id i ps).map pieceOf = ps := by
  induction ps generalizing id i with
  | nil => rfl
  | cons p r ih => rw [pieceList, List.map_cons, ih, pieceOf]

/-- Behind the accesses that are issued already stand those of the pieces. -/
theorem map_pieceOf_launch (what : OpWhat) (md : Mode) (ps : List Piece) :
    ((s.launch what md ps).issued.drop s.issued.length).map pieceOf = ps := by
  rw [launch, launchFor, List.drop_left, map_pieceOf_pieceList]

theorem rxFull_false : s.rxFull false = false := Bool.and_false _

theorem load_sent {rx : Bool} (h : s.rxFull rx = false) (what : OpWhat) (md : Mode) (ds : List RegRef) (ps : List Piece) :
    s.load what md rx ds ps = .done (if rx then ds.foldl (fun u r => u.pend u.cur r none) (s.launch what md ps)
      else (s.launch what md ps).park s.cur (.reply s.nextId)) := by
  rw [load, h]
  rfl

theorem store_sent {rx : Bool} (h : s.rxFull rx = false) {ps : List Piece} (hps : ps ≠ []) (md : Mode) (sc : Bool) :
    s.store md sc rx ps = .done (if rx then s.launch .store md ps
      else (s.launch .store md ps).hold s.cur (if sc then .ack s.nextId else .accept s.nextId)) := by
  rw [store, h, if_neg Bool.false_ne_true, if_neg (by simpa using hps)]
  rfl

theorem store_nothing {rx : Bool} (h : s.rxFull rx = false) (md : Mode) (sc : Bool) : s.store md sc rx [] = .done s := by
  rw [store, h]
  rfl

/-! ## Operations without stream operands (R138) -/

theorem filterMap_q_eq_nil {l : List RegRef} (h : ∀ r ∈ l, ∀ n, r ≠ .q n) :
    (l.filterMap fun r => match r with | .q n => some n | _ => none) = [] :=
  List.filterMap_eq_nil_iff.2 fun r hr => by
    cases r with
    | q n => exact absurd rfl (h _ hr n)
    | _ => rfl

theorem qIn_eq_nil {i : Instr} (h : ∀ r ∈ sources i, ∀ n, r ≠ .q n) : qIn i = [] := congrArg List.eraseDups (filterMap_q_eq_nil h)

theorem qOut_eq_nil {i : Instr} (h : ∀ r ∈ dests i, ∀ n, r ≠ .q n) : qOut i = [] := filterMap_q_eq_nil h

end State

theorem isSc_iff {o : Order} : isSc o = true ↔ o = .sc := by
  cases o <;> simp [isSc]

end Sys2Proof.Machine

namespace Sys2Proof.Claim.MemoryForm

open Sys2Proof Sys2Proof.Machine Sys2Proof.Machine.State

variable {s : State} {ty : IntTy} {m : Mcw} {a b c : GReg} {off : Off16} {p : Place} {g : Nat}

/-! ## LD and ST (R121, R123, R124) -/

/-- The effect of a load of va whose access has the outcome tr. -/
def ldEff (s : State) (ty : IntTy) (m : Mcw) (a : GReg) (va : Word) (tr : Tr) : Eff :=
  match tr with
  | .ok p g =>
    match s.way p g with
    | .here => s.load (.ld ty a.toNat) (Mode.ofMcw m) m.rx [Regs.g a] [{ va := va, place := p, kind := .load (tyWidth ty / 8) }]
    | .go => s.depart g (s.migPacket va false (intSub ty) a m.order m.rx 0 0)
    | .refuse => .stop (s.fault (migrateF va))
  | tr => .stop (s.accessFails va tr)

theorem exec_ld : exec (.ld ty m a b off) s = performK s (.ld ty m a b off) fun u =>
    ldEff u ty m a (u.rdG b + off.signExtend 64)
      (u.checkAccess m.sp (u.rdG b + off.signExtend 64) (tyWidth ty / 8) (tyWidth ty / 8) (.ld (tyWidth ty / 8))) := rfl

theorem exec_st : exec (.st ty m a off b) s = performK s (.st ty m a off b) fun u =>
    stEff u ty m (u.rdG a + off.signExtend 64) (u.rdG b) none := rfl

theorem exec_stSig : exec (.stSig ty m a off b c) s = performK s (.stSig ty m a off b c) fun u =>
    stEff u ty m (u.rdG a + off.signExtend 64) (u.rdG b) (some ((u.rdG c).toNat % 2 ^ 32)) := rfl

/-- The access of a load that is made here is sent; the thread is parked, or its destination pending. -/
theorem ldEff_here (hrx : s.rxFull m.rx = false) (hw : s.way p g = .here) (va : Word) :
    let t := s.launch (.ld ty a.toNat) (Mode.ofMcw m) [{ va := va, place := p, kind := .load (tyWidth ty / 8) }]
    ldEff s ty m a va (.ok p g) = .done (if m.rx then t.pend s.cur (.g a.toNat) none else t.park s.cur (.reply s.nextId)) := by
  simp only [ldEff, hw]
  exact load_sent hrx ..

theorem stEff_ok (hrx : s.rxFull m.rx = false) {va w : Word} (sig : Option Nat)
    (hc : s.checkAccess m.sp va (tyWidth ty / 8) (tyWidth ty / 8) (.st (tyWidth ty / 8)) = .ok p g) :
    let t := s.launch .store { Mode.ofMcw m with sig := sig } [{ va := va, place := p, kind := .store (leBytes (tyWidth ty / 8) w.toNat) }]
    stEff s ty m va w sig = .done (if m.rx then t else t.hold s.cur (if m.order = .sc then .ack s.nextId else .accept s.nextId)) := by
  simp only [stEff, hc, store_sent hrx (List.cons_ne_nil _ _), isSc_iff]

/-! ## LDV and STV (R126) -/

/-- The effect of a vector load of va whose access has the outcome tr. -/
def ldvEff (s : State) (m : Mcw) (v : VOp) (va : Word) (tr : Tr) : Eff :=
  match tr with
  | .ok p _ => s.load (.ldv v) (Mode.ofMcw m) m.rx [Regs.v v] (cutLoad va p 512)
  | tr => .stop (s.accessFails va tr)

/-- The effect of a store of the vector x at va. -/
def stvEff (s : State) (m : Mcw) (x : VWord) (va : Word) (tr : Tr) : Eff :=
  match tr with
  | .ok p _ => s.store (Mode.ofMcw m) (isSc m.order) m.rx (cutStore va p (vecBytes x))
  | tr => .stop (s.accessFails va tr)

theorem exec_ldv (v : VOp) : exec (.ldv m v b off) s = performK s (.ldv m v b off) fun u =>
    ldvEff u m v (u.rdG b + off.signExtend 64) (u.checkFixed m.sp (u.rdG b + off.signExtend 64) 512 512 .ldv) := rfl

theorem exec_stv (v : VOp) : exec (.stv m a off v) s = performK s (.stv m a off v) fun u =>
    stvEff u m (u.rdV v) (u.rdG a + off.signExtend 64) (u.checkAccess m.sp (u.rdG a + off.signExtend 64) 512 512 .stv) := rfl

theorem ldvEff_ok {v : VOp} (hrx : s.rxFull m.rx = false) (va : Word) :
    let t := s.launch (.ldv v) (Mode.ofMcw m) (cutLoad va p 512)
    ldvEff s m v va (.ok p g) = .done (if m.rx then t.pend s.cur (Regs.v v) none else t.park s.cur (.reply s.nextId)) :=
  load_sent hrx ..

theorem stvEff_ok (hrx : s.rxFull m.rx = false) (x : VWord) (va : Word) :
    let t := s.launch .store (Mode.ofMcw m) (cutStore va p (vecBytes x))
    stvEff s m x va (.ok p g) =
      .done (if m.rx then t else t.hold s.cur (if m.order = .sc then .ack s.nextId else .accept s.nextId)) := by
  simp only [stvEff, store_sent hrx (cutStore_ne_nil va p (vecBytes x)), isSc_iff]

/-! ## LDX and STX (R127, R128) -/

/-- The effect of a gather whose lanes have the outcomes l of their checks. -/
def ldxEff (s : State) (ty : IntTy) (m : Mcw) (v : VOp) (l : List (Nat × Word × Tr)) : Eff :=
  match firstBad l with
  | some (i, va, tr) => .stop (s.accessFault va tr i)
  | none =>
    let ps := lanePieces (fun _ => .load (tyWidth ty / 8)) l
    if ps.isEmpty then .done (s.wrV v 0 0) else s.load (.ldx ty v (l.map (·.1))) (Mode.ofMcw m) m.rx [Regs.v v] ps

/-- What a scatter of the vector x does in lane i. -/
def laneStore (ty : IntTy) (x : VWord) (i : Nat) : AccKind := .store (leBytes (tyWidth ty / 8) (lane x i).toNat)

/-- The effect of a scatter of the vector x. -/
def stxEff (s : State) (ty : IntTy) (m : Mcw) (x : VWord) (l : List (Nat × Word × Tr)) : Eff :=
  match firstBad l with
  | some (i, va, tr) => .stop (s.accessFault va tr i)
  | none =>
    let ps := lanePieces (laneStore ty x) l
    if s.rxFull m.rx then .stop s.atPortHeld else s.store (Mode.ofMcw m) false false ps

theorem exec_ldx (v w : VOp) : exec (.ldx ty m v b off w) s = performK s (.ldx ty m v b off w) fun u =>
    ldxEff u ty m v ((activeLanes (u.rdG b + off.signExtend 64) (u.rdV w)).map fun x =>
      (x.1, x.2, u.checkFixed m.sp x.2 (tyWidth ty / 8) (tyWidth ty / 8) .ldx)) := rfl

theorem exec_stx (v w : VOp) : exec (.stx ty m a off v w) s = performK s (.stx ty m a off v w) fun u =>
    stxEff u ty m (u.rdV v) ((activeLanes (u.rdG a + off.signExtend 64) (u.rdV w)).map fun x =>
      (x.1, x.2, u.checkAccess m.sp x.2 (tyWidth ty / 8) (tyWidth ty / 8) .stx)) := rfl

section
variable {l : List (Nat × Word × Tr)}

theorem ldxEff_nil (v : VOp) : ldxEff s ty m v [] = .done (s.wrV v 0 0) := rfl

theorem ldxEff_sends (hl : AllOk l) (hne : l ≠ []) (hrx : s.rxFull m.rx = false) (v : VOp) : ∃ (t : State) (ps : List Piece),
    ldxEff s ty m v l = .done t ∧ t.issued = (s.launch (.ldx ty v (l.map (·.1))) (Mode.ofMcw m) ps).issued ∧
    ps.map (·.va) = l.map (·.2.1) ∧ (m.rx = false → (t.thr s.cur).wait = (s.thr s.cur).wait ++ [.reply s.nextId]) := by
  have hps := mt (hl.lanePieces_eq_nil fun _ => .load (tyWidth ty / 8)).1 hne
  have heff : ldxEff s ty m v l = s.load (.ldx ty v (l.map (·.1))) (Mode.ofMcw m) m.rx [Regs.v v]
      (lanePieces (fun _ => .load (tyWidth ty / 8)) l) := by
    simp only [ldxEff, hl.firstBad_eq_none, List.isEmpty_iff, hps, if_false]
  refine ⟨_, _, heff.trans (load_sent hrx ..), ?_, hl.map_va_lanePieces fun _ => .load (tyWidth ty / 8), fun hplain => ?_⟩
  · split <;> rfl
  · rw [hplain, if_neg Bool.false_ne_true, park, thr_updThr_same]
    rfl

theorem stxEff_sends (hl : AllOk l) (hrx : s.rxFull m.rx = false) (x : VWord) : ∃ t : State, stxEff s ty m x l = .done t ∧
    (t.issued.drop s.issued.length).map (·.va) = l.map (·.2.1) ∧
    (t.issued.drop s.issued.length).map (·.kind) = l.map fun y => laneStore ty x y.1 := by
  have heff : stxEff s ty m x l = s.store (Mode.ofMcw m) false false (lanePieces (laneStore ty x) l) := by
    simp only [stxEff, hl.firstBad_eq_none, hrx, Bool.false_eq_true, if_false]
  have hsent (t : State) (ht : (t.issued.drop s.issued.length).map pieceOf = lanePieces (laneStore ty x) l) :
      (t.issued.drop s.issued.length).map (·.va) = l.map (·.2.1) ∧
      (t.issued.drop s.issued.length).map (·.kind) = l.map fun y => laneStore ty x y.1 := by
    rw [← hl.map_va_lanePieces (laneStore ty x), ← hl.map_kind_lanePieces, ← ht, List.map_map, List.map_map]
    exact ⟨rfl, rfl⟩
  by_cases hnil : lanePieces (laneStore ty x) l = []
  · refine ⟨s, ?_, hsent s ?_⟩
    · rw [heff, hnil, store_nothing rxFull_false]
    · rw [hnil, List.drop_length, List.map_nil]
  · exact ⟨_, heff.trans (store_sent rxFull_false hnil ..), hsent _ (map_pieceOf_launch .store ..)⟩

end

/-! ## SPILL and FILL (R129, R130) -/

section
variable (s : State) (ulm : Bool) (a b : GReg) (va vb : BitVec 6) (off : Off16) (cntM1 : BitVec 7)

theorem exec_spillG : exec (.spillG ulm a off b cntM1) s = performK s (.spillG ulm a off b cntM1) fun u =>
    spillEff u ulm (u.rdG a + off.signExtend 64) 8 (cntM1.toNat + 1) fun k =>
      leBytes 8 (FMap.get 0 u.rd.gfile (u.me.gbase * 8 + b.toNat + k)).toNat := rfl

theorem exec_spillV : exec (.spillV ulm a off vb cntM1) s = performK s (.spillV ulm a off vb cntM1) fun u =>
    spillEff u ulm (u.rdG a + off.signExtend 64) 512 (cntM1.toNat + 1) fun k => vecBytes (u.rdVr (vb.toNat + k)) := rfl

theorem exec_fillG : exec (.fillG ulm a b off cntM1) s = performK s (.fillG ulm a b off cntM1) fun u =>
    fillEff u ulm (u.me.fillBase.getD (u.rdG b + off.signExtend 64)) 8 (cntM1.toNat + 1) (fun k => .fillG (a.toNat + k))
      (fun k => .g (a.toNat + k)) (some a) := rfl

theorem exec_fillV : exec (.fillV ulm va b off cntM1) s = performK s (.fillV ulm va b off cntM1) fun u =>
    fillEff u ulm (u.me.fillBase.getD (u.rdG b + off.signExtend 64)) 512 (cntM1.toNat + 1) (fun k => .fillV (va.toNat + k))
      (fun k => .v (va.toNat + k)) none := rfl

/-! SPILL reads no stream register, and FILL writes none. -/

theorem gs_ne_q (n : Nat) : ∀ r ∈ Regs.gs a n, ∀ q, r ≠ .q q := by simp [Regs.gs]

theorem vs_ne_q (n : Nat) : ∀ r ∈ Regs.vs va n, ∀ q, r ≠ .q q := by simp [Regs.vs]

theorem qIn_spillG : qIn (.spillG ulm a off b cntM1) = [] :=
  qIn_eq_nil (List.forall_mem_cons.2 ⟨fun _ => RegRef.noConfusion, gs_ne_q b _⟩)

theorem qIn_spillV : qIn (.spillV ulm a off vb cntM1) = [] :=
  qIn_eq_nil (List.forall_mem_cons.2 ⟨fun _ => RegRef.noConfusion, vs_ne_q vb _⟩)

theorem qOut_fillG : qOut (.fillG ulm a b off cntM1) = [] := qOut_eq_nil (gs_ne_q a _)

theorem qOut_fillV : qOut (.fillV ulm va b off cntM1) = [] := qOut_eq_nil (vs_ne_q va _)

end

section
variable {ulm : Bool} {base : Word} {stride cnt : Nat}

theorem runBlocks_ne_nil (h : s.me.fprog.toNat < cnt) (u : Use) : runBlocks s ulm base stride cnt u ≠ [] :=
  mt List.map_eq_nil_iff.1 (by simpa using Nat.sub_ne_zero_of_lt h)

theorem runBlocks_beyond (h : cnt ≤ s.me.fprog.toNat) (u : Use) : runBlocks s ulm base stride cnt u = [] := by
  rw [runBlocks, Nat.sub_eq_zero_of_le h]
  rfl

theorem spillEff_beyond (h : cnt ≤ s.me.fprog.toNat) (data : Nat → List Byte) : spillEff s ulm base stride cnt data = .done s := by
  rw [spillEff, runBlocks_beyond h]
  exact store_nothing rxFull_false ..

theorem fillEff_beyond (h : cnt ≤ s.me.fprog.toNat) (what : Nat → OpWhat) (reg : Nat → RegRef) (scalar : Option GReg) :
    fillEff s ulm base stride cnt what reg scalar = .done s := by
  rw [fillEff, runBlocks_beyond h]
  rfl

theorem spillEff_sends (h : s.me.fprog.toNat < cnt) (hok : AllOk (runBlocks s ulm base stride cnt .spill)) (data : Nat → List Byte) :
    spillEff s ulm base stride cnt data = .done ((s.launch .store Mode.plain
      (blockPieces (runBlocks s ulm base stride cnt .spill) fun k va p => cutStore va p (data k))).hold s.cur (.accept s.nextId)) := by
  have hne := hok.blockPieces_ne_nil (runBlocks_ne_nil h _) fun k va p => cutStore_ne_nil va p (data k)
  simp only [spillEff, hok.firstBad_eq_none]
  exact store_sent rxFull_false hne ..

/-- May the block be loaded from where the thread is: it is a FILL of vectors and the block lies in this package, or a FILL of scalars that
the thread need not move for (R130, R310)? -/
def FillHere (s : State) (scalar : Option GReg) (p : Place) (g : Nat) : Prop :=
  match scalar with
  | some _ => s.way p g = .here
  | none => p.isRemote = false

theorem fillEff_sends {scalar : Option GReg} (h : s.me.fprog.toNat < cnt)
    (hok : ∀ x ∈ runBlocks s ulm base stride cnt .fill, ∃ p g, x.2.2 = .ok p g ∧ FillHere s scalar p g) (what : Nat → OpWhat)
    (reg : Nat → RegRef) : fillEff s ulm base stride cnt what reg scalar =
      .done ((s.launch (what s.me.fprog.toNat) Mode.plain
        (blockPieces (runBlocks s ulm base stride cnt .fill) fun _ va p => cutLoad va p stride)).park s.cur (.reply s.nextId)) := by
  have hall : AllOk (runBlocks s ulm base stride cnt .fill) := fun x hx => by
    obtain ⟨p, g, hx, -⟩ := hok x hx
    exact ⟨p, g, hx⟩
  have hne := hall.blockPieces_ne_nil (runBlocks_ne_nil h _) fun _ va p => cutLoad_ne_nil va p stride
  unfold fillEff
  extract_lets k0 way l ps stopAt
  have hway (x) (hx : x ∈ runBlocks s ulm base stride cnt .fill) : way x = .here := by
    obtain ⟨p, g, hx, hp⟩ := hok x hx
    cases scalar with
    | none => simpa [way, hx, FillHere] using hp
    | some a => simpa only [way, hx, FillHere] using hp
  have hl : l = runBlocks s ulm base stride cnt .fill :=
    (List.map_congr_left fun x hx => by rw [hway x hx]; rfl).trans (List.map_id _)
  have hstop : stopAt = none := List.find?_eq_none.2 fun x hx => by
    rw [hl] at hx
    obtain ⟨p, g, hok⟩ := hall x hx
    simp [hok, hway x hx]
  simp only [hstop, hl, ps, List.isEmpty_iff, hne, if_false]
  exact load_sent rxFull_false ..

end

end Sys2Proof.Claim.MemoryForm

namespace Sys2Proof.Claim

open Sys2Proof Sys2Proof.Machine Sys2Proof.Machine.State MemoryForm

/-- Settles O11: each form by the pieces that it sends. -/
theorem loadStoreCompletes : Obligations.LoadStoreCompletes := fun _ _ _ _ _ _ _ _ _ _ hrx =>
  ⟨fun hr hc hw => (exec_ld ..).trans (performK_done hr rfl rfl ((congrArg _ hc).trans (ldEff_here hrx hw _))),
    fun hr hc => (exec_st ..).trans (performK_done hr rfl rfl (stEff_ok hrx none hc)),
    fun hr hc => (exec_stSig ..).trans (performK_done hr rfl rfl (stEff_ok hrx _ hc)),
    fun hr hc => (exec_ldv ..).trans (performK_consumed hr ((congrArg _ hc).trans (ldvEff_ok hrx _))),
    fun hr hc => (exec_stv ..).trans (performK_consumed hr ((congrArg _ hc).trans (stvEff_ok hrx _ _)))⟩

/-- Settles O12: the accesses of the lanes, in the order of the lanes. -/
theorem gatherScatterCompletes : Obligations.GatherScatterCompletes := by
  intro s ty m a b v w off hrx
  refine ⟨fun hr hok => ⟨fun hnil => ?_, fun hne => ?_⟩, fun hr hok => ?_⟩
  · rw [exec_ldx]
    exact performK_consumed hr (by rw [hnil, List.map_nil, ldxEff_nil])
  · obtain ⟨t, ps, heff, hissued, hva, hwait⟩ :=
      ldxEff_sends (ty := ty) (allOk_map (fun va => s.checkFixed m.sp va (tyWidth ty / 8) (tyWidth ty / 8) .ldx) hok)
        (mt List.map_eq_nil_iff.1 hne) hrx v
    rw [List.map_map] at hva hissued
    exact ⟨t, ps, (exec_ldx ..).trans (performK_consumed hr heff), hissued, hva, hwait⟩
  · obtain ⟨t, heff, hva, hkind⟩ :=
      stxEff_sends (ty := ty) (allOk_map (fun va => s.checkAccess m.sp va (tyWidth ty / 8) (tyWidth ty / 8) .stx) hok) hrx (s.rdV v)
    rw [List.map_map] at hva hkind
    exact ⟨t, (exec_stx ..).trans (performK_consumed hr heff), hva, hkind⟩

/-- Settles O13: the effect of each form on its blocks, from FPROG on and beyond the last. -/
theorem spillFillCompletes : Obligations.SpillFillCompletes := fun _ _ _ _ _ _ _ _ =>
  ⟨fun h => ⟨fun hr hok => (exec_spillG ..).trans (performK_done hr (qIn_spillG ..) rfl (spillEff_sends h hok _)),
      fun hr hok => (exec_spillV ..).trans (performK_done hr (qIn_spillV ..) rfl (spillEff_sends h hok _)),
      fun hr hok => (exec_fillG ..).trans (performK_done hr rfl (qOut_fillG ..) (fillEff_sends h hok _ _)),
      fun hr hok => (exec_fillV ..).trans (performK_done hr rfl (qOut_fillV ..) (fillEff_sends h hok _ _))⟩,
    fun h => ⟨fun hr => (exec_spillG ..).trans (performK_done hr (qIn_spillG ..) rfl (spillEff_beyond h _)),
      fun hr => (exec_spillV ..).trans (performK_done hr (qIn_spillV ..) rfl (spillEff_beyond h _)),
      fun hr => (exec_fillG ..).trans (performK_done hr rfl (qOut_fillG ..) (fillEff_beyond h _ _ _)),
      fun hr => (exec_fillV ..).trans (performK_done hr rfl (qOut_fillV ..) (fillEff_beyond h _ _ _))⟩⟩

end Sys2Proof.Claim
end

section
/-! PROOFS. Loads and stores reach their banks and are answered (R124, R147, R149, R317, R340). -/

namespace Sys2Proof.Machine

open Sys2Proof

/-- A view of a core that does not look at what the end of a bundle changes: its threads, its matrix unit, its stream registers, its
communication unit (R40, R103, R335). -/
def Core.KeptAtRetire {α : Type} (v : Core → α) : Prop :=
  ∀ (c : Core) (h : FMap Thread) (m : MatrixUnit) (q : FMap Stream) (u : CommUnit), v { c with threads := h, mx := m, q := q, comm := u } = v c

namespace State

/-- A view of the package's cores, by core key. -/
def view {α : Type} (v : Core → α) (s : State) (k : Nat) : α := v (s.core k)

section
variable {α : Type} {v : Core → α}

theorem view_of_cores {s t : State} (h : t.cores = s.cores) : t.view v = s.view v := by
  funext k
  rw [view, view, core, core, h]

theorem view_updCore (s : State) (k : Nat) {f : Core → Core} (h : ∀ c, v (f c) = v c) : (s.updCore k f).view v = s.view v := by
  funext j
  by_cases hj : j = k
  · rw [hj, view, core_updCore_same, h, view]
  · rw [view, core_updCore_other _ _ hj, view]

variable (hv : Core.KeptAtRetire v) (s : State)
include hv

theorem view_updThr (t : Nat) (f : Thread → Thread) : (s.updThr t f).view v = s.view v :=
  view_updCore s _ fun c => hv c _ c.mx c.q c.comm

/-! ## Gangs and faults (R103, R335) -/

theorem view_breakGang (l : Nat) : (s.breakGang l).view v = s.view v := by
  rw [breakGang, view_updThr hv, foldl_keeps (view v) fun _ _ => view_updThr hv ..]

theorem view_endGang (l : Nat) : (s.endGang l).view v = s.view v := by
  rw [endGang, view_updThr hv, foldl_keeps (view v) fun _ _ => view_updThr hv ..]

theorem view_memberDone (t : Nat) (trapped : Bool) : (s.memberDone t trapped).view v = s.view v := by
  unfold memberDone
  dsimp only
  repeat' split
  all_goals simp only [view_updThr hv, view_breakGang hv, view_endGang hv]

theorem view_dropMatrix (t : Nat) : (s.dropMatrix t).view v = s.view v := by
  have hdrop (p : Prop) [Decidable p] : (if p then s.updCore (t / 64) fun c => c.dropMatrix (t % 64) else s).view v = s.view v := by
    split
    · exact view_updCore s _ fun c => hv c _ _ _ c.comm
    · rfl
  unfold dropMatrix
  dsimp only
  split
  · exact Eq.trans (view_updCore _ _ fun c => hv c c.threads _ c.q c.comm) (hdrop _)
  · exact hdrop _

/-- A fault that is no kill: a kill also writes the thread's registers to zero (R340). -/
theorem view_finishFault (t : Nat) {f : FaultRec} (hk : f.kill = false) : (s.finishFault t f).view v = s.view v := by
  have hidle (u : State) : (u.updCore (t / 64) fun c => { c with comm := c.comm.idle }).view v = u.view v :=
    view_updCore u _ fun c => hv c c.threads c.mx c.q _
  unfold finishFault
  simp only [hk, Bool.false_eq_true, if_false]
  split
  · exact (view_updThr hv (s.dropMatrix t) t fun _ => Thread.reset (t % 64)).trans (view_dropMatrix hv ..)
  · have htrace (x : TraceItem) : ((s.dropMatrix t).trace x).view v = s.view v :=
      (view_of_cores (trace_cores ..)).trans (view_dropMatrix hv ..)
    rw [view_memberDone hv, sendFault, view_of_cores (send_cores ..)]
    split
    · rw [hidle, view_updThr hv, htrace]
    · rw [view_updThr hv, htrace]

theorem view_takeFault (t : Nat) {f : FaultRec} (hk : f.kill = false) : (s.takeFault t f).view v = s.view v := by
  unfold takeFault
  dsimp only
  split
  · rw [view_updThr hv, view_dropMatrix hv]
  · rw [view_finishFault hv _ _ hk, view_dropMatrix hv]

/-! ## The end of a wait (R40, R64, R404) -/

theorem view_entryFault (t : Nat) (pc : Word32) {f : FaultRec} (hk : f.kill = false) : (s.entryFault t pc f).view v = s.view v := by
  rw [entryFault, view_takeFault hv _ _ hk, view_updThr hv]

theorem view_enterLine (t : Nat) (pc : Word32) : (s.enterLine t pc).view v = s.view v := by
  have hnext (u : State) (n : Nat) : view v { u with nextId := n } = u.view v := rfl
  rw [enterLine, hnext, view_updThr hv]

theorem view_goTo (t : Nat) (npc : Word) : (s.goTo t npc).view v = s.view v := by
  unfold goTo
  dsimp only
  repeat' split
  · exact view_entryFault hv _ _ _ rfl
  · exact view_entryFault hv _ _ _ rfl
  · exact view_entryFault hv _ _ _ rfl
  · exact view_updThr hv ..
  · exact view_enterLine hv ..
  · exact view_enterLine hv ..

theorem view_retire (t : Nat) : (s.retire t).view v = s.view v := by
  unfold retire
  dsimp only
  repeat' split
  · rfl
  · rw [view_memberDone hv, view_updThr hv]
  · rw [view_memberDone hv, view_goTo hv, view_updThr hv]

theorem view_doneWaiting (t : Nat) (w : Wait) : (s.doneWaiting t w).view v = s.view v := by
  rw [doneWaiting, view_retire hv, view_updThr hv]

end

/-! ## The last piece of an LD (R124) -/

/-- The general register files. -/
theorem keptAtRetire_gfile : Core.KeptAtRetire Core.gfile := fun _ _ _ _ _ => rfl

theorem gfile_doneWaiting (s : State) (t : Nat) (w : Wait) (k : Nat) : ((s.doneWaiting t w).core k).gfile = (s.core k).gfile :=
  congrFun (view_doneWaiting keptAtRetire_gfile s t w) k

theorem thr_putReg_g (s : State) (t i : Nat) (w : VWord) : (s.putReg t (.g i) w).thr t = (s.thr t).clearMark (.g i) := by
  rw [← thr_putG s t t i (w.setWidth 64)]
  exact thr_updThr_same ..

/-- A load with its last piece. -/
def lastPiece (o : MemOp) (part : Nat) (d : List Byte) (bad : Option (Bool × Word)) : MemOp :=
  { o with left := 0, got := FMap.set o.got part d, badWord := o.badWord.or bad }

/-- The state in which access n has been performed. -/
def dropFlight (s : State) (n : Nat) : State := { s with flight := s.flight.filter fun b => b.id != n }

theorem loadPiece_last {s : State} {a : Access} {o : MemOp} (ho : s.ops.find? (fun x => x.id == a.op) = some o) (hleft : o.left = 1)
    (d : List Byte) (bad : Option (Bool × Word)) :
    s.loadPiece a d bad = (s.dropFlight a.id).loadDone (lastPiece o a.part d bad) := by
  simp only [loadPiece, ho, hleft, Nat.sub_self, if_true]
  rfl

/-- The state in which operation n is over. -/
def dropOp (s : State) (n : Nat) : State := { s with ops := s.ops.filter fun x => x.id != n }

/-- A completed load whose words were good is delivered, and the thread that waits for it goes on. -/
theorem loadDone_delivered {s u : State} {o : MemOp} (hgood : o.badWord = none) (hload : (s.dropOp o.id).deliverLoad o = (none, u))
    (hhalt : (u.thr o.thr).halting = none) : s.loadDone o = u.replied o.thr o.id o.acqSys := by
  rw [dropOp] at hload
  simp only [loadDone, hgood, hload, hhalt, Option.isSome_none, Bool.false_eq_true, if_false]

/-- The value of an LD, of the type that it names, is put into its register at once where the thread has no other half to wait for (R404). -/
theorem deliverLoad_ld {s : State} {o : MemOp} {ty : IntTy} {x : Nat} (hwhat : o.what = .ld ty x)
    (hw : (s.thr o.thr).withheld = none) (hh : (s.thr o.thr).holding = none) :
    s.deliverLoad o = (none, s.putReg o.thr (.g x) ((ext (leNat (opBytes o)) ty).setWidth 4096)) := by
  simp only [deliverLoad, hwhat, deliver_atOnce hw hh]

theorem gfile_loadDone_ld {s : State} {o : MemOp} {ty : IntTy} {x : Nat} (hwhat : o.what = .ld ty x) (hgood : o.badWord = none)
    (hacq : o.acqSys = false) (hw : (s.thr o.thr).withheld = none) (hh : (s.thr o.thr).holding = none)
    (hhalt : (s.thr o.thr).halting = none) : FMap.get 0 ((s.loadDone o).core (o.thr / 64)).gfile ((s.thr o.thr).gbase * 8 + x) =
      ext (leNat (opBytes o)) ty := by
  have hload := deliverLoad_ld (s := s.dropOp o.id) hwhat hw hh
  have hput := gfile_putReg_g (s.dropOp o.id) o.thr x ((ext (leNat (opBytes o)) ty).setWidth 4096)
  rw [loadDone_delivered hgood hload (by rw [thr_putReg_g]; exact hhalt), hacq, replied, if_neg Bool.false_ne_true, gfile_doneWaiting, hput,
    BitVec.setWidth_setWidth_of_le _ (by decide), BitVec.setWidth_eq]
  exact FMap.get_set_same ..

/-- What is read of a memory: its bytes, with no effect. -/
theorem read_memory (s : State) {p : Place} (h : ∀ c o, p ≠ .csr c o ∧ p ≠ .acc c o) (n : Nat) :
    s.readPlace p n = s.readMem p n ∧ s.readEffect p = s := by
  cases p with
  | csr c o => exact absurd rfl (h c o).1
  | acc c o => exact absurd rfl (h c o).2
  | _ => exact ⟨rfl, rfl⟩

end State

end Sys2Proof.Machine

namespace Sys2Proof.Claim.MemoryEvent

open Sys2Proof Sys2Proof.Machine Sys2Proof.Machine.State

variable {s : State} {a : Access}

/-! ## Port acceptance (R147, R149) -/

section
variable (hf : s.issued.find? (fun b => b.id == s.subj) = some a) (hok : s.acceptable a = true)
include hf hok

theorem port_accepts_here (hp : a.place.isRemote = false) : exec .portAcceptance s =
    .next (({ s with issued := s.issued.filter (fun b => b.id != a.id), flight := s.flight ++ [a] } : State).accepted a) := by
  refine happen_some (o := occPortAcceptance s) ?_
  simp only [occPortAcceptance, hf, hok, Bool.not_true, Bool.false_eq_true, if_false]
  split
  · next hg => simp [hg, Place.isRemote] at hp
  · rfl

theorem port_accepts_remote {g : Nat} {n : Nat × List Nat} (hp : a.place = .remote g) (hpresent : s.isPresent (State.pkgOf g) = true)
    (hroute : s.route a g = some n) :
    let t := ({ s with issued := s.issued.filter fun b => b.id != a.id } : State).enqueue n (State.pkgOf g) a.ord (accessMsg (s.srcOf a) a g)
    exec .portAcceptance s = .next (({ t with flight := t.flight ++ [{ a with via := some n }] } : State).accepted a) := by
  intro t
  refine happen_some (o := occPortAcceptance s) ?_
  simp only [occPortAcceptance, hf, hok, hp, hpresent, hroute, Bool.not_true, Bool.false_eq_true, if_false]
  rfl

end

/-! ## Stores at their banks (R147, R317) -/

section
variable (hf : s.flight.find? (fun b => b.id == s.subj) = some a) (hready : s.bankReady a = true) (hans : a.ans = none) {d : List Byte}
include hf hready hans

theorem bank_writes_store (hk : a.kind = .store d) (hp : a.place.isRemote = false) (hc : ∀ c o, a.place ≠ .csr c o) :
    exec .bankAcknowledgement s = .next (((s.writeMem a.place d).heal a.pkt).storeDone a) := by
  refine happen_some (o := occBankAcknowledgement s) ?_
  simp only [occBankAcknowledgement, hf, hk, hready, hans, Option.isNone_none, Bool.and_true, if_true]
  cases hplace : a.place with
  | csr c o => exact absurd hplace (hc c o)
  | remote g => simp [hplace, Place.isRemote] at hp
  | _ => rfl

theorem bank_writes_masked {d : List (Option Byte)} (hk : a.kind = .masked d) (hp : a.place.isRemote = false) :
    exec .bankAcknowledgement s = .next (((s.writeMasked a.place d).heal a.pkt).storeDone a) := by
  refine happen_some (o := occBankAcknowledgement s) ?_
  simp only [occBankAcknowledgement, hf, hk, hready, hans, Option.isNone_none, Bool.and_true, if_true]
  cases hplace : a.place with
  | remote g => simp [hplace, Place.isRemote] at hp
  | _ => rfl

theorem window_writes_register {c o : Nat} (hk : a.kind = .store d) (hp : a.place = .csr c o) :
    exec .windowRegisterWrite s = .next ((s.windowCsr a c o (BitVec.ofNat 64 (leNat d))).storeDone a) := by
  refine happen_some (o := occWindowRegisterWrite s) ?_
  simp only [occWindowRegisterWrite, hf, hk, hp, hready, hans, Option.isNone_none, Bool.and_true, if_true]

end

/-! ## Acknowledgements that arrive (R147) -/

section
variable {i : NetItem} (hi : s.netHere s.subj = some i) {l : Loc} {id : Nat}
include hi

theorem routeAck_reaches (hm : i.msg = .routeAck l id) : exec .routeAcknowledgement s =
    .next { s.netDrop i.id with flight := s.flight.map fun b => if b.id = id then { b with routeAck := true } else b } := by
  refine happen_some (o := occRouteAcknowledgement s) ?_
  simp only [occRouteAcknowledgement, hi, hm]
  rfl

theorem bankAck_reaches (hm : i.msg = .bankAck l id) (hnone : s.flight.find? (fun b => b.id == s.subj) = none)
    (hnet : s.net.find? (fun j => j.id == s.subj) = some i) (hf : s.flight.find? (fun b => b.id == id) = some a) :
    exec .bankAcknowledgement s = .next ((s.netDrop i.id).acked a) := by
  have hdst : l.pkg = s.pkg := by
    have h := List.find?_some hi
    simp only [hm, msgDst, Bool.and_eq_true, beq_iff_eq] at h
    exact h.2
  have hf' : (s.netDrop i.id).flight.find? (fun b => b.id == id) = some a := hf
  refine happen_some (o := occBankAcknowledgement s) ?_
  simp only [occBankAcknowledgement, hnone, hnet, hm, hdst, hf', ne_eq, not_true, if_false]

end

/-! ## Loads at their banks (R124, R340) -/

section
variable {n : Nat} (hf : s.flight.find? (fun b => b.id == s.subj) = some a) (hk : a.kind = .load n) (hp : a.place.isRemote = false)
  (hready : s.bankReady a = true)
include hf hk hp hready

theorem load_answers_thread {t : Nat} (hb : a.back = none) (ht : a.thr = some t) : exec .loadReply s =
    .next ((s.readEffect a.place).loadPiece a (s.readPlace a.place n) (s.badAt a.va a.place n)) := by
  refine happen_some (o := occLoadReply s) ?_
  simp only [occLoadReply, hf, hk, hready, hb, ht, Bool.not_true, Bool.false_eq_true, if_false]
  cases hplace : a.place with
  | remote g => simp [hplace, Place.isRemote] at hp
  | _ => rfl

theorem load_answers_package {l : Loc} {id : Nat} (hb : a.back = some (l, id)) (hgood : s.badMem a.place n = none) : exec .loadReply s =
    .next (({ s.readEffect a.place with flight := (s.readEffect a.place).flight.filter fun b => b.id != a.id } : State).post l.pkg
      (.copyData l id ((s.readPlace a.place n).take n) none)) := by
  refine happen_some (o := occLoadReply s) ?_
  simp only [occLoadReply, hf, hk, hready, hb, Bool.not_true, Bool.false_eq_true, if_false]
  cases hplace : a.place with
  | remote g => simp [hplace, Place.isRemote] at hp
  | _ =>
    rw [hplace] at hgood
    simp only [hgood]
    rfl

end

theorem ld_writes_register {t n : Nat} {o : MemOp} {ty : IntTy} {x : Nat} (hf : s.flight.find? (fun b => b.id == s.subj) = some a)
    (hk : a.kind = .load n) (hp : a.place.isRemote = false) (hready : s.bankReady a = true) (hb : a.back = none) (ht : a.thr = some t)
    (hplace : ∀ c p, a.place ≠ .csr c p ∧ a.place ≠ .acc c p) (hgood : s.badMem a.place n = none)
    (ho : s.ops.find? (fun o => o.id == a.op) = some o) (hwhat : o.what = .ld ty x) (hleft : o.left = 1) (hbad : o.badWord = none)
    (hacq : o.acqSys = false) (hthr : o.thr = t) (hgot : o.got = []) (hw : (s.thr t).withheld = none) (hh : (s.thr t).holding = none)
    (hhalt : (s.thr t).halting = none) : ∃ t' : State, exec .loadReply s = .next t' ∧
      FMap.get 0 (t'.core (t / 64)).gfile ((s.thr t).gbase * 8 + x) = ext (leNat (s.readMem a.place n)) ty := by
  obtain ⟨hread, heffect⟩ := s.read_memory hplace n
  subst hthr
  refine ⟨_, load_answers_thread hf hk hp hready hb ht, ?_⟩
  rw [hread, heffect, loadPiece_last ho hleft]
  refine (gfile_loadDone_ld (s := s.dropFlight a.id) (o := lastPiece ..) hwhat (by simp [lastPiece, hbad, badAt, hgood]) hacq hw hh
    hhalt).trans ?_
  simp [opBytes, lastPiece, hgot, FMap.set]

end Sys2Proof.Claim.MemoryEvent

namespace Sys2Proof.Claim

open Sys2Proof Sys2Proof.Machine Sys2Proof.Machine.State MemoryEvent

theorem storesReachTheirBanks : StoresReachTheirBanks := fun _ _ =>
  ⟨fun hf hok => ⟨port_accepts_here hf hok, fun _ _ => port_accepts_remote hf hok⟩,
    fun hf hready => ⟨fun _ hans => bank_writes_store hf hready hans, fun _ hans => bank_writes_masked hf hready hans,
      fun _ _ _ hans => window_writes_register hf hready hans⟩,
    fun _ hi => ⟨fun _ _ => routeAck_reaches hi, fun _ _ => bankAck_reaches hi⟩⟩

theorem loadsReply : LoadsReply := fun _ _ _ hf hk hp hready =>
  ⟨fun _ => load_answers_thread hf hk hp hready, fun _ _ => load_answers_package hf hk hp hready,
    fun _ _ _ _ hb ht _ => ld_writes_register hf hk hp hready hb ht⟩

/-- Settles O40: stores and loads at the port, at their banks and as they are answered. -/
theorem accessesReachTheirBanks : Obligations.AccessesReachTheirBanks := ⟨storesReachTheirBanks, loadsReply⟩

end Sys2Proof.Claim
end

section
/-! PROOFS. Stream registers are bound, freed and read, and fetch; channels pass their slots on (R132 to R139). -/

namespace Sys2Proof.Machine

open Sys2Proof

namespace State

variable {s : State}

/-! ## SBIND, SFREE and SSTAT (R137) -/

/-- What SBIND needs: no store still to be accepted, and an aligned descriptor at ad in ULM that may be read now, is good and describes the
stream d. -/
structure BindsTo (s : State) (q : QReg) (ad : Word) (d : StreamDesc) : Prop where
  unbound : FMap.find? s.rd.q q.toNat = none
  stores : s.waits s.storesUnaccepted = false
  aligned : ad.toNat % 64 = 0
  inside : ad.toNat + 64 ≤ 0x28000
  port : s.ulmWaits = false
  good : (s.ulmBlock ad.toNat 64).2 = none
  desc : parseStream (s.ulmBlock ad.toNat 64).1 (decide (q.toNat < 4)) = some d

/-- Stream register q of the executing thread's core is bound to it, at position 0 of the stream d. -/
def bindTo (s : State) (q : QReg) (d : StreamDesc) : State :=
  ({ s with nextId := s.nextId + 1 } : State).updCore s.ck fun c =>
    { c with q := FMap.set c.q q.toNat { thread := s.cur % 64, desc := d, pos := 0, tail := 0, fetched := [], lent := [], bound := s.nextId } }

/-! ## Stream registers after an update -/

/-- Stream register q of core k holds st. -/
def putStream (s : State) (k q : Nat) (st : Stream) : State := s.updCore k fun c => { c with q := FMap.set c.q q st }

theorem find?_putStream_same (k q : Nat) (st : Stream) : FMap.find? ((s.putStream k q st).core k).q q = some st := by
  rw [putStream, core_updCore_same]
  exact FMap.find?_set_same ..

theorem find?_putStream_other {k q j n : Nat} (st : Stream) (h : ¬(j = k ∧ n = q)) :
    FMap.find? ((s.putStream k q st).core j).q n = FMap.find? (s.core j).q n := by
  by_cases hj : j = k
  · rw [hj, putStream, core_updCore_same]
    exact FMap.find?_set_other _ _ fun hn => h ⟨hj, hn⟩
  · rw [putStream, core_updCore_other _ _ hj]

theorem ulm_putStream (k q j : Nat) (st : Stream) : ((s.putStream k q st).core j).ulm = (s.core j).ulm := by
  by_cases hj : j = k
  · rw [hj, putStream, core_updCore_same]
  · rw [putStream, core_updCore_other _ _ hj]

theorem q_writeMem_ulm (k o j : Nat) (d : List Byte) : ((s.writeMem (.buf k .ulm o) d).core j).q = (s.core j).q := by
  by_cases hj : j = k
  · rw [hj, writeMem, core_updCore_same]
    rfl
  · rw [writeMem, core_updCore_other _ _ hj]

theorem ulm_writeMem (k o : Nat) (d : List Byte) : ((s.writeMem (.buf k .ulm o) d).core k).ulm = (s.core k).ulm.write o d := by
  rw [writeMem, core_updCore_same]
  rfl

/-- Updates that agree on the core as it stands give the same state. -/
theorem updCore_congr {k : Nat} {f g : Core → Core} (h : f (s.core k) = g (s.core k)) : s.updCore k f = s.updCore k g :=
  congrArg (s.setCore k) h

end State

end Sys2Proof.Machine

namespace Sys2Proof.Claim.StreamForm

open Sys2Proof Sys2Proof.Machine Sys2Proof.Machine.State

variable {s : State} {q : QReg} {a b : GReg} {m : MReg}

theorem exec_sbind : exec (.sbind q b) s = execSbind q b s := rfl

theorem exec_sfree : exec (.sfree q) s = execSfree q s := rfl

theorem exec_sstatMask : exec (.sstatMask m q) s = execSstatMask m q s := rfl

theorem exec_sstatPosition : exec (.sstatPosition a q) s = execSstatPosition a q s := rfl

theorem sbind_binds {d : StreamDesc} (hr : Ready s (.sbind q b)) (h : BindsTo s q (s.rdG b) d) :
    exec (.sbind q b) s = .next (bindTo s q d) := by
  have hinside : ¬0x27FFF < (s.rdG b).toNat + 63 := by have := h.inside; omega
  refine (exec_sbind ..).trans (performK_done hr rfl rfl ?_)
  obtain ⟨block, bad, hblock⟩ : ∃ l w, s.ulmBlock (s.rdG b).toNat 64 = (l, w) := ⟨_, _, rfl⟩
  have hgood : bad = none := (congrArg Prod.snd hblock).symm.trans h.good
  have hdesc : parseStream block (decide (q.toNat < 4)) = some d := by rw [← h.desc, hblock]
  simp only [h.unbound, h.stores, h.aligned, hinside, h.port, hblock, hgood, hdesc, Option.isSome_none, Bool.false_eq_true, ne_eq,
    not_true, if_false]
  rfl

section
variable {st : Machine.Stream} (hst : s.stream q.toNat = some st)
include hst

theorem sfree_unbinds (hr : Ready s (.sfree q)) (h : q.toNat < 4 ∨ s.writesDone q.toNat st = true) :
    exec (.sfree q) s = .next (s.unbind s.ck q.toNat) := by
  have hwait : s.waits (decide (4 ≤ q.toNat) && !s.writesDone q.toNat st) = false := by
    rcases h with h | h
    · simp [waits, Nat.not_le.2 h]
    · simp [waits, h]
  refine (exec_sfree ..).trans (performK_done hr rfl rfl ?_)
  simp only [hst, hwait, Bool.false_eq_true, if_false]

theorem sstatMask_reads (hr : Ready s (.sstatMask m q)) : exec (.sstatMask m q) s = .next (s.putM s.cur m.toNat st.tail) := by
  refine (exec_sstatMask ..).trans (performK_done hr rfl rfl ?_)
  simp only [hst]

theorem sstatPosition_reads (hr : Ready s (.sstatPosition a q)) : exec (.sstatPosition a q) s = .next (s.wrG a
    (BitVec.ofNat 64 ((st.desc.len).getD 0xFFFFFFFF % 2 ^ 32 * 2 ^ 32 + st.pos % 2 ^ 32))) := by
  refine (exec_sstatPosition ..).trans (performK_done hr rfl rfl ?_)
  simp only [hst]

end

/-! ## Fetching and publishing (R119, R136, R139) -/

section
variable {st : Machine.Stream} (hst : FMap.find? (s.core (s.subj / 8)).q (s.subj % 8) = some st)
include hst

theorem stream_fetches (hmay : s.mayFetch (s.subj / 8) st = true) :
    let v := s.streamVector (s.subj / 8) st (st.pos + st.ahead)
    let t := match v.1.fault with
      | some r => s.logOutside r.faddr (s.core (s.subj / 8)).tenant (s.loc (s.subj / 8 * 64 + st.thread)) v.2
      | none => s
    exec .streamVectorFetch s = .next ((t.putStream (s.subj / 8) (s.subj % 8) { st with fetched := st.fetched ++ [v.1] }).mxFeed
      (s.subj / 8) (s.subj % 8)) := by
  intro v t
  refine happen_some (o := occStreamVectorFetch s) ?_
  simp only [occStreamVectorFetch, hst, hmay, Bool.not_true, Bool.false_eq_true, if_false]
  rfl

section
variable {k kq size allow ring pub un src sq z al rg vis rd part : Nat} {fl d : List Byte} {r : List (List Byte)} {i : Machine.Stream}
  (hd : st.desc = .chanOut k kq size allow ring fl (d :: r) pub un) (hi : FMap.find? (s.core k).q kq = some i)
  (hin : i.desc = .chanIn src sq z al rg vis rd part)
include hd hi hin

/-- The two ends of a channel are different stream registers. -/
theorem ends_apart : ¬(k = s.subj / 8 ∧ kq = s.subj % 8) := by
  rintro ⟨rfl, rfl⟩
  rw [Option.some.inj (hi.symm.trans hst), hd] at hin
  exact StreamDesc.noConfusion hin

/-- A full slot leaves its source, is written to the ring of its sink core, and is counted at the sink. -/
theorem slot_published : exec .channelSlotPublish s = .next (((s.putStream (s.subj / 8) (s.subj % 8)
    { st with desc := .chanOut k kq size allow ring fl r (pub + 1) un }).writeMem (.buf k .ulm (ring + pub % allow * size)) d).putStream k kq
      { i with desc := .chanIn src sq z al rg (vis + 1) rd part }) := by
  refine happen_some (o := occChannelSlotPublish s) ?_
  simp only [occChannelSlotPublish, hst, hd]
  refine congrArg some (updCore_congr ?_)
  have hsink : FMap.find? (((s.putStream (s.subj / 8) (s.subj % 8)
      { st with desc := .chanOut k kq size allow ring fl r (pub + 1) un }).writeMem (.buf k .ulm (ring + pub % allow * size)) d).core k).q kq =
      some i := by
    rw [q_writeMem_ulm, find?_putStream_other _ (ends_apart hst hd hi hin), hi]
  rw [putStream] at hsink
  simp only [hsink, hin]

theorem slot_publishes (hok : s.memOk) : ∃ t : State, exec .channelSlotPublish s = .next t ∧
    (t.core k).ulm.read (ring + pub % allow * size) d.length = d ∧
    (FMap.find? (t.core k).q kq).map (·.desc) = some (.chanIn src sq z al rg (vis + 1) rd part) ∧
    (FMap.find? (t.core (s.subj / 8)).q (s.subj % 8)).map (·.desc) = some (.chanOut k kq size allow ring fl r (pub + 1) un) := by
  have hapart := ends_apart hst hd hi hin
  have hwf : (s.core k).ulm.wf := ((Core.memOk_iff _).1 (memOk_core hok k)).1
  refine ⟨_, slot_published hst hd hi hin, ?_, ?_, ?_⟩
  · rw [ulm_putStream, ulm_writeMem, ulm_putStream, Mem.read_write hwf]
  · rw [find?_putStream_same]
    rfl
  · rw [find?_putStream_other _ fun h => hapart ⟨h.1.symm, h.2.symm⟩, q_writeMem_ulm, find?_putStream_same]
    rfl

end

end

end Sys2Proof.Claim.StreamForm

namespace Sys2Proof.Claim

open Sys2Proof Sys2Proof.Machine Sys2Proof.Machine.State StreamForm

theorem streamsComplete : StreamsComplete := fun _ _ _ _ _ =>
  ⟨fun _ hr hq hs ha hin hp hg hd => sbind_binds hr ⟨hq, hs, ha, hin, hp, hg, hd⟩,
    fun _ hst => ⟨sfree_unbinds hst, sstatMask_reads hst, sstatPosition_reads hst⟩⟩

theorem streamEvents : StreamEvents := fun _ _ hst =>
  ⟨stream_fetches hst, fun _ _ _ _ _ _ _ _ _ _ _ _ _ _ _ _ _ _ _ hok hd hi hin => slot_publishes hst hd hi hin hok⟩

/-- Settles O30: the forms by what they do to the stream register, the events by its next vector and by the two ends of a channel. -/
theorem streamInstructionsComplete : Obligations.StreamInstructionsComplete := ⟨streamsComplete, streamEvents⟩

end Sys2Proof.Claim
end

section
/-! PROOFS. FENCE goes on once the earlier accesses of its thread are done (R146). -/

namespace Sys2Proof.Claim

open Sys2Proof Sys2Proof.Machine Sys2Proof.Machine.State

theorem exec_fence (s : State) (sc : Scope) : exec (.fence sc) s = performK s (.fence sc) fun u =>
    if u.waits (decide (u.relaxedOps u.cur ≠ 0) || !u.storesAcked u.cur u.issuePlace sc) then .stop u.again
    else .done (if sc = .sys then u.park u.cur (.horizon none) else u) := rfl

/-- Settles O16: neither reason to wait is there, so that the effect is done. -/
theorem fenceCompletes : Obligations.FenceCompletes := by
  intro s sc hr hops hacked
  have hgo : s.waits (decide (s.relaxedOps s.cur ≠ 0) || !s.storesAcked s.cur s.issuePlace sc) = false := by
    simp [waits, hops, hacked]
  exact (exec_fence ..).trans (performK_done hr rfl rfl (if_neg (Bool.eq_false_iff.1 hgo)))

end Sys2Proof.Claim
end

section
/-! PROOFS. Segments, keys and packets pass over the link ports (R147, R301 to R303, R314 to R318). -/

namespace Sys2Proof.Machine

open Sys2Proof

/-- The segment that repeats the failed segment u, whose counter value was ctr, over port n of package pkg (R317). -/
def Port.repetition (p : Port) (pkg n : Nat) (u : Segment) (ctr : Nat) : Segment :=
  { ctr := p.segctr, nonce := segNonce pkg n p.segctr, key := p.key, first := p.first, tagOk := true, packets := u.packets
    part := u.part, again := some ctr, confirm := [] }

/-- What a port keeps to be confirmed, beyond what it kept before it sent a repetition, is the repetition. -/
theorem Port.sendSegment_unconfirmed_drop (p : Port) (pkg n : Nat) (u : Segment) (ctr : Nat) :
    (p.sendSegment pkg n u.packets u.part (some ctr)).unconfirmed.drop p.unconfirmed.length = [p.repetition pkg n u ctr] :=
  List.drop_left

/-- The order of a port's segments with e in it for the segment g: in the place of the failed one that g repeats, or behind the others
(R317). -/
def orderWith (g : Segment) (e : Nat × Option Segment) (o : List (Nat × Option Segment)) : List (Nat × Option Segment) :=
  match g.again with
  | some c => if o.any fun x => x.1 == c then o.map fun x => if x.1 = c then e else x else o ++ [e]
  | none => o ++ [e]

@[simp] theorem orderWith_nil (g : Segment) (e : Nat × Option Segment) : orderWith g e [] = [e] := by
  unfold orderWith
  cases g.again <;> rfl

namespace State

variable {s : State} {n : Nat} {seg : Segment}

theorem tagChecks_eq (s : State) (n : Nat) (g : Segment) : s.tagChecks n g =
    (s.updPort n fun p => { p with failures := 0, order := orderWith g (g.ctr, some g) p.order }).releaseOrdered n := rfl

theorem tagFails_eq (s : State) (n : Nat) (g : Segment) : s.tagFails n g =
    if 3 ≤ (s.port n).failures + 1 then (s.addOut (.portDown n)).portFails n
    else (s.updPort n fun p => { p with failures := p.failures + 1, order := orderWith g (g.ctr, none) p.order }).addOut
      (.retransmit n g.ctr) := rfl

theorem updPort_congr {f g : Port → Port} (h : f (s.port n) = g (s.port n)) : s.updPort n f = s.updPort n g := by
  rw [updPort, updPort, h]

@[simp] theorem port_tracePorts (old : State) (m : Nat) : (s.tracePorts old).port m = s.port m := by
  rw [port, tracePorts_ports, port]

@[simp] theorem port_addOut (o : Output) (m : Nat) : (s.addOut o).port m = s.port m := rfl

theorem writeMem_ingress (p : Place) (d : List Byte) : (s.writeMem p d).ingress = s.ingress := by cases p <;> rfl

theorem writeMem_ports (p : Place) (d : List Byte) : (s.writeMem p d).ports = s.ports := by cases p <;> rfl

/-! ## The ingress (R147, R303) -/

/-- What stands at the ingress, without the numbers of the items: port, packet, and the counter of a segment still to check. -/
def arrivals (s : State) : List (Nat × Packet × Option Nat) := s.ingress.map fun i => (i.port, i.pkt, i.unchecked)

theorem arrivals_toIngress (ks : List Packet) (c : Option Nat) :
    (s.toIngress n ks c).arrivals = s.arrivals ++ ks.map fun k => (n, k, c) := by
  induction ks generalizing s with
  | nil => simp [toIngress]
  | cons k r ih =>
    rw [toIngress, List.foldl_cons, ← toIngress, ih]
    simp [arrivals]

/-- Packets that are given to the ingress change nothing else but the next number. -/
theorem toIngress_eq (ks : List Packet) (c : Option Nat) :
    s.toIngress n ks c = { s with ingress := (s.toIngress n ks c).ingress, nextId := (s.toIngress n ks c).nextId } := by
  induction ks generalizing s with
  | nil => rfl
  | cons k r ih => exact ih

@[simp] theorem toIngress_out (ks : List Packet) (c : Option Nat) : (s.toIngress n ks c).out = s.out := by rw [toIngress_eq]

@[simp] theorem port_toIngress (ks : List Packet) (c : Option Nat) (m : Nat) : (s.toIngress n ks c).port m = s.port m := by
  rw [toIngress_eq]
  rfl

@[simp] theorem core_toIngress (ks : List Packet) (c : Option Nat) (k : Nat) : (s.toIngress n ks c).core k = s.core k := by
  rw [toIngress_eq]
  rfl

/-- The room of a packet that is given back changes the outputs alone. -/
theorem returnCredit_eq (i : IngressItem) : s.returnCredit i = { s with out := (s.returnCredit i).out } := by
  unfold returnCredit
  split <;> rfl

@[simp] theorem returnCredit_nextId (i : IngressItem) : (s.returnCredit i).nextId = s.nextId := by rw [returnCredit_eq]

@[simp] theorem returnCredit_net (i : IngressItem) : (s.returnCredit i).net = s.net := by rw [returnCredit_eq]

/-! ## Segments (R316, R317) -/

/-- The packets of a segment that carries no part are released as they are. -/
theorem releaseSegment_whole (hpart : seg.part = none) :
    s.releaseSegment n seg = (s.toIngress n seg.packets none).addOut (.confirmed n seg.ctr) := by
  simp only [releaseSegment, hpart, List.append_nil]

/-- A segment that stands alone is released. -/
theorem releaseOrdered_single {c : Nat} (h : (s.port n).order = [(c, some seg)]) :
    s.releaseOrdered n = (s.updPort n fun p => { p with order := [] }).releaseSegment n seg := by
  simp [releaseOrdered, h]

/-- A segment that no missing one precedes is released at once. -/
theorem tagChecks_in_order (horder : (s.port n).order = []) : s.tagChecks n seg =
    ((s.updPort n fun p => { p with failures := 0, order := [(seg.ctr, some seg)] }).updPort n fun p => { p with order := [] }).releaseSegment
      n seg := by
  have hplaced : s.tagChecks n seg =
      (s.updPort n fun p => { p with failures := 0, order := [(seg.ctr, some seg)] }).releaseOrdered n := by
    refine (tagChecks_eq ..).trans (congrArg (releaseOrdered · n) (updPort_congr ?_))
    rw [horder, orderWith_nil]
  rw [hplaced, releaseOrdered_single (c := seg.ctr) (by rw [port_updPort_same])]

/-- The first failure after segments that were in order: the segment is asked for again, and is the first that is missing. -/
theorem tagFails_in_order (horder : (s.port n).order = []) (hfew : (s.port n).failures < 2) : s.tagFails n seg =
    (s.updPort n fun p => { p with failures := p.failures + 1, order := [(seg.ctr, none)] }).addOut (.retransmit n seg.ctr) := by
  have hstays : ¬3 ≤ (s.port n).failures + 1 := by omega
  refine ((tagFails_eq ..).trans (if_neg hstays)).trans (congrArg (addOut · _) (updPort_congr ?_))
  rw [horder, orderWith_nil]

/-! ## Payloads that are written before their tag has checked (R316) -/

/-- What neither a write of memory nor a note of one at the port changes is as it was. -/
theorem writeEarly_keeps {α : Type} (v : State → α) (hmem : ∀ t p d, v (writeMem t p d) = v t)
    (hnote : ∀ t l, v (updPort t n fun p => { p with early := p.early ++ l }) = v t) : v (s.writeEarly n seg) = v s := by
  refine List.foldlRecOn (motive := fun x : State × List Packet => v x.1 = v s) _ _ rfl fun x hx e _ => ?_
  rw [hnote]
  exact List.foldlRecOn (motive := fun t : State => v t = v s) _ _ hx fun t ht y _ => (hmem ..).trans ht

theorem arrivals_writeEarly : (s.writeEarly n seg).arrivals = s.arrivals :=
  writeEarly_keeps arrivals (fun _ p d => congrArg (List.map _) (writeMem_ingress p d)) fun _ _ => rfl

theorem checking_writeEarly : ((s.writeEarly n seg).port n).checking = (s.port n).checking :=
  writeEarly_keeps (fun t => (t.port n).checking) (fun t p d => by rw [port, writeMem_ports, port]) fun t l => by
    rw [port_updPort_same]

variable {k : Packet} {m : CMsg} {r : CommReg} {j : Nat}

/-- A collective message is written to the free slot that it will take. -/
theorem payloadWrites_cmsg (hm : k.msg = .cmsg m) (hr : s.commFor m = some r)
    (hj : (freeSlotsOf r m.rank)[s.msgsAhead m []]? = some j) :
    s.payloadWrites [] k none = [(.buf (locCore m.dst) .ulm (slotAt r m.rank j), slice m.data 0 (2 ^ 20))] := by
  simp only [payloadWrites, hm, hr, hj, partBytes, Option.bind_some, Option.map_some, Nat.add_zero, Nat.sub_zero]

theorem ulm_writeEarly_cmsg (hk : seg.packets = [k]) (hpart : seg.part = none) (hd : k.dst = s.pkg) (hm : k.msg = .cmsg m)
    (hr : s.commFor m = some r) (hj : (freeSlotsOf r m.rank)[s.msgsAhead m []]? = some j) :
    ((s.writeEarly n seg).core (locCore m.dst)).ulm =
      (s.core (locCore m.dst)).ulm.write (slotAt r m.rank j) (slice m.data 0 (2 ^ 20)) := by
  rw [← ulm_writeMem]
  simp only [writeEarly, hk, hpart, hd, payloadWrites_cmsg hm hr hj, List.map_cons, List.map_nil, Option.map_none, Option.toList_none,
    List.append_nil, List.foldl_cons, List.foldl_nil, if_true]
  rfl

end State

end Sys2Proof.Machine

namespace Sys2Proof.Claim.LinkEvent

open Sys2Proof Sys2Proof.Machine Sys2Proof.Machine.State

variable {s : State} {n ctr spare : Nat} {seg : Segment}

/-! ## Segments that arrive (R316, R317) -/

/-- Port n is UP, has no tag still to check and no segment missing, and the segment carries packets alone. -/
structure InOrder (s : State) (n : Nat) (seg : Segment) : Prop where
  up : (s.port n).st = .up
  checked : (s.port n).checking = []
  complete : (s.port n).order = []
  confirm : seg.confirm = []
  credit : seg.credit = []
  whole : seg.part = none

section
variable (h : InOrder s n seg)
include h

/-- What a segment that arrives in order does at a port that no longer has to check the tags of earlier ones. -/
theorem exec_segmentArrival : exec (.segmentArrival n seg) s =
    let u := s.updPort n fun p => { p with checking := [] }
    .next (if (s.port n).cut then ((u.updPort n fun p => { p with checking := [seg] }).writeEarly n seg).toIngress n
        (seg.packets.filter u.passedOn) (some seg.ctr)
      else if seg.tagOk then u.tagChecks n seg else u.tagFails n seg) := by
  have hquiet : ((s.checkTags n).confirmed n seg.confirm).credited n seg.credit = s.updPort n fun p => { p with checking := [] } := by
    rw [h.confirm, h.credit, checkTags, h.checked]
    rfl
  show execSegmentArrival n seg s = _
  simp only [execSegmentArrival, hquiet, h.up, h.complete, port_updPort_same]
  cases (s.port n).cut <;> cases seg.tagOk <;> rfl

theorem segment_released (hcut : (s.port n).cut = false) (htag : seg.tagOk = true) :
    ∃ t : State, exec (.segmentArrival n seg) s = .next t ∧ t.arrivals = s.arrivals ++ seg.packets.map (fun k => (n, k, none)) ∧
      (t.port n).failures = 0 ∧ (t.port n).order = [] ∧ t.out = s.out ++ [.confirmed n seg.ctr] := by
  refine ⟨_, exec_segmentArrival h, ?_⟩
  simp only [hcut, htag, Bool.false_eq_true, if_false, if_true]
  rw [tagChecks_in_order (by simp [h.complete]), releaseSegment_whole h.whole]
  exact ⟨arrivals_toIngress .., by simp, by simp, by simp [addOut]⟩

theorem segment_asked_again (hcut : (s.port n).cut = false) (htag : seg.tagOk = false) (hfew : (s.port n).failures < 2) :
    ∃ t : State, exec (.segmentArrival n seg) s = .next t ∧ t.ingress = s.ingress ∧
      (t.port n).failures = (s.port n).failures + 1 ∧ (t.port n).order.map (·.1) = [seg.ctr] ∧
      t.out = s.out ++ [.retransmit n seg.ctr] := by
  refine ⟨_, exec_segmentArrival h, ?_⟩
  simp only [hcut, htag, Bool.false_eq_true, if_false]
  rw [tagFails_in_order (by simp [h.complete]) (by simpa using hfew)]
  exact ⟨rfl, by simp, by simp, rfl⟩

theorem segment_cut_through (hcut : (s.port n).cut = true) :
    ∃ t : State, exec (.segmentArrival n seg) s = .next t ∧ (t.port n).checking = [seg] ∧
      t.arrivals = s.arrivals ++ (seg.packets.filter s.passedOn).map (fun k => (n, k, some seg.ctr)) ∧
      ∀ k m r j, seg.packets = [k] → k.dst = s.pkg → k.msg = .cmsg m → s.commFor m = some r →
        (State.freeSlotsOf r m.rank)[s.msgsAhead m []]? = some j →
        (t.core (locCore m.dst)).ulm = (s.core (locCore m.dst)).ulm.write (State.slotAt r m.rank j) (slice m.data 0 (2 ^ 20)) := by
  refine ⟨_, exec_segmentArrival h, ?_⟩
  simp only [hcut, if_true]
  refine ⟨?_, ?_, fun k m r j hk hd hm hr hj => ?_⟩
  · rw [port_toIngress, checking_writeEarly, port_updPort_same]
  · rw [arrivals_toIngress, arrivals_writeEarly]
    rfl
  · rw [core_toIngress]
    exact ulm_writeEarly_cmsg hk h.whole hd hm hr hj

end

/-! ## Segments that are asked for again (R317) -/

section
variable {u : Segment} (hu : (s.port n).unconfirmed.find? (fun u => u.ctr == ctr) = some u) (hfew : (s.port n).resends < 2)
  (hup : (s.port n).st = .up) (hleft : (s.port n).segctr < 2 ^ 48 - 1)
include hu hfew hup hleft

theorem exec_retransmitRequest : exec (.retransmitRequest n ctr) s = .next (s.updPort n fun p =>
    { p.sendSegment s.pkg n u.packets u.part (some ctr) with
      resends := p.resends + 1
      unconfirmed := p.unconfirmed.flatMap fun v => if v.ctr = ctr then [p.repetition s.pkg n u ctr] else [v] }) := by
  have hstays : ¬3 ≤ (s.port n).resends + 1 := by omega
  have hsends : (s.port n).st = .up ∧ (s.port n).segctr < segLast := ⟨hup, hleft⟩
  show execRetransmitRequest n ctr s = _
  simp only [execRetransmitRequest, hu, if_neg hstays, if_pos hsends, Port.sendSegment_unconfirmed_drop]
  rfl

theorem segment_sent_again : ∃ t : State, exec (.retransmitRequest n ctr) s = .next t ∧ (t.port n).segctr = (s.port n).segctr + 1 ∧
    ∃ w, (t.port n).wire = (s.port n).wire ++ [w] ∧ w.packets = u.packets ∧ w.part = u.part ∧ w.again = some ctr ∧
      w.ctr = (s.port n).segctr ∧ w.nonce = BitVec.ofNat 96 (s.pkg * 2 ^ 88 + n % 32 * 2 ^ 83 + (s.port n).segctr) ∧
      w.key = (s.port n).key ∧ w.tagOk = true ∧
      (t.port n).unconfirmed = (s.port n).unconfirmed.flatMap fun v => if v.ctr = ctr then [w] else [v] := by
  refine ⟨_, exec_retransmitRequest hu hfew hup hleft, ?_⟩
  rw [port_updPort_same]
  exact ⟨rfl, (s.port n).repetition s.pkg n u ctr, rfl, rfl, rfl, rfl, rfl, rfl, rfl, rfl, rfl⟩

end

/-! ## Keys and spares (R301, R314, R315) -/

theorem rekey_starts (hup : (s.port s.subj).st = .up) (hno : (s.port s.subj).rekey = false)
    (hat : 2 ^ 48 - 2 ^ 40 ≤ (s.port s.subj).segctr) :
    exec .rekeyStart s = .next (s.updPort s.subj fun p => { p with rekey := true }) := by
  have hdue : (s.port s.subj).st = .up ∧ (!(s.port s.subj).rekey) = true ∧ segRekey ≤ (s.port s.subj).segctr :=
    ⟨hup, by rw [hno]; rfl, hat⟩
  exact happen_some (o := occRekeyStart s) (if_pos hdue)

theorem port_stops (hup : (s.port s.subj).st = .up) (hlast : 2 ^ 48 - 1 ≤ (s.port s.subj).segctr) :
    exec .portStop s = .next (((s.updPort s.subj fun p => { p with st := .stopped }).tracePorts s).reroute s.subj) :=
  happen_some (o := occPortStop s) (if_pos ⟨hup, hlast⟩)

theorem key_brings_up (hst : (s.port s.subj).st ≠ .spare) (hn : s.subj < 32) :
    exec .keyExchangeComplete s = .next ((s.updPort s.subj fun p =>
      { p with st := .up, segctr := 0, key := p.key + 1, rekey := false, first := true, resends := 0 }).tracePorts s) :=
  happen_some (o := occKeyExchangeComplete s) (if_neg (by simp [hst, hn]))

theorem spare_takes_over (hdown : (s.port n).st = .down) (hspare : (s.port spare).st = .spare) :
    ∃ t : State, exec (.portSpareReplacement n spare) s = .next t ∧ (t.port n).st = .spare ∧ (t.port spare).st = .up ∧
      (t.port spare).prow = (s.port n).prow ∧ (t.port spare).pcol = (s.port n).pcol ∧ (t.port spare).segctr = 0 := by
  have hne : spare ≠ n := by
    rintro rfl
    rw [hdown] at hspare
    exact PortState.noConfusion hspare
  refine ⟨_, happen_some (o := occPortSpareReplacement n spare s) (if_neg (by simp [hdown, hspare])), ?_, ?_⟩
  · rw [port_tracePorts, port_updPort_same]
  · rw [port_tracePorts, port_updPort_other _ _ hne, port_updPort_same]
    exact ⟨rfl, rfl, rfl, rfl⟩

/-! ## The ingress (R147, R302, R303) -/

section
variable {i : IngressItem} (hi : s.ingress.find? (fun i => i.id == s.subj) = some i) (hready : s.ingressReady i = true)
include hi hready

theorem message_accepted (hd : i.pkt.dst = s.pkg) (hstore : ∀ src id g d o, i.pkt.msg ≠ .store src id g d o)
    (hmasked : ∀ src id g d, i.pkt.msg ≠ .masked src id g d) (hatomic : ∀ src id g o q p, i.pkt.msg ≠ .atomic src id g o q p)
    (hread : ∀ src id g m, i.pkt.msg ≠ .copyRead src id g m) :
    let taken := ({ s with ingress := s.ingress.filter fun j => j.id != i.id } : State).returnCredit i
    exec .stewynIngressAccept s = .next { taken with
      ingressSeq := s.ingressSeq + 1
      nextId := s.nextId + 1
      net := s.net ++ [{ id := s.nextId, msg := i.pkt.msg, ingress := some (i.port / 4, s.ingressSeq + 1), pkt := some (i.pkt.src, i.pkt.seq) }] } := by
  intro taken
  refine happen_some (o := occStewynIngressAccept s) ?_
  simp only [occStewynIngressAccept, hi, hready, hd, Bool.not_true, Bool.false_eq_true, if_false, ne_eq, not_true, returnCredit_nextId,
    returnCredit_net]
  cases hm : i.pkt.msg with
  | store src id g d o => exact absurd hm (hstore src id g d o)
  | masked src id g d => exact absurd hm (hmasked src id g d)
  | atomic src id g o q p => exact absurd hm (hatomic src id g o q p)
  | copyRead src id g m => exact absurd hm (hread src id g m)
  | _ => rfl

theorem store_accepted {src : Loc} {id g : Nat} {d : List Byte} {o : Bool} (hd : i.pkt.dst = s.pkg)
    (hm : i.pkt.msg = .store src id g d o) :
    let taken := ({ s with ingress := s.ingress.filter fun j => j.id != i.id } : State).returnCredit i
    let t := ({ taken with ingressSeq := s.ingressSeq + 1 } : State).ingressAccess i (s.ingressSeq + 1) src id g (.store d) o false
    exec .stewynIngressAccept s = .next (if i.unchecked.isSome then t else t.post src.pkg (.routeAck src id)) := by
  intro taken t
  refine happen_some (o := occStewynIngressAccept s) ?_
  simp only [occStewynIngressAccept, hi, hready, hd, hm, Bool.not_true, Bool.false_eq_true, if_false, ne_eq, not_true]
  rfl

theorem packet_passed_on {p : Nat} {way : List Nat} (hd : i.pkt.dst ≠ s.pkg) (hpresent : s.isPresent i.pkt.dst = true)
    (hway : s.nextHop i.pkt = some (p, way)) (hroom : s.hasRoom p i.pkt.msg = true) :
    let taken := ({ s with ingress := s.ingress.filter fun j => j.id != i.id } : State).returnCredit i
    exec .stewynIngressAccept s = .next (taken.updPort p fun q =>
      { q with queue := q.queue ++ [{ i.pkt with hops := i.pkt.hops + 1, route := way }] }) := by
  intro taken
  refine happen_some (o := occStewynIngressAccept s) ?_
  simp only [occStewynIngressAccept, hi, hready, hd, hpresent, hway, hroom, Bool.not_true, Bool.false_eq_true, if_false, ne_eq,
    not_false_eq_true, if_true, Option.filter_some]
  rfl

end

end Sys2Proof.Claim.LinkEvent

namespace Sys2Proof.Claim

open Sys2Proof Sys2Proof.Machine Sys2Proof.Machine.State LinkEvent

/-- Settles O44: segments as they arrive, in order, and are asked for again; the events of keys and spares; the packets of the ingress. -/
theorem linkEventsComplete : Obligations.LinkEventsComplete := fun _ _ _ _ _ =>
  ⟨fun hup hcheck horder hconfirm hcredit hpart =>
      have h : InOrder _ _ _ := ⟨hup, hcheck, horder, hconfirm, hcredit, hpart⟩
      ⟨segment_released h, segment_asked_again h, segment_cut_through h⟩,
    fun _ => segment_sent_again, rekey_starts, port_stops, key_brings_up, spare_takes_over,
    fun _ hi hready => ⟨message_accepted hi hready, fun _ _ _ _ _ => store_accepted hi hready, fun _ _ => packet_passed_on hi hready⟩⟩

end Sys2Proof.Claim
end

section
/-! PROOFS. The codes of the floating-point formats (R164 to R168). -/

namespace Sys2Proof.Num

variable (f : Fmt) (c : Nat)

/-! ## The fields of a code -/

/-- The sign of a code. -/
def signOf : Bool := decide (c / 2 ^ (f.p + f.ebits) % 2 = 1)

/-- The exponent field of a code. -/
def expOf : Nat := c / 2 ^ f.p % 2 ^ f.ebits

/-- The mantissa field of a code. -/
def manOf : Nat := c % 2 ^ f.p

/-- The bits that stand for a sign. -/
def signBits (s : Bool) : Nat := if s then 2 ^ (f.p + f.ebits) else 0

variable {c}

theorem signBits_signOf (hc : c < 2 ^ f.width) : signBits f (signOf f c) = 2 ^ (f.p + f.ebits) * (c / 2 ^ (f.p + f.ebits)) := by
  have hwidth : f.width = f.p + f.ebits + 1 := by unfold Fmt.width; omega
  have hbit : c / 2 ^ (f.p + f.ebits) < 2 := Nat.div_lt_of_lt_mul (by rwa [hwidth, Nat.pow_succ] at hc)
  unfold signBits signOf
  obtain h | h : c / 2 ^ (f.p + f.ebits) = 0 ∨ c / 2 ^ (f.p + f.ebits) = 1 := Nat.le_one_iff_eq_zero_or_eq_one.1 (Nat.le_of_lt_succ hbit)
  · rw [h]; rfl
  · rw [h, Nat.mul_one]; rfl

theorem fields_of_code (hc : c < 2 ^ f.width) : signBits f (signOf f c) + expOf f c * 2 ^ f.p + manOf f c = c := by
  have htop := Nat.div_add_mod (c / 2 ^ f.p) (2 ^ f.ebits)
  rw [Nat.div_div_eq_div_mul, ← Nat.pow_add] at htop
  calc signBits f (signOf f c) + expOf f c * 2 ^ f.p + manOf f c
      = 2 ^ f.p * (2 ^ f.ebits * (c / 2 ^ (f.p + f.ebits)) + expOf f c) + manOf f c := by
        rw [signBits_signOf f hc, Nat.mul_add, ← Nat.mul_assoc, ← Nat.pow_add, Nat.mul_comm (expOf f c)]
    _ = 2 ^ f.p * (c / 2 ^ f.p) + c % 2 ^ f.p := by rw [expOf, htop, manOf]
    _ = c := Nat.div_add_mod c (2 ^ f.p)

/-! ## What a code stands for, and the code of a value -/

variable (c) in
/-- A code is a NaN, an infinity, a subnormal number or a normal one. -/
theorem decode_cases : decode f c = .nan ∨
    (decode f c = .inf (signOf f c) ∧ expOf f c = 2 ^ f.ebits - 1 ∧ manOf f c = 0) ∨
    (decode f c = .fin (signOf f c) (manOf f c) (f.emin - f.p) ∧ expOf f c = 0) ∨
    (decode f c = .fin (signOf f c) (2 ^ f.p + manOf f c) (expOf f c - f.bias - f.p) ∧ expOf f c ≠ 0) := by
  unfold decode
  dsimp only
  split
  · next htop =>
    obtain ⟨hexp, -⟩ := htop
    split
    · next hman => exact .inr (.inl ⟨rfl, hexp, hman⟩)
    · exact .inl rfl
  · split
    · exact .inl rfl
    · split
      · next hexp => exact .inr (.inr (.inl ⟨rfl, hexp⟩))
      · next hexp => exact .inr (.inr (.inr ⟨rfl, hexp⟩))

section
variable (s : Bool)

theorem code_inf : code f (.inf s) = signBits f s + (2 ^ f.ebits - 1) * 2 ^ f.p := rfl

theorem code_subnormal {m : Nat} (hm : m < 2 ^ f.p) : code f (.fin s m (f.emin - f.p)) = signBits f s + m := by
  by_cases h0 : m = 0
  · rw [h0]
    rfl
  · have hlog : Nat.log2 m < f.p := (Nat.log2_lt h0).2 hm
    have hlow : (Nat.log2 m : Int) + (f.emin - f.p) < f.emin := by omega
    have hshl : shl m (f.emin - f.p - (f.emin - f.p)) = m := by rw [Int.sub_self]; exact Nat.mul_one m
    rw [code]
    dsimp only
    rw [if_neg h0, if_pos hlow, hshl]
    rfl

theorem code_normal {m e : Nat} (hm : m < 2 ^ f.p) (he : e ≠ 0) :
    code f (.fin s (2 ^ f.p + m) (e - f.bias - f.p)) = signBits f s + e * 2 ^ f.p + m := by
  have hpos := Nat.two_pow_pos f.p
  have hne : 2 ^ f.p + m ≠ 0 := by omega
  have hlog : Nat.log2 (2 ^ f.p + m) = f.p := (Nat.log2_eq_iff hne).2 ⟨Nat.le_add_right .., by rw [Nat.pow_succ]; omega⟩
  have htop : (f.p : Int) + (e - f.bias - f.p) = e - f.bias := by omega
  have hemin : ¬(e - f.bias : Int) < f.emin := by unfold Fmt.emin; omega
  have hshl : shl (2 ^ f.p + m) (e - f.bias - f.p - (e - f.bias - f.p)) = 2 ^ f.p + m := by rw [Int.sub_self]; exact Nat.mul_one _
  have hexp : (e - f.bias + f.bias : Int).toNat = e := by omega
  rw [code]
  dsimp only
  rw [if_neg hne, hlog, htop, if_neg hemin, hshl, hexp, Nat.add_sub_cancel_left]
  rfl

end

/-- Every format reads a code that is no NaN as the value whose code it is. -/
theorem code_decode (hc : c < 2 ^ f.width) (hnan : isNan (decode f c) = false) : code f (decode f c) = c := by
  have hm : manOf f c < 2 ^ f.p := Nat.mod_lt _ (Nat.two_pow_pos _)
  have hfields := fields_of_code f hc
  obtain h | ⟨h, hexp, hman⟩ | ⟨h, hexp⟩ | ⟨h, hexp⟩ := decode_cases f c
  · rw [h] at hnan
    cases hnan
  · rw [h, code_inf, ← hexp]
    omega
  · rw [h, code_subnormal f _ hm]
    rw [hexp] at hfields
    omega
  · rw [h, code_normal f _ hm hexp, hfields]

end Sys2Proof.Num

namespace Sys2Proof.Claim

open Sys2Proof

/-- Settles O22: every format reads its codes by the fields that it writes. -/
theorem floatCodesRoundTrip : Obligations.FloatCodesRoundTrip := fun f _ _ hc hnan => Num.code_decode f hc hnan

end Sys2Proof.Claim
end

section
/-! PROOFS. The mask instructions, the reductions and the conversions of vectors, and DTLD (R175 to R181, R193 to R195, R197). -/

namespace Sys2Proof.Machine

open Sys2Proof

/-! ## The first of some numbers (R77) -/

section
variable {p : Nat → Bool} {n i k : Nat}

theorem firstFrom_eq_some (h0 : k ≤ i) (hn : i < k + n) (hp : p i = true) (hlow : ∀ j, k ≤ j → j < i → p j = false) :
    firstFrom p n k = some i := by
  induction n generalizing k with
  | zero => omega
  | succ n ih =>
    rw [firstFrom]
    obtain rfl | hlt := Nat.eq_or_lt_of_le h0
    · rw [if_pos hp]
    · rw [hlow k (Nat.le_refl k) hlt]
      exact ih hlt (by omega) fun j hj => hlow j (by omega)

theorem firstFrom_eq_none (h : ∀ j, p j = false) : firstFrom p n k = none := by
  induction n generalizing k with
  | zero => rfl
  | succ n ih => rw [firstFrom, if_neg (by simp [h k]), ih]

end

theorem ffsE_of_first {m : Mask128} {i : Nat} (hi : i < 128) (hlow : ∀ j, j < i → m.getLsbD j = false) (h : m.getLsbD i = true) :
    ffsE 128 m.toNat = i := by
  have hfirst : firstBelow 128 (fun j => m.toNat.testBit j) = some i :=
    firstFrom_eq_some (Nat.zero_le i) (by omega) h fun j _ hj => hlow j hj
  rw [ffsE, hfirst]
  rfl

theorem ffsE_zero (n : Nat) : ffsE n 0 = n := by
  rw [ffsE, firstBelow, firstFrom_eq_none fun j => Nat.zero_testBit j]
  rfl

/-! ## A shadow unit without defects -/

theorem performE_consumed {s t : State} {i : Instr} (hr : Claim.Ready s i) {k : State → Except FaultRec State} (hk : k s = .ok t) :
    performE s i k = .next (Claim.Consumed i t) := performK_consumed hr (by rw [hk])

theorem perform_consumed {s : State} {i : Instr} (hr : Claim.Ready s i) (k : State → State) :
    perform s i k = .next (Claim.Consumed i (k s)) := performK_consumed hr rfl

namespace State

variable {s : State} (hd : s.rd.defects.vector = [])
include hd

theorem shadowBad_sound (f : Num.Fmt) (n : Nat) (m : Mask128) (r : VWord) : s.shadowBad f n m r = none := by
  rw [shadowBad, hd]
  rfl

theorem vres_sound (f : Option Num.Fmt) (a : VOp) (m : Mask128) (r : VWord) (lat : Nat) :
    s.vres f a m r lat = .ok (s.wrV a (blend m r (s.oldV a)) lat) := by
  cases f with
  | none => rfl
  | some f => rw [vres, Option.bind_some, shadowBad_sound hd]

theorem shadowLane_sound (f : Option Num.Fmt) (m : Mask128) (r : VWord) : s.shadowLane f m r = none := by
  cases f with
  | none => rfl
  | some f => exact shadowBad_sound hd f 1 m r

end State

theorem fmtReserved_of_lt {f : BitVec 4} (h : f.toNat < 14) : fmtReserved f = false := decide_eq_false (by omega)

end Sys2Proof.Machine

namespace Sys2Proof.Claim.VectorForm

open Sys2Proof Sys2Proof.Machine Sys2Proof.Machine.State

variable {s : State} {k : VMask} {a b : VOp} {f : Ab}

/-! ## Masks and reductions (R193 to R195, R197) -/

section
variable {cd : VCond} {t : VCmpTy} {m n p : MReg} {c : VOp} {g : GReg}

theorem exec_vcmp : exec (.vcmp cd t m a b) s = perform s (.vcmp cd t m a b) fun u =>
    u.wrM m (ofBits fun i => vcmpLane cd t (elem 32 (u.rdV a) i) (elem 32 (u.rdV b) i)) 8 := rfl

theorem exec_vsel : exec (.vsel m a b c) s = perform s (.vsel m a b c) fun u => u.wrV a (blend (u.rdM m) (u.rdV b) (u.rdV c)) 8 := rfl

theorem exec_mand : exec (.mand m n p) s = perform s (.mand m n p) fun u => u.wrM m (u.rdM n &&& u.rdM p) 8 := rfl

theorem exec_mor : exec (.mor m n p) s = perform s (.mor m n p) fun u => u.wrM m (u.rdM n ||| u.rdM p) 8 := rfl

theorem exec_mxor : exec (.mxor m n p) s = perform s (.mxor m n p) fun u => u.wrM m (u.rdM n ^^^ u.rdM p) 8 := rfl

theorem exec_mnot : exec (.mnot m n) s = perform s (.mnot m n) fun u => u.wrM m (~~~(u.rdM n)) 8 := rfl

theorem exec_mpop : exec (.mpop g n) s = perform s (.mpop g n) fun u => u.wrG g (BitVec.ofNat 64 (popE 128 (u.rdM n).toNat)) := rfl

theorem exec_mfirst : exec (.mfirst g n) s = perform s (.mfirst g n) fun u => u.wrG g (BitVec.ofNat 64 (ffsE 128 (u.rdM n).toNat)) := rfl

theorem mfirst_finds (hr : Ready s (.mfirst g n)) {i : Nat} (hi : i < 128) (hlow : ∀ j, j < i → (s.rdM n).getLsbD j = false)
    (h : (s.rdM n).getLsbD i = true) : exec (.mfirst g n) s = .next (s.wrG g (BitVec.ofNat 64 i)) := by
  obtain ⟨hg, -⟩ := hr
  rw [exec_mfirst, perform_plain hg rfl rfl, ffsE_of_first hi hlow h]

theorem mfirst_none (hr : Ready s (.mfirst g n)) (h : s.rdM n = 0) : exec (.mfirst g n) s = .next (s.wrG g 128) := by
  obtain ⟨hg, -⟩ := hr
  rw [exec_mfirst, perform_plain hg rfl rfl, h]
  exact congrArg (fun i => Host.Outcome.next (s.wrG g (BitVec.ofNat 64 i))) (ffsE_zero 128)

end

section
variable {op : RedOp} {e : VElt}

theorem exec_vred : exec (.vred op e k a b) s = performE s (.vred op e k a b) fun u =>
    u.vres (eltFmt e) a (BitVec.allOnes 128) (vredV op e (u.mask k) (u.rdV b)) 16 := rfl

theorem exec_vscan : exec (.vscan op e k a b) s = performE s (.vscan op e k a b) fun u =>
    u.vres (eltFmt e) a (BitVec.allOnes 128) (vscanV op e (u.mask k) (u.rdV b)) 16 := rfl

theorem vred_writes (hr : Ready s (.vred op e k a b)) (hd : s.rd.defects.vector = []) : exec (.vred op e k a b) s =
    .next (Consumed (.vred op e k a b) (s.wrV a (vredV op e (s.mask k) (s.rdV b)) 16)) :=
  exec_vred.trans (performE_consumed hr (vres_sound hd ..))

theorem vscan_writes (hr : Ready s (.vscan op e k a b)) (hd : s.rd.defects.vector = []) : exec (.vscan op e k a b) s =
    .next (Consumed (.vscan op e k a b) (s.wrV a (vscanV op e (s.mask k) (s.rdV b)) 16)) :=
  exec_vscan.trans (performE_consumed hr (vres_sound hd ..))

end

/-! ## Conversions (R178 to R181) -/

theorem exec_vpack {w : PkW} {c : VOp} : exec (.vpack w k a b c) s = perform s (.vpack w k a b c) fun u =>
    u.wrV a (narrow (pkBits w) k (u.mask k) (elems 32 (u.rdV b) ++ elems 32 (u.rdV c)) (u.oldV a)) 8 := rfl

theorem exec_vunpk {w : PkW} {unsigned : Bool} : exec (.vunpk w unsigned k a b) s = perform s (.vunpk w unsigned k a b) fun u =>
    u.wrV a (blend (u.mask k) (ofLanes fun i => wrap (valW (!unsigned) (pkBits w) (elem (pkBits w) (u.rdV b) i)) 32) (u.oldV a)) 8 := rfl

theorem exec_vcvt {op : CvtOp} : exec (.vcvt op k a b) s = performE s (.vcvt op k a b) fun u =>
    match u.shadowLane (cvtFmt op) (u.mask k) (map1 32 (cvtLane op) (u.rdV b)) with
    | some l => .error (shadowF l)
    | none => .ok (u.wrV a (blend (u.mask k) (map1 32 (cvtLane op) (u.rdV b)) (u.oldV a)) 8) := rfl

theorem vcvt_writes {op : CvtOp} : LandsV s (.vcvt op k a b) k a (map1 32 (cvtLane op) (s.rdV b)) 8 := fun hr hd =>
  exec_vcvt.trans (performE_consumed hr (by rw [shadowLane_sound hd]))

/-- The lanes of b, of which lane i is element i of the format that f names, decoded to FP32 (R180). -/
def decoded (s : State) (f : Ab) (b : VOp) : VWord :=
  ofLanes fun i => Num.code Num.f32
    (decodeFmt s.rd.tabs.a s.rd.tabs.b (s.fmtReg f).toNat (elem (fmtWidth (s.fmtReg f).toNat) (s.rdV b) i))

theorem exec_vdec : exec (.vdec f k a b) s = performE s (.vdec f k a b) fun u =>
    if fmtReserved (u.fmtReg f) then .error (illegal subFORMAT)
    else match u.shadowLane (some Num.f32) (u.mask k) (decoded u f b) with
      | some l => .error (shadowF l)
      | none => .ok (u.wrV a (blend (u.mask k) (decoded u f b) (u.oldV a)) 8) := rfl

theorem vdec_writes (hf : (s.fmtReg f).toNat < 14) : LandsV s (.vdec f k a b) k a (decoded s f b) 8 := fun hr hd =>
  exec_vdec.trans (performE_consumed hr (by rw [fmtReserved_of_lt hf, shadowLane_sound hd]; rfl))

/-- The FP32 lanes of b, encoded in the format that f names (R180). -/
def encoded (s : State) (f : Ab) (sat : Bool) (b : VOp) : List Nat :=
  (elems 32 (s.rdV b)).map fun x => encodeFmt s.rd.tabs.a s.rd.tabs.b (s.fmtReg f).toNat sat (Num.decode Num.f32 x)

theorem exec_venc {sat : Bool} : exec (.venc f sat k a b) s = performE s (.venc f sat k a b) fun u =>
    if fmtReserved (u.fmtReg f) then .error (illegal subFORMAT)
    else .ok (u.wrV a (narrow (fmtWidth (u.fmtReg f).toNat) k (u.mask k) (encoded u f sat b) (u.oldV a)) 8) := rfl

theorem venc_writes {sat : Bool} (hr : Ready s (.venc f sat k a b)) (hf : (s.fmtReg f).toNat < 14) : exec (.venc f sat k a b) s =
    .next (Consumed (.venc f sat k a b)
      (s.wrV a (narrow (fmtWidth (s.fmtReg f).toNat) k (s.mask k) (encoded s f sat b) (s.oldV a)) 8)) :=
  exec_venc.trans (performE_consumed hr (by rw [fmtReserved_of_lt hf]; rfl))

/-! ## DTLD (R175, R176) -/

/-- The load that DTLD of table f starts with the 256 words of d: the top 19 bits of each are its entry. -/
def tabLoad (s : State) (f : Ab) (d : List Byte) : TabLoad :=
  { thread := s.cur % 64, b := decide (f = .b), entries := (List.range 256).map fun c => (c, BitVec.ofNat 19 (field d (4 * c) 4 / 2 ^ 13))
    issued := s.issuePlace, due := s.cycOf s.ck + 256 }

/-- The load l stands among those of the executing core, and the thread waits until its table is replaced. -/
def tableAwaited (s : State) (l : TabLoad) : State :=
  (s.claim.2.updCore s.ck fun c => { c with tabs := { c.tabs with loading := putTabLoad l c.tabs.loading } }).park s.cur (.unit s.issuePlace)

section
variable {g : GReg} {off : Off16}

theorem exec_dtld : exec (.dtld f g off) s = performK s (.dtld f g off) fun u =>
    if (u.rdG g + sext16 off).toNat % 64 ≠ 0 then .stop (u.fault (alignF (u.rdG g + sext16 off)))
    else if 0x27FFF < (u.rdG g + sext16 off).toNat + 1023 then .stop (u.fault (protF (u.rdG g + sext16 off)))
    else if u.ulmWaits then .stop u.atPort
    else
      match u.ulmBlock (u.rdG g + sext16 off).toNat 1024 with
      | (_, some (p, w)) => .stop (u.fault (killF p (BitVec.ofNat 64 w)))
      | (d, none) => .done (tableAwaited u (tabLoad u f d)) := rfl

theorem dtld_loads (hr : Ready s (.dtld f g off)) {ad : Word} (had : s.rdG g + sext16 off = ad) (hal : ad.toNat % 64 = 0)
    (hin : ad.toNat + 1024 ≤ 0x28000) (hgo : s.ulmWaits = false) (hgood : (s.ulmBlock ad.toNat 1024).2 = none) :
    exec (.dtld f g off) s = .next (tableAwaited s (tabLoad s f (s.ulmBlock ad.toNat 1024).1)) := by
  rw [exec_dtld]
  refine performK_done hr rfl rfl ?_
  rw [had, if_neg (by simp [hal]), if_neg (by omega), if_neg (by simp [hgo])]
  split
  · next hbad => simp [hbad] at hgood
  · next hd => rw [hd]

end

theorem tableAwaited_parks (l : TabLoad) : ((tableAwaited s l).thr s.cur).st = .parked := by
  rw [tableAwaited, park, thr_updThr_same]

theorem tableAwaited_loading (l : TabLoad) :
    ((tableAwaited s l).core s.ck).tabs.loading = putTabLoad l (s.core s.ck).tabs.loading := by
  have hck : s.ck = s.cur / 64 := rfl
  rw [tableAwaited, park, hck, core_updThr, core_updCore_same]
  rfl

theorem tabLoad_entry (f : Ab) (d : List Byte) {j : Nat} (hj : j < 256) :
    FMap.get 0 (tabLoad s f d).entries j = BitVec.ofNat 19 (field d (4 * j) 4 / 2 ^ 13) :=
  FMap.get_map_range 0 (fun c => BitVec.ofNat 19 (field d (4 * c) 4 / 2 ^ 13)) hj

end Sys2Proof.Claim.VectorForm

namespace Sys2Proof.Claim

open Sys2Proof Sys2Proof.Machine Sys2Proof.Machine.State VectorForm

theorem masksAndReductionsComplete : MasksAndReductionsComplete := fun _ _ _ _ _ _ _ _ _ _ _ _ _ =>
  ⟨fun hr => exec_vcmp.trans (perform_consumed hr _), fun hr => exec_vsel.trans (perform_consumed hr _),
    fun ⟨hg, _⟩ => exec_mand.trans (perform_plain hg rfl rfl _), fun ⟨hg, _⟩ => exec_mor.trans (perform_plain hg rfl rfl _),
    fun ⟨hg, _⟩ => exec_mxor.trans (perform_plain hg rfl rfl _), fun ⟨hg, _⟩ => exec_mnot.trans (perform_plain hg rfl rfl _),
    fun ⟨hg, _⟩ => exec_mpop.trans (perform_plain hg rfl rfl _), fun hr => ⟨fun _ => mfirst_finds hr, mfirst_none hr⟩,
    vred_writes, vscan_writes⟩

theorem conversionsComplete : ConversionsComplete := fun _ _ _ _ _ f _ _ _ _ _ _ =>
  ⟨vcvt_writes, fun hr => exec_vpack.trans (perform_consumed hr _), fun hr _ => exec_vunpk.trans (perform_consumed hr _), vdec_writes,
    venc_writes, fun hr hal hin hgo hgood => ⟨_, _, dtld_loads hr rfl hal hin hgo hgood, tableAwaited_parks _, tableAwaited_loading _, rfl,
      decide_eq_true_iff, rfl, rfl, fun _ => tabLoad_entry f _⟩⟩

/-- Settles O20: every form writes what it computes at once but DTLD, whose load waits among those of its core. -/
theorem masksAndConversionsComplete : Obligations.MasksAndConversionsComplete := ⟨masksAndReductionsComplete, conversionsComplete⟩

end Sys2Proof.Claim
end

section
/-! PROOFS. The matrix unit performs the head of its queue, latches move on the ring, SWAPTs meet and loaded tables replace their
predecessors, and commands arrive (R176, R205 to R207, R212 to R219, R263, R357). -/

namespace Sys2Proof.Machine

open Sys2Proof

/-! ## Messages leave the cores as they are -/

namespace State

section
variable (s : State)

@[simp] theorem leave_cores (i : NetItem) : (s.leave i).cores = s.cores := by
  unfold leave
  dsimp only
  repeat' split
  all_goals rfl

@[simp] theorem post_cores (dst : Nat) (m : NetMsg) : (s.post dst m).cores = s.cores := by
  unfold post
  dsimp only
  split <;> simp

@[simp] theorem receipt_cores (dst : Loc) (reg : Nat) (w : Word) : (s.receipt dst reg w).cores = s.cores := post_cores ..

@[simp] theorem poisoned_cores (e : MxEntry) (ck : Nat) (poison : Bool) (a : Word) : (s.poisoned e ck poison a).cores = s.cores :=
  (post_cores ..).trans (receipt_cores ..)

end

/-! ## An MMA or MMAS (R205, R212, R219) -/

/-- The matrix unit of core ck is occupied by an MMA or MMAS of kn rows (R212). -/
def occupied (s : State) (ck n kn : Nat) : State :=
  s.updCore ck fun c => { c with mx := { c.mx with free := s.cycOf ck + mxCycles n kn } }

section
variable {s : State} {ck : Nat} {e : MxEntry} {src : ASource} {n : Nat} {metaAt : Option Nat} {fmta : BitVec 4} {intMode : Bool}
  {scla sclb : Word32} (handle : Word) {loff : Nat} (klo : Nat) {kn : Nat}

theorem mxBad_occupied : (s.occupied ck n kn).mxBad ck e src n metaAt fmta intMode scla sclb loff kn =
    s.mxBad ck e src n metaAt fmta intMode scla sclb loff kn := by
  simp only [mxBad, mxIndex, occupied, core_updCore_same]

/-- An MMA that reads a bad word is answered at once. -/
theorem performMma_bad {p : Bool} {a : Word} (h : s.mxBad ck e src n metaAt fmta intMode scla sclb loff kn = some (p, a)) :
    s.performMma ck e src n metaAt fmta intMode scla sclb handle loff klo kn = (s.occupied ck n kn).poisoned e ck p a := by
  rw [← mxBad_occupied] at h
  unfold performMma
  dsimp only
  rw [← occupied, h]

/-- Any other leaves one message in the drain. -/
theorem performMma_good (h : s.mxBad ck e src n metaAt fmta intMode scla sclb loff kn = none) :
    ∃ m, s.performMma ck e src n metaAt fmta intMode scla sclb handle loff klo kn =
      (s.occupied ck n kn).mxDrain ck (s.cycOf ck + mxCycles n kn + 16) m := by
  rw [← mxBad_occupied] at h
  unfold performMma
  dsimp only
  rw [← occupied, h]
  dsimp only
  exact ⟨_, (apply_ite (mxDrain (s.occupied ck n kn) ck (s.cycOf ck + mxCycles n kn + 16)) ..).symm⟩

theorem free_performMma :
    ((s.performMma ck e src n metaAt fmta intMode scla sclb handle loff klo kn).core ck).mx.free = s.cycOf ck + mxCycles n kn := by
  cases h : s.mxBad ck e src n metaAt fmta intMode scla sclb loff kn with
  | none =>
    obtain ⟨m, hm⟩ := performMma_good handle klo h
    rw [hm, mxDrain, core_updCore_same, occupied, core_updCore_same]
  | some x =>
    obtain ⟨p, a⟩ := x
    rw [performMma_bad handle klo h, core, poisoned_cores, ← core, occupied, core_updCore_same]

theorem drain_performMma (h : s.mxBad ck e src n metaAt fmta intMode scla sclb loff kn = none) :
    ∃ m, ((s.performMma ck e src n metaAt fmta intMode scla sclb handle loff klo kn).core ck).mx.drain =
      (s.core ck).mx.drain ++ [(s.cycOf ck + mxCycles n kn + 16, m)] := by
  obtain ⟨m, hm⟩ := performMma_good handle klo h
  refine ⟨m, ?_⟩
  rw [hm, mxDrain, core_updCore_same, occupied, core_updCore_same]

end

/-! ## The latches (R213, R214) -/

theorem core_activate (s : State) (ck : Nat) (l : Latch) : (s.activate ck l).core ck = { s.core ck with
    mx := { (s.core ck).mx with queue := (s.core ck).mx.queue.drop 1, moved := none, active := l, inc := .empty, incoming := Latch.reset } } := by
  rw [activate, core_updCore_same, mxPop, core_updCore_same]

/-! ## The exchange of two SWAPTs (R215) -/

theorem ab_exchange_first {s : State} {c d : Nat} (h : c ≠ d) (x y : Swap) : ((s.exchange c d x y).core c).ab =
    ((s.core c).ab.write x.addr ((s.core d).ab.read y.addr y.len)).putBad x.addr ((s.core d).ab.badOf y.addr y.len) := by
  simp only [exchange, core_updCore_same, core_updCore_other _ _ h, writeMem, Core.setBuf, Core.buf]

theorem ab_exchange_second {s : State} {c d : Nat} (h : c ≠ d) (x y : Swap) : ((s.exchange c d x y).core d).ab =
    ((s.core d).ab.write y.addr ((s.core c).ab.read x.addr x.len)).putBad y.addr ((s.core c).ab.badOf x.addr x.len) := by
  simp only [exchange, core_updCore_same, core_updCore_other _ _ h.symm, writeMem, Core.setBuf, Core.buf]

theorem keptAtRetire_ab : Core.KeptAtRetire Core.ab := fun _ _ _ _ _ => rfl

theorem keptAtRetire_tabs : Core.KeptAtRetire Core.tabs := fun _ _ _ _ _ => rfl

theorem keptAtRetire_means : Core.KeptAtRetire Core.means := fun _ _ _ _ _ => rfl

end State

/-- The marks of bad words leave the bytes as they are. -/
theorem Mem.read_putBad (m : Mem) (b : Nat) (l : List (Nat × Bool)) (a n : Nat) : (m.putBad b l).read a n = m.read a n := by
  have hcells : (m.putBad b l).cells = m.cells :=
    foldl_keeps Mem.cells (f := fun (m : Mem) (e : Nat × Bool) => m.mark (b + e.1) 8 e.2) (fun _ _ => rfl) l m
  simp only [Mem.read, Mem.byte, hcells]

theorem Mem.read_length (m : Mem) (a n : Nat) : (m.read a n).length = n := by simp [Mem.read]

theorem Mem.read_write_of_length {m : Mem} (h : m.wf) (a : Nat) {d : List Byte} {n : Nat} (hn : d.length = n) : (m.write a d).read a n = d :=
  hn ▸ Mem.read_write h a d

end Sys2Proof.Machine

namespace Sys2Proof.Claim.MatrixEvent

open Sys2Proof Sys2Proof.Machine Sys2Proof.Machine.State

variable {s : State}

/-! ## The head of the queue (R199) -/

/-- What the entry e of the queue of core State.subj, a TCONT of these operands, sends. -/
def tcontribution (s : State) (e : MxEntry) (h : Word) (k w : Nat) (vals : List Word32) : Contribution :=
  { handle := h, klo := k, kn := w, intMode := false, anyMode := true, nan := vals.any fun w => Num.isNan (Num.decode Num.f32 w.toNat)
    tenant := e.tenant, vals := vals, unit := s.loc (s.subj * 64), src := e.rcpt, reg := e.reg }

section
variable {e : MxEntry} {r : List MxEntry} (hq : (s.core s.subj).mx.queue = e :: r) (hready : s.mxReady s.subj = true)
include hq hready

theorem mma_performed {src : ASource} {n : Nat} {md : Option Nat} {f : BitVec 4} {i : Bool} {x y : Word32} {h : Word} {l k w : Nat}
    (he : e.op = .mma src n md f i x y h l k w) :
    exec .matrixQueueEntry s = .next ((s.performMma s.subj e src n md f i x y h l k w).mxPop s.subj) := by
  refine happen_some (o := occMatrixQueueEntry s) ?_
  simp only [occMatrixQueueEntry, hq, hready, he, Bool.not_true, Bool.false_eq_true, if_false]

theorem bld_performed {ad n : Nat} {f : BitVec 4} (he : e.op = .bld ad n f) :
    exec .matrixQueueEntry s = .next (s.activate s.subj (s.bldLatch s.subj e ad n f)) := by
  refine happen_some (o := occMatrixQueueEntry s) ?_
  simp only [occMatrixQueueEntry, hq, hready, he, Bool.not_true, Bool.false_eq_true, if_false]

theorem brot_performed {x : Bool} (he : e.op = .brot x) :
    exec .matrixQueueEntry s = .next (s.activate s.subj (s.core s.subj).mx.incoming) := by
  refine happen_some (o := occMatrixQueueEntry s) ?_
  simp only [occMatrixQueueEntry, hq, hready, he, Bool.not_true, Bool.false_eq_true, if_false]

theorem tcont_performed {h : Word} {k w : Nat} {vals : List Word32} (he : e.op = .tcont h k w vals) :
    exec .matrixQueueEntry s = .next ((s.contribute (tcontribution s e h k w vals)).mxPop s.subj) := by
  refine happen_some (o := occMatrixQueueEntry s) ?_
  simp only [occMatrixQueueEntry, hq, hready, he, Bool.not_true, Bool.false_eq_true, if_false]
  rfl

end

theorem latch_activated {e : MxEntry} {r : List MxEntry} (hq : (s.core s.subj).mx.queue = e :: r) {l : Latch}
    (h : exec .matrixQueueEntry s = .next (s.activate s.subj l)) :
    ∃ t : State, exec .matrixQueueEntry s = .next t ∧ (t.core s.subj).mx.queue = r ∧ (t.core s.subj).mx.active = l ∧
      (t.core s.subj).mx.inc = .empty :=
  ⟨_, h, by rw [core_activate, hq]; rfl, by rw [core_activate], by rw [core_activate]⟩

/-- The active latch of core p has come to the incoming latch of core State.subj, which the BROT e before the entries r of p's queue was to
send (R214). -/
def latchPassed (s : State) (p : Nat) (e : MxEntry) (r : List MxEntry) : State :=
  (s.updCore p fun c => { c with mx := { c.mx with queue := { e with op := .brot true } :: r } }).updCore s.subj fun c =>
    { c with mx := { c.mx with incoming := (s.core p).mx.active, inc := .received } }

theorem latch_arrives {e : MxEntry} {r : List MxEntry} {p : Nat} (hp : s.subj / 16 * 16 + ringBefore (s.subj % 16) = p)
    (hq : (s.core p).mx.queue = e :: r) (he : e.op = .brot false) (hinc : (s.core s.subj).mx.inc = .empty) {m : Nat}
    (hm : (s.core p).mx.moved = some m) (hle : m ≤ s.cycOf p) : exec .latchArrival s = .next (latchPassed s p e r) := by
  refine happen_some (o := occLatchArrival s) ?_
  have hmoved : (s.core p).mx.moved.any (fun m => decide (m ≤ s.cycOf p)) = true := by rw [hm]; exact decide_eq_true hle
  simp only [occLatchArrival, hp, hq, he, if_pos (And.intro hinc hmoved)]
  rfl

theorem core_latchPassed (p : Nat) (e : MxEntry) (r : List MxEntry) :
    ((latchPassed s p e r).core s.subj).mx.inc = .received ∧ ((latchPassed s p e r).core s.subj).mx.incoming = (s.core p).mx.active := by
  rw [latchPassed, core_updCore_same]
  exact ⟨rfl, rfl⟩

/-! ## SWAPTs and tables (R176, R215, R263) -/

theorem swapts_exchange {x y : Swap} {xs ys : List Swap} (hx : (s.core s.subj).mx.swaps = x :: xs)
    (hy : (s.core (transposed s.subj)).mx.swaps = y :: ys) (hne : s.subj ≠ transposed s.subj) (hlen : x.len = y.len)
    (hxh : x.hold = false) (hyh : y.hold = false) (hxc : s.portClear s.subj .ab x.id = true)
    (hyc : s.portClear (transposed s.subj) .ab y.id = true) : exec .swaptPairComplete s = .next
      (((s.exchange s.subj (transposed s.subj) x y).doneWaiting (s.subj * 64 + x.thread) (.unit x.id)).doneWaiting
        (transposed s.subj * 64 + y.thread) (.unit y.id)) := by
  refine happen_some (o := occSwaptPairComplete s) ?_
  simp [occSwaptPairComplete, hx, hy, hne, hlen, hxh, hyh, hxc, hyc]

/-- After two threads have gone on, the buffer AB of every core holds what it held. -/
theorem ab_gone_on (u : State) (t t' : Nat) (w w' : Wait) (k : Nat) : (((u.doneWaiting t w).doneWaiting t' w').core k).ab = (u.core k).ab :=
  (congrFun (view_doneWaiting keptAtRetire_ab _ t' w') k).trans (congrFun (view_doneWaiting keptAtRetire_ab u t w) k)

theorem exchange_reads (hok : s.memOk) {c d : Nat} (hne : c ≠ d) {x y : Swap} (hlen : x.len = y.len) :
    ((s.exchange c d x y).core c).ab.read x.addr x.len = (s.core d).ab.read y.addr y.len ∧
      ((s.exchange c d x y).core d).ab.read y.addr y.len = (s.core c).ab.read x.addr x.len := by
  have hwf (k : Nat) : (s.core k).ab.wf := by
    obtain ⟨-, -, hab⟩ := (Core.memOk_iff _).1 (memOk_core hok k)
    exact hab
  rw [ab_exchange_first hne, ab_exchange_second hne, Mem.read_putBad, Mem.read_putBad]
  exact ⟨Mem.read_write_of_length (hwf c) _ ((Mem.read_length ..).trans hlen.symm),
    Mem.read_write_of_length (hwf d) _ ((Mem.read_length ..).trans hlen)⟩

/-- The tables of a core as the load l, before the loads r, replaces its table (R175). -/
def tabsReplaced (b : VecTables) (l : TabLoad) (r : List TabLoad) : VecTables :=
  if l.b then { b with b := l.entries, loading := r } else { b with a := l.entries, loading := r }

theorem decodeTable_replaced {l : TabLoad} {r : List TabLoad} (hl : (s.core s.subj).tabs.loading = l :: r)
    (hdecoded : ∀ e ∈ (s.core s.subj).mx.queue, mxDecodes e.op = true → l.issued ≤ e.id) (hdue : l.due ≤ s.cycOf s.subj)
    (hfirst : s.dtldAhead s.subj l = false) : exec .decodeTableReplace s = .next
    ((s.setCore s.subj { s.core s.subj with tabs := tabsReplaced (s.core s.subj).tabs l r }).doneWaiting (s.subj * 64 + l.thread)
      (.unit l.issued)) := by
  have hqueue : (s.core s.subj).mx.queue.any (fun e => mxDecodes e.op && decide (e.id < l.issued)) = false :=
    List.any_eq_false.2 fun e he => by simpa using hdecoded e he
  refine happen_some (o := occDecodeTableReplace s) ?_
  simp only [occDecodeTableReplace, hl, hqueue, hfirst, Nat.not_lt.2 hdue, Bool.false_eq_true, or_self, if_false]
  rfl

theorem tabs_replaced (k t : Nat) (w : Wait) (b : VecTables) :
    (((s.setCore k { s.core k with tabs := b }).doneWaiting t w).core k).tabs = b :=
  (congrFun (view_doneWaiting keptAtRetire_tabs _ t w) k).trans (congrArg Core.tabs (core_setCore_same ..))

/-- The pair of the load l has replaced its predecessor, and its QTLD retires (R263). -/
def pairReplaced (s : State) (l : MeanLoad) (r : List MeanLoad) : State :=
  (s.updCore s.subj fun c => { c with means := { c.means with pairs := FMap.set c.means.pairs l.n (some l.pair), loading := r } }).doneWaiting
    (s.subj * 64 + l.thread) (.unit l.id)

theorem meanPair_replaced {l : MeanLoad} {r : List MeanLoad} (hl : (s.core s.subj).means.loading = l :: r) (hdue : l.due ≤ s.cycOf s.subj) :
    exec .meanPairReplace s = .next (pairReplaced s l r) := by
  refine happen_some (o := occMeanPairReplace s) ?_
  simp only [occMeanPairReplace, hl, Nat.not_lt.2 hdue, if_false]
  rfl

theorem means_pairReplaced (l : MeanLoad) (r : List MeanLoad) : ((pairReplaced s l r).core s.subj).means =
    { (s.core s.subj).means with pairs := FMap.set (s.core s.subj).means.pairs l.n (some l.pair), loading := r } :=
  (congrFun (view_doneWaiting keptAtRetire_means _ _ _) s.subj).trans (congrArg Core.means (core_updCore_same ..))

/-! ## Commands (R218, R357) -/

/-- The item State.subj has left the package's own messages. -/
def itemTaken (s : State) : State := { s with net := s.net.filter fun j => j.id != s.subj }

/-- A queue entry of the command m, which decodes with the tables that its target core holds in s. -/
def commandEntry (s : State) (m : MCommand) (id : Nat) (op : MxOp) : MxEntry :=
  { id := id, thr := none, tenant := m.tenant, rcpt := m.src, reg := m.reg, op := op
    tabA := (s.core (locCore m.target)).tabs.a, tabB := (s.core (locCore m.target)).tabs.b, bad := none }

/-- The BLD of the command m, where it has one, has entered the queue in u. -/
def loadEntered (s : State) (m : MCommand) (u : State) : State :=
  match m.kind, bldCheck m.bload m.fmtB with
  | 1, .ok (a, n) => u.mxPush (locCore m.target) (commandEntry s m u.nextId (.bld a n m.fmtB))
  | _, _ => u

/-- The MMA of the command m. -/
def commandMma (m : MCommand) : MxOp := (mcmdArgs m).op ((mxMode m.fmtA m.fmtB).getD false) (.ab m.aaddr.toNat)

def commandEntered (s : State) (m : MCommand) (u : State) : State :=
  (loadEntered s m u).mxPush (locCore m.target) (commandEntry s m (loadEntered s m u).nextId (commandMma m))

/-- What becomes of the command m, by who holds its target core. -/
def commandSettled (s : State) (m : MCommand) : State :=
  if (s.holder (locCore m.target)).all fun h => decide (h.2.1 ≠ m.capt) then
    ((itemTaken s).vlogAt (locCore m.target) m.handle 0x04 m.tenant (locWord m.src)).receipt m.src m.reg (bareReceipt 5)
  else if (s.holder (locCore m.target)).any (·.2.2) then (itemTaken s).receipt m.src m.reg (bareReceipt 10)
  else commandEntered s m (itemTaken s)

theorem command_found {i : NetItem} {m : MCommand} (hi : i ∈ s.net) (hid : i.id = s.subj) (hmsg : i.msg = .mcmd m)
    (honly : ∀ j ∈ s.net, j.id = s.subj → j = i) :
    (s.net.findSome? fun j => match j.msg with | .mcmd m => if j.id = s.subj then some m else none | _ => none) = some m := by
  cases h : s.net.findSome? fun j => match j.msg with | .mcmd m => if j.id = s.subj then some m else none | _ => none with
  | none =>
    have hnone := List.findSome?_eq_none_iff.1 h i hi
    simp [hmsg, hid] at hnone
  | some m' =>
    obtain ⟨j, hj, hfound⟩ := List.exists_of_findSome?_eq_some h
    split at hfound
    · next m'' hm =>
      split at hfound
      · next hjid =>
        rw [honly j hj hjid, hmsg] at hm
        cases hm
        exact hfound.symm
      · cases hfound
    · cases hfound

theorem command_arrives {i : NetItem} {m : MCommand} (hi : i ∈ s.net) (hid : i.id = s.subj) (hmsg : i.msg = .mcmd m)
    (honly : ∀ j ∈ s.net, j.id = s.subj → j = i) (hpkg : m.target.pkg = s.pkg)
    (hfirst : (s.mcmdsTo (locCore m.target)).head?.map (·.1) = some s.subj) (hadmits : s.mcmdAdmits (locCore m.target) m = true) :
    exec .mcmdArrival s = .next (commandSettled s m) := by
  refine happen_some (o := occMcmdArrival s) ?_
  unfold occMcmdArrival
  split
  · next hnone => exact absurd (hnone.symm.trans (command_found hi hid hmsg honly)) (Option.some_ne_none m).symm
  · next m' hm' =>
    obtain rfl : m' = m := Option.some.inj (hm'.symm.trans (command_found hi hid hmsg honly))
    dsimp only
    rw [if_neg (by simp [hpkg, hfirst, hadmits]), commandSettled, apply_ite some, apply_ite some]
    rfl

section
variable {m : MCommand}

theorem commandSettled_unheld (h : s.holder (locCore m.target) = none) : commandSettled s m =
    ((itemTaken s).vlogAt (locCore m.target) m.handle 0x04 m.tenant (locWord m.src)).receipt m.src m.reg (bareReceipt 5) := by
  rw [commandSettled, h]
  rfl

variable {n : Nat} {capt : Word} {away : Bool} (h : s.holder (locCore m.target) = some (n, capt, away))
include h

theorem commandSettled_uncapable (hc : capt ≠ m.capt) : commandSettled s m =
    ((itemTaken s).vlogAt (locCore m.target) m.handle 0x04 m.tenant (locWord m.src)).receipt m.src m.reg (bareReceipt 5) := by
  rw [commandSettled, h]
  exact if_pos (decide_eq_true hc)

theorem commandSettled_capable (hc : capt = m.capt) : commandSettled s m =
    if away then (itemTaken s).receipt m.src m.reg (bareReceipt 10) else commandEntered s m (itemTaken s) := by
  rw [commandSettled, h]
  exact if_neg (by simp [hc])

end

/-! ## Who holds a core (R218, R333, R357) -/

theorem holder_assigned {ck : Nat} (h : (s.core ck).assigned = true) :
    s.holder ck = some ((s.core ck).tenant, (s.core ck).capt, (s.tenant (s.core ck).tenant).preempted) := if_pos h

theorem holder_none {ck : Nat} (h : (s.core ck).assigned = false) (hsaved : ∀ x ∈ s.saved, FMap.find? x.cores ck = none) :
    s.holder ck = none := by
  rw [holder, h]
  exact List.findSome?_eq_none_iff.2 fun x hx => by rw [hsaved x hx]; rfl

theorem holder_saved {ck : Nat} {x : SavedTenant} {k : Core} (h : (s.core ck).assigned = false) (hsaved : s.saved = [x])
    (hk : FMap.find? x.cores ck = some k) : s.holder ck = some (x.tenant, k.capt, (s.tenant x.tenant).preempted) := by
  rw [holder, h, hsaved]
  simp [hk]

/-! ## The entries of a command (R218) -/

theorem queue_mxPush (u : State) (ck : Nat) (e : MxEntry) : ((u.mxPush ck e).core ck).mx.queue = (u.core ck).mx.queue ++ [e] := by
  rw [mxPush, core_updCore_same]
  rfl

theorem loadEntered_queues (m : MCommand) (u : State) : ∃ l : List MxEntry,
    ((loadEntered s m u).core (locCore m.target)).mx.queue = (u.core (locCore m.target)).mx.queue ++ l ∧ (loadEntered s m u).net = u.net ∧
      (m.kind ≠ 1 → l = []) ∧ ∀ a n, m.kind = 1 → bldCheck m.bload m.fmtB = .ok (a, n) → l.map (·.op) = [.bld a n m.fmtB] := by
  unfold loadEntered
  split
  · next a n hkind hload =>
    refine ⟨_, queue_mxPush .., rfl, fun h => absurd hkind h, fun a' n' _ h => ?_⟩
    cases hload.symm.trans h
    rfl
  · next hno => exact ⟨[], (List.append_nil _).symm, rfl, fun _ => rfl, fun a n hkind hload => (hno a n hkind hload).elim⟩

theorem commandEntered_queues (m : MCommand) (u : State) : ∃ (l : List MxEntry) (e : MxEntry),
    ((commandEntered s m u).core (locCore m.target)).mx.queue = (u.core (locCore m.target)).mx.queue ++ l ++ [e] ∧
      (commandEntered s m u).net = u.net ∧ e.op = commandMma m ∧ e.thr = none ∧ e.rcpt = m.src ∧ e.reg = m.reg ∧ e.tenant = m.tenant ∧
      (m.kind ≠ 1 → l = []) ∧ ∀ a n, m.kind = 1 → bldCheck m.bload m.fmtB = .ok (a, n) → l.map (·.op) = [.bld a n m.fmtB] := by
  obtain ⟨l, hqueue, hnet, hloads⟩ := loadEntered_queues (s := s) m u
  exact ⟨l, _, by rw [commandEntered, queue_mxPush, hqueue], hnet, rfl, rfl, rfl, rfl, rfl, hloads⟩

end Sys2Proof.Claim.MatrixEvent

namespace Sys2Proof.Claim

open Sys2Proof Sys2Proof.Machine Sys2Proof.Machine.State MatrixEvent

theorem matrixQueueRuns : MatrixQueueRuns := fun s e _ =>
  ⟨fun hq hready =>
    ⟨fun _ _ _ _ _ _ _ _ _ _ _ he => ⟨mma_performed hq hready he, free_performMma _ _, drain_performMma _ _⟩,
      fun _ _ _ he => latch_activated hq (bld_performed hq hready he), fun _ he => latch_activated hq (brot_performed hq hready he),
      fun h k w vals he => ⟨tcontribution s e h k w vals, rfl, rfl, rfl, rfl, rfl, rfl, rfl, rfl, tcont_performed hq hready he⟩⟩,
    fun hq he hinc ⟨_, hm, hle⟩ => ⟨_, latch_arrives rfl hq he hinc hm hle, core_latchPassed ..⟩⟩

theorem exchangesAndTablesComplete : ExchangesAndTablesComplete := by
  intro s hok
  refine ⟨fun x y xs ys hx hy hne hxh hyh hxc hyc hlen _ => ⟨_, _, rfl, swapts_exchange hx hy hne hlen hxh hyh hxc hyc, ?_⟩,
    fun l _ hl hdecoded hdue hfirst => ⟨_, decodeTable_replaced hl hdecoded hdue hfirst, ?_⟩,
    fun _ _ hl hdue => ⟨_, meanPair_replaced hl hdue, ?_⟩⟩
  · rw [ab_gone_on, ab_gone_on]
    exact exchange_reads hok hne hlen
  · rw [tabs_replaced, tabsReplaced]
    cases l.b <;> simp
  · simp only [Core.meanPair, means_pairReplaced, FMap.get_set_same, true_and]
    exact fun n hn => FMap.get_set_other _ _ _ hn

theorem commandsArrive : CommandsArrive := by
  intro s i m hi hid hmsg honly hpkg ck c rest hfirst hadmits
  have harrives := command_arrives hi hid hmsg honly hpkg hfirst hadmits
  refine ⟨?_, fun x k hfree hsaved hk hcapt haway => ?_, fun hheld hcapt => ?_⟩
  · rintro (⟨hfree, hsaved⟩ | ⟨hheld, hcapt⟩)
    · rw [harrives, commandSettled_unheld (holder_none hfree hsaved)]
      rfl
    · rw [harrives, commandSettled_uncapable (holder_assigned hheld) hcapt]
      rfl
  · rw [harrives, commandSettled_capable (holder_saved hfree hsaved hk) hcapt, if_pos haway]
    rfl
  · rw [harrives, commandSettled_capable (holder_assigned hheld) hcapt]
    refine ⟨fun haway => by rw [if_pos haway]; rfl, fun hhere => ?_⟩
    rw [if_neg (Bool.eq_false_iff.1 hhere)]
    obtain ⟨l, e, hqueue⟩ := commandEntered_queues (s := s) m rest
    exact ⟨_, l, e, rfl, hqueue⟩

/-- Settles O25: the events of the unit by the state that each leads to, and a command by who holds its core. -/
theorem matrixUnitRuns : Obligations.MatrixUnitRuns := ⟨matrixQueueRuns, exchangesAndTablesComplete, commandsArrive⟩

end Sys2Proof.Claim
end

section
/-! PROOFS. The arithmetic, special-function, logical, move and permutation instructions of vectors (R182 to R184, R189 to R192, R196). -/

namespace Sys2Proof.Claim.VectorForm

open Sys2Proof Sys2Proof.Machine Sys2Proof.Machine.State

variable {s : State} {i : Instr} {k : VMask} {a b c : VOp} {g h : GReg} {lat : Nat}

/-! ## The forms that write a vector under the mask (R183 to R185) -/

/-- An operation whose effect is to write the vector r, computed in the state that it acts on, in the lanes of its mask. -/
theorem landsV_of_vres {f : Option Num.Fmt} {r : State → VWord}
    (hform : exec i s = performE s i fun u => u.vres f a (u.mask k) (r u) lat) : LandsV s i k a (r s) lat := fun hr hd =>
  hform.trans (performE_consumed hr (vres_sound hd ..))

/-- An operation of one source; f is the format that the shadow unit checks (R185), none where it checks nothing. -/
theorem landsV_of_vec1 (f : Option Num.Fmt) {op : VWord → VWord} (hform : exec i s = vec1 s i f k a b lat op) :
    LandsV s i k a (op (s.rdV b)) lat :=
  landsV_of_vres (r := fun u => op (u.rdV b)) hform

/-- An operation of two sources, with f as for one. -/
theorem landsV_of_vec2 (f : Option Num.Fmt) {op : VWord → VWord → VWord} (hform : exec i s = vec2 s i f k a b c lat op) :
    LandsV s i k a (op (s.rdV b) (s.rdV c)) lat :=
  landsV_of_vres (r := fun u => op (u.rdV b) (u.rdV c)) hform

/-! ## The forms with a third source: the destination as it was (R189) -/

section
variable {e : VElt}

theorem exec_vfma : exec (.vfma e k a b c) s = performE s (.vfma e k a b c) fun u =>
    u.vres (eltFmt e) a (u.mask k) (map3 (eltBits e) (fmaE e) (u.rdV b) (u.rdV c) (u.rdV a)) 8 := rfl

theorem exec_vfms : exec (.vfms e k a b c) s = performE s (.vfms e k a b c) fun u =>
    u.vres (eltFmt e) a (u.mask k) (map3 (eltBits e) (fmsE e) (u.rdV b) (u.rdV c) (u.rdV a)) 8 := rfl

end

/-! ## Moves and permutations (R196) -/

theorem exec_vbcast : exec (.vbcast k a g) s = performE s (.vbcast k a g) fun u =>
    u.vres none a (u.mask k) (ofLanes fun _ => (u.rdG g).toNat % 2 ^ 32) 8 := rfl

theorem exec_vins : exec (.vins k a g h) s = perform s (.vins k a g h) fun u =>
    u.wrV a (blend (u.mask k &&& BitVec.ofNat 128 (2 ^ ((u.rdG h).toNat % 128))) (ofLanes fun _ => (u.rdG g).toNat % 2 ^ 32)
      (u.oldV a)) 8 := rfl

theorem exec_vext : exec (.vext g b h) s = perform s (.vext g b h) fun u =>
    u.wrG g ((lane (u.rdV b) ((u.rdG h).toNat % 128)).setWidth 64) := rfl

theorem exec_vperm : exec (.vperm k a b c) s = performE s (.vperm k a b c) fun u => u.vres none a (u.mask k)
    (ofLanes fun i => if 2 ^ 31 ≤ elem 32 (u.rdV c) i then 0 else elem 32 (u.rdV b) (elem 32 (u.rdV c) i % 128)) 8 := rfl

theorem exec_vrot : exec (.vrot k a b g) s = performE s (.vrot k a b g) fun u =>
    u.vres none a (u.mask k) (ofLanes fun i => elem 32 (u.rdV b) ((i + (u.rdG g).toNat % 128) % 128)) 8 := rfl

theorem exec_viota : exec (.viota k a) s = performE s (.viota k a) fun u => u.vres none a (u.mask k) (ofLanes fun i => i) 8 := rfl

end Sys2Proof.Claim.VectorForm

namespace Sys2Proof.Claim

open Sys2Proof Sys2Proof.Machine Sys2Proof.Machine.State VectorForm

theorem vectorArithmeticCompletes : VectorArithmeticCompletes := fun _ e _ _ _ _ =>
  ⟨landsV_of_vec2 (eltFmt e) rfl, landsV_of_vec2 (eltFmt e) rfl, landsV_of_vec2 (eltFmt e) rfl, landsV_of_vec2 (eltFmt e) rfl,
    landsV_of_vec2 (eltFmt e) rfl, landsV_of_vec1 (eltFmt e) rfl, landsV_of_vec1 (eltFmt e) rfl, (landsV_of_vres exec_vfma :),
    (landsV_of_vres exec_vfms :)⟩

theorem specialFunctionsComplete : SpecialFunctionsComplete := fun _ _ _ _ _ _ =>
  ⟨landsV_of_vec2 (some Num.f32) rfl, landsV_of_vec1 (some Num.f32) rfl, landsV_of_vec1 (some Num.f32) rfl,
    landsV_of_vec1 (some Num.f32) rfl, landsV_of_vec1 (some Num.f32) rfl, landsV_of_vec1 (some Num.f32) rfl,
    landsV_of_vec1 (some Num.f32) rfl, landsV_of_vec1 (some Num.f32) rfl⟩

/-- Settles O18: every form computes its vector with the function of the rule and writes it under the mask. -/
theorem vectorFloatsComplete : Obligations.VectorFloatsComplete := ⟨vectorArithmeticCompletes, specialFunctionsComplete⟩

/-- Settles O19: every form but two writes a vector under the mask; VINS narrows the mask to its one lane, and VEXT writes a register. -/
theorem vectorBitsAndMovesComplete : Obligations.VectorBitsAndMovesComplete := fun _ _ _ _ _ _ _ _ _ =>
  ⟨landsV_of_vec2 none rfl, landsV_of_vec2 none rfl, landsV_of_vec2 none rfl, landsV_of_vec2 none rfl, landsV_of_vec2 none rfl,
    landsV_of_vec2 none rfl, landsV_of_vec1 none rfl, landsV_of_vec1 none rfl, landsV_of_vec1 none rfl,
    landsV_of_vec1 (op := id) none rfl, (landsV_of_vres exec_vbcast :), fun hr => exec_vins.trans (perform_consumed hr _),
    fun hr => exec_vext.trans (perform_consumed hr _), (landsV_of_vres exec_vperm :), (landsV_of_vres exec_vrot :),
    (landsV_of_vres exec_viota :)⟩

end Sys2Proof.Claim
end
